-- ==== Sys2Proof/Word.lean ====
section
/-!
DEFINITION. Word.lean: the machine's word types (spec/03_numbers.md R26, spec/05_encoding.md R63).
-/
namespace Sys2Proof

/-- A 64-bit register or doubleword (R63). -/
abbrev Word := BitVec 64
/-- A 32-bit instruction word, parameter word or FP32 pattern (R54, R58). -/
abbrev Word32 := BitVec 32
/-- A byte of memory. -/
abbrev Byte := BitVec 8
/-- A 5-bit register field (R57). -/
abbrev Reg := BitVec 5

end Sys2Proof
end

