-- ==== Sys2Proof/Syntax.lean ====
section
/-!
DEFINITION. Syntax.lean: the instructions and the hardware's steps, one constructor per row of spec/opcode_table.json.
The first group are the one-word instructions (spec/05_encoding.md R55, R71-R74), the second the L-format instructions
with their four parameter words (R58), the third the steps of the hardware that spec/95_what_each_step_holds.md lists.
A field is as wide as the encoding gives it; a step names the place it happens at by numbers.
-/
namespace Sys2Proof

/-- The four parameter words of an L-format instruction (R54, R58). -/
structure Params where
  w0 : Word32
  w1 : Word32
  w2 : Word32
  w3 : Word32
  deriving DecidableEq, Repr

/-- One constructor per row of the opcode table. -/
inductive Instr where
  /-- R99. Writes the 64-bit sum of x[ra] and x[rb] to x[rd]. -/
  | add (d : BitVec 5) (a : BitVec 5) (b : BitVec 5)
  /-- R99. Writes x[ra] minus x[rb], modulo 2^64, to x[rd]. -/
  | sub (d : BitVec 5) (a : BitVec 5) (b : BitVec 5)
  /-- R99. Writes the bitwise AND of x[ra] and x[rb] to x[rd]. -/
  | and (d : BitVec 5) (a : BitVec 5) (b : BitVec 5)
  /-- R99. Writes the bitwise OR of x[ra] and x[rb] to x[rd]. -/
  | or (d : BitVec 5) (a : BitVec 5) (b : BitVec 5)
  /-- R99. Writes the bitwise XOR of x[ra] and x[rb] to x[rd]. -/
  | xor (d : BitVec 5) (a : BitVec 5) (b : BitVec 5)
  /-- R99. Shifts x[ra] left by the low six bits of x[rb]. -/
  | sll (d : BitVec 5) (a : BitVec 5) (b : BitVec 5)
  /-- R99. Shifts x[ra] right logically by the low six bits of x[rb]. -/
  | srl (d : BitVec 5) (a : BitVec 5) (b : BitVec 5)
  /-- R99. Shifts x[ra] right arithmetically by the low six bits of x[rb]. -/
  | sra (d : BitVec 5) (a : BitVec 5) (b : BitVec 5)
  /-- R99. Writes 1 to x[rd] if x[ra] is less than x[rb] as signed values, else 0. -/
  | slt (d : BitVec 5) (a : BitVec 5) (b : BitVec 5)
  /-- R99. Writes 1 to x[rd] if x[ra] is less than x[rb] as unsigned values, else 0. -/
  | sltu (d : BitVec 5) (a : BitVec 5) (b : BitVec 5)
  /-- R99. Writes the signed lesser of x[ra] and x[rb] to x[rd]. -/
  | min (d : BitVec 5) (a : BitVec 5) (b : BitVec 5)
  /-- R99. Writes the signed greater of x[ra] and x[rb] to x[rd]. -/
  | max (d : BitVec 5) (a : BitVec 5) (b : BitVec 5)
  /-- R99. Writes the unsigned lesser of x[ra] and x[rb] to x[rd]. -/
  | minu (d : BitVec 5) (a : BitVec 5) (b : BitVec 5)
  /-- R99. Writes the unsigned greater of x[ra] and x[rb] to x[rd]. -/
  | maxu (d : BitVec 5) (a : BitVec 5) (b : BitVec 5)
  /-- R100. Writes the low 64 bits of x[ra] times x[rb] to x[rd]. -/
  | mul (d : BitVec 5) (a : BitVec 5) (b : BitVec 5)
  /-- R100. Writes the high 64 bits of the signed product of x[ra] and x[rb]. -/
  | mulh (d : BitVec 5) (a : BitVec 5) (b : BitVec 5)
  /-- R100. Writes the high 64 bits of the unsigned product of x[ra] and x[rb]. -/
  | mulhu (d : BitVec 5) (a : BitVec 5) (b : BitVec 5)
  /-- R100. Writes the signed quotient, rounded toward zero and with the edge cases of R28, to x[rd]. -/
  | div (d : BitVec 5) (a : BitVec 5) (b : BitVec 5)
  /-- R100. Writes the unsigned quotient, with the edge cases of R28, to x[rd]. -/
  | divu (d : BitVec 5) (a : BitVec 5) (b : BitVec 5)
  /-- R100. Writes the signed remainder, with the edge cases of R28, to x[rd]. -/
  | rem (d : BitVec 5) (a : BitVec 5) (b : BitVec 5)
  /-- R100. Writes the unsigned remainder, with the edge cases of R28, to x[rd]. -/
  | remu (d : BitVec 5) (a : BitVec 5) (b : BitVec 5)
  /-- R101. Writes the count of leading zero bits of x[ra] to x[rd]. -/
  | clz (d : BitVec 5) (a : BitVec 5)
  /-- R101. Writes the count of trailing zero bits of x[ra] to x[rd]. -/
  | ctz (d : BitVec 5) (a : BitVec 5)
  /-- R101. Writes the count of one bits of x[ra] to x[rd]. -/
  | popc (d : BitVec 5) (a : BitVec 5)
  /-- R101. Writes x[ra] to x[rd] if x[rc] is non-zero, else x[rb]. -/
  | sel (d : BitVec 5) (a : BitVec 5) (b : BitVec 5) (c : BitVec 5)
  /-- R102. Adds the sign-extended immediate to x[ra]. -/
  | addi (d : BitVec 5) (a : BitVec 5) (i : BitVec 16)
  /-- R102. ANDs x[ra] with the sign-extended immediate. -/
  | andi (d : BitVec 5) (a : BitVec 5) (i : BitVec 16)
  /-- R102. ORs x[ra] with the sign-extended immediate. -/
  | ori (d : BitVec 5) (a : BitVec 5) (i : BitVec 16)
  /-- R102. XORs x[ra] with the sign-extended immediate. -/
  | xori (d : BitVec 5) (a : BitVec 5) (i : BitVec 16)
  /-- R102. Compares x[ra] signed against the sign-extended immediate. -/
  | slti (d : BitVec 5) (a : BitVec 5) (i : BitVec 16)
  /-- R102. Compares x[ra] unsigned against the sign-extended immediate. -/
  | sltiu (d : BitVec 5) (a : BitVec 5) (i : BitVec 16)
  /-- R103. Shifts x[ra] left by the immediate count. -/
  | slli (d : BitVec 5) (a : BitVec 5) (n : BitVec 6)
  /-- R103. Shifts x[ra] right logically by the immediate count. -/
  | srli (d : BitVec 5) (a : BitVec 5) (n : BitVec 6)
  /-- R103. Shifts x[ra] right arithmetically by the immediate count. -/
  | srai (d : BitVec 5) (a : BitVec 5) (n : BitVec 6)
  /-- R103. Extracts a bit field of x[ra], zero-extended, into x[rd]. -/
  | extr (d : BitVec 5) (a : BitVec 5) (w : BitVec 6) (p : BitVec 6)
  /-- R103. Inserts the low bits of x[ra] into a bit field of x[rd]. -/
  | insr (d : BitVec 5) (a : BitVec 5) (w : BitVec 6) (p : BitVec 6)
  /-- R104. Writes the sign-extended immediate times 2^16 to x[rd]. -/
  | lui (d : BitVec 5) (i : BitVec 16)
  /-- R104. Writes PC plus four times the sign-extended immediate to x[rd]. -/
  | addpc (d : BitVec 5) (i : BitVec 16)
  /-- R105. Branches when x[ra] equals x[rb]. -/
  | beq (a : BitVec 5) (b : BitVec 5) (i : BitVec 16)
  /-- R105. Branches when x[ra] differs from x[rb]. -/
  | bne (a : BitVec 5) (b : BitVec 5) (i : BitVec 16)
  /-- R105. Branches when x[ra] is less than x[rb] as signed values. -/
  | blt (a : BitVec 5) (b : BitVec 5) (i : BitVec 16)
  /-- R105. Branches when x[ra] is at least x[rb] as signed values. -/
  | bge (a : BitVec 5) (b : BitVec 5) (i : BitVec 16)
  /-- R105. Branches when x[ra] is less than x[rb] as unsigned values. -/
  | bltu (a : BitVec 5) (b : BitVec 5) (i : BitVec 16)
  /-- R105. Branches when x[ra] is at least x[rb] as unsigned values. -/
  | bgeu (a : BitVec 5) (b : BitVec 5) (i : BitVec 16)
  /-- R106. Jumps PC-relative and writes the return address to x[rd]. -/
  | jal (d : BitVec 5) (i : BitVec 21)
  /-- R106. Jumps to x[ra] plus the offset and writes the return address to x[rd]. -/
  | jalr (d : BitVec 5) (a : BitVec 5) (i : BitVec 16)
  /-- R107. Branches when TSW.BS equals the named outcome code. -/
  | bst (c : BitVec 3) (i : BitVec 16)
  /-- R107. Branches when TSW.BS differs from the named outcome code. -/
  | bstN (c : BitVec 3) (i : BitVec 16)
  /-- R108. Adds two FP32 operands with one rounding. -/
  | fadd (d : BitVec 5) (a : BitVec 5) (b : BitVec 5) (m : BitVec 3)
  /-- R108. Subtracts two FP32 operands with one rounding. -/
  | fsub (d : BitVec 5) (a : BitVec 5) (b : BitVec 5) (m : BitVec 3)
  /-- R108. Multiplies two FP32 operands with one rounding. -/
  | fmul (d : BitVec 5) (a : BitVec 5) (b : BitVec 5) (m : BitVec 3)
  /-- R108. Divides two FP32 operands with one rounding, occupying the thread for 24 cycles. -/
  | fdiv (d : BitVec 5) (a : BitVec 5) (b : BitVec 5) (m : BitVec 3)
  /-- R108. Takes the FP32 square root with one rounding. -/
  | fsqrt (d : BitVec 5) (a : BitVec 5) (m : BitVec 3)
  /-- R109. Writes the lesser FP32 operand, with -0 ordered below +0. -/
  | fmin (d : BitVec 5) (a : BitVec 5) (b : BitVec 5)
  /-- R109. Writes the greater FP32 operand, with -0 ordered below +0. -/
  | fmax (d : BitVec 5) (a : BitVec 5) (b : BitVec 5)
  /-- R110. Writes 1 to x[rd] when the FP32 operands are equal. -/
  | feq (d : BitVec 5) (a : BitVec 5) (b : BitVec 5)
  /-- R110. Writes 1 to x[rd] when fa is less than fb. -/
  | flt (d : BitVec 5) (a : BitVec 5) (b : BitVec 5)
  /-- R110. Writes 1 to x[rd] when fa is at most fb. -/
  | fle (d : BitVec 5) (a : BitVec 5) (b : BitVec 5)
  /-- R110. Writes a one-hot class mask of the FP32 operand to x[rd]. -/
  | fclass (d : BitVec 5) (a : BitVec 5)
  /-- R111. Copies, negates or XORs a sign bit onto the magnitude of fa. -/
  | fsgn (d : BitVec 5) (a : BitVec 5) (b : BitVec 5) (s : BitVec 3)
  /-- R112. Converts between FP32, BF16, FP16 and 64-bit integers as sub selects. -/
  | fcvt (d : BitVec 5) (a : BitVec 5) (m : BitVec 3) (s : BitVec 3)
  /-- R111. Moves all 64 bits of f[ra] to x[rd]. -/
  | fmvxf (d : BitVec 5) (a : BitVec 5)
  /-- R111. Moves all 64 bits of x[ra] to f[rd]. -/
  | fmvfx (d : BitVec 5) (a : BitVec 5)
  /-- R113. Computes a times b plus c with one rounding. -/
  | fma (d : BitVec 5) (a : BitVec 5) (b : BitVec 5) (c : BitVec 5) (m : BitVec 3)
  /-- R113. Computes a times b minus c with one rounding. -/
  | fms (d : BitVec 5) (a : BitVec 5) (b : BitVec 5) (c : BitVec 5) (m : BitVec 3)
  /-- R113. Computes minus a times b minus c with one rounding. -/
  | fnma (d : BitVec 5) (a : BitVec 5) (b : BitVec 5) (c : BitVec 5) (m : BitVec 3)
  /-- R113. Computes minus a times b plus c with one rounding. -/
  | fnms (d : BitVec 5) (a : BitVec 5) (b : BitVec 5) (c : BitVec 5) (m : BitVec 3)
  /-- R114. Queues an SFU request for e to the power of the operand. -/
  | fexp (d : BitVec 5) (a : BitVec 5) (l : BitVec 4) (m : BitVec 3)
  /-- R114. Queues an SFU request for the natural logarithm. -/
  | flog (d : BitVec 5) (a : BitVec 5) (l : BitVec 4) (m : BitVec 3)
  /-- R114. Queues an SFU request for the reciprocal. -/
  | frcp (d : BitVec 5) (a : BitVec 5) (l : BitVec 4) (m : BitVec 3)
  /-- R114. Queues an SFU request for the reciprocal square root. -/
  | frsq (d : BitVec 5) (a : BitVec 5) (l : BitVec 4) (m : BitVec 3)
  /-- R114. Queues an SFU request for the hyperbolic tangent. -/
  | ftanh (d : BitVec 5) (a : BitVec 5) (l : BitVec 4) (m : BitVec 3)
  /-- R114. Queues an SFU request for the logistic sigmoid. -/
  | fsigm (d : BitVec 5) (a : BitVec 5) (l : BitVec 4) (m : BitVec 3)
  /-- R147. Loads from a raw, paged, structured or format-window address into x[rd]. -/
  | ld (d : BitVec 5) (a : BitVec 5) (l : BitVec 4) (x : BitVec 1) (s : BitVec 3) (i : BitVec 8)
  /-- R147. Stores x[rs], or a pair for ST.Q, through the addressed view. -/
  | st (t : BitVec 5) (a : BitVec 5) (l : BitVec 4) (x : BitVec 1) (s : BitVec 3) (i : BitVec 8)
  /-- R147. Loads a word or doubleword into f[rd]. -/
  | ldf (d : BitVec 5) (a : BitVec 5) (l : BitVec 4) (x : BitVec 1) (s : BitVec 3) (i : BitVec 8)
  /-- R147. Stores a word or doubleword from f[rs]. -/
  | stf (t : BitVec 5) (a : BitVec 5) (l : BitVec 4) (x : BitVec 1) (s : BitVec 3) (i : BitVec 8)
  /-- R148. Sleeps until the word is full, reads it and sets it empty. -/
  | ldfe (d : BitVec 5) (a : BitVec 5) (l : BitVec 4) (i : BitVec 8)
  /-- R148. Sleeps until the word is full and reads it, leaving it full. -/
  | ldff (d : BitVec 5) (a : BitVec 5) (l : BitVec 4) (i : BitVec 8)
  /-- R148. Sleeps until the word is empty, writes it and sets it full. -/
  | stef (t : BitVec 5) (a : BitVec 5) (l : BitVec 4) (i : BitVec 8)
  /-- R148. Writes the word and sets it full without waiting. -/
  | stff (t : BitVec 5) (a : BitVec 5) (l : BitVec 4) (i : BitVec 8)
  /-- R148. Sets a count of consecutive doublewords empty, keeping their data. -/
  | sete (c : BitVec 5) (a : BitVec 5) (l : BitVec 4) (i : BitVec 8)
  /-- R148. Sets a count of consecutive doublewords full, keeping their data. -/
  | setf (c : BitVec 5) (a : BitVec 5) (l : BitVec 4) (i : BitVec 8)
  /-- R149. Atomically adds x[rb] to memory and returns the old value. -/
  | amoadd (d : BitVec 5) (a : BitVec 5) (b : BitVec 5) (l : BitVec 4) (z : BitVec 1)
  /-- R149. Atomically ANDs x[rb] into memory and returns the old value. -/
  | amoand (d : BitVec 5) (a : BitVec 5) (b : BitVec 5) (l : BitVec 4) (z : BitVec 1)
  /-- R149. Atomically ORs x[rb] into memory and returns the old value. -/
  | amoor (d : BitVec 5) (a : BitVec 5) (b : BitVec 5) (l : BitVec 4) (z : BitVec 1)
  /-- R149. Atomically XORs x[rb] into memory and returns the old value. -/
  | amoxor (d : BitVec 5) (a : BitVec 5) (b : BitVec 5) (l : BitVec 4) (z : BitVec 1)
  /-- R149. Atomically stores the signed minimum and returns the old value. -/
  | amomin (d : BitVec 5) (a : BitVec 5) (b : BitVec 5) (l : BitVec 4) (z : BitVec 1)
  /-- R149. Atomically stores the signed maximum and returns the old value. -/
  | amomax (d : BitVec 5) (a : BitVec 5) (b : BitVec 5) (l : BitVec 4) (z : BitVec 1)
  /-- R149. Atomically swaps x[rb] into memory and returns the old value. -/
  | amoswap (d : BitVec 5) (a : BitVec 5) (b : BitVec 5) (l : BitVec 4) (z : BitVec 1)
  /-- R149. Atomically stores x[rb] if memory equals x[rd] and returns the old value. -/
  | cas (d : BitVec 5) (a : BitVec 5) (b : BitVec 5) (l : BitVec 4) (z : BitVec 1)
  /-- R163. Checks the scope against SCOPEPOL and waits until earlier accesses, acquired engine writes and host stores are performed in scope. -/
  | fence (s : BitVec 3)
  /-- R151. Loads a 16-byte segment descriptor into g[N]. -/
  | segld (g : BitVec 5) (a : BitVec 5) (l : BitVec 4)
  /-- R151. Reads one half of a segment register into x[rd]. -/
  | segrd (d : BitVec 5) (g : BitVec 5) (h : BitVec 5)
  /-- R152. Sets a bank's personality and capacity, emptying it or converting it under .K. -/
  | bankcfg (d : BitVec 5) (a : BitVec 5) (b : BitVec 5) (l : BitVec 4) (k : BitVec 1)
  /-- R134. A bank lock ends and the accesses held during it are performed on the new personality in arrival order. -/
  | bankConversionDone (core bank : Nat)
  /-- R152. Returns a bank's status word. -/
  | bankq (d : BitVec 5) (a : BitVec 5) (l : BitVec 4)
  /-- R153. Joins banks into a group, or dissolves an empty group. -/
  | bankjoin (a : BitVec 5) (l : BitVec 4)
  /-- R154. Reads a 32-byte record and enqueues it in a target core's inbox, or reports FULL. -/
  | send (t : BitVec 5) (a : BitVec 5) (l : BitVec 4)
  /-- R155. Dequeues the oldest inbox message, sleeping for one under .W. -/
  | dq (d : BitVec 5) (a : BitVec 5) (l : BitVec 4) (w : BitVec 1)
  /-- R156. Moves the thread to a named core, or home. -/
  | migrate (a : BitVec 5)
  /-- R123. A migration packet takes a free guest slot at the target, performs its access locally and continues. -/
  | migrationArrival (n : Nat)
  /-- R124. A queued migration packet takes a guest slot when one becomes free, in arrival order. -/
  | arrivalQueueAdmit (core : Nat)
  /-- R124. Every 256 cycles the source offers a refused migration packet again. -/
  | migrationReoffer (core : Nat)
  /-- R128. An access arrives at its bank and is performed whole at one instant, with its checks, outcome and BS. -/
  | bankAccessPerformed (core slot id : Nat)
  /-- R139. Every 64 cycles the bank offers again the operation of a sleeper that found the waiter table full. -/
  | waiterRetry (core bank : Nat)
  /-- R157. A paged access is translated and performed at its HBM port or at the PCIe endpoint. -/
  | portAccessPerformed (core slot id : Nat)
  /-- R146. The pager's wake message releases every access held at the port for the page, which walks again and is performed. -/
  | pagerWake (vf page : Nat)
  /-- R59. A pending long-latency or waiting instruction completes, writes its result and closes its lookahead window. -/
  | longLatencyComplete (core slot id : Nat)
  /-- R61. A fault detected after issue stops the thread at its next boundary with CAUSE.LATE set. -/
  | lateFault (core slot : Nat)
  /-- R140. A hardware message held by its source is enqueued once the inbox has room. -/
  | hwMessageDeliver (core : Nat)
  /-- R183. Configures a stream with base, count and mode, latching MXSB, codebook and rounding mode. -/
  | scfg (n : BitVec 5) (a : BitVec 5) (b : BitVec 5) (l : BitVec 4) (p : Params)
  /-- R184. Configures an indexed stream whose element addresses come from an index stream. -/
  | scfg2 (n : BitVec 5) (a : BitVec 5) (b : BitVec 5) (l : BitVec 4) (p : Params)
  /-- R185. Releases a stream once its elements are performed, raising a marked fault. -/
  | srel (n : BitVec 5) (l : BitVec 4) (p : Params)
  /-- R180. A read stream element is read at its bank at one instant, carrying any fault until consumed. -/
  | streamElementRead (core slot stream elem : Nat)
  /-- R180. A produced write stream element is performed at its bank. -/
  | streamElementWrite (core slot stream elem : Nat)
  /-- R190. Adds elements of two streams, or a stream and a scalar, into a write stream. -/
  | vadd (d : BitVec 3) (a : BitVec 3) (b : BitVec 3) (y : BitVec 5) (s : BitVec 2)
  /-- R190. Subtracts elementwise into a write stream. -/
  | vsub (d : BitVec 3) (a : BitVec 3) (b : BitVec 3) (y : BitVec 5) (s : BitVec 2)
  /-- R190. Multiplies elementwise into a write stream. -/
  | vmul (d : BitVec 3) (a : BitVec 3) (b : BitVec 3) (y : BitVec 5) (s : BitVec 2)
  /-- R191. Computes one fused multiply-add per element. -/
  | vfma (d : BitVec 3) (a : BitVec 3) (b : BitVec 3) (x : BitVec 5) (s : BitVec 2)
  /-- R190. Writes elementwise minima into a write stream. -/
  | vmin (d : BitVec 3) (a : BitVec 3) (b : BitVec 3) (y : BitVec 5) (s : BitVec 2)
  /-- R190. Writes elementwise maxima into a write stream. -/
  | vmax (d : BitVec 3) (a : BitVec 3) (b : BitVec 3) (y : BitVec 5) (s : BitVec 2)
  /-- R192. Takes the absolute value of each element. -/
  | vabs (d : BitVec 3) (a : BitVec 3) (s : BitVec 2)
  /-- R192. Negates each element. -/
  | vneg (d : BitVec 3) (a : BitVec 3) (s : BitVec 2)
  /-- R192. Converts each element between INT32, UINT32 and FP32. -/
  | vcvt (d : BitVec 3) (a : BitVec 3) (s : BitVec 2)
  /-- R192. Selects a or b per element by a condition stream. -/
  | vsel (d : BitVec 3) (a : BitVec 3) (b : BitVec 3) (x : BitVec 5)
  /-- R193. Compares elements and pushes INT32 1 or 0. -/
  | vcmp (d : BitVec 3) (a : BitVec 3) (b : BitVec 3) (x : BitVec 5) (y : BitVec 5) (s : BitVec 2)
  /-- R194. Reduces a stream in the fixed lane and tree order and pushes one result. -/
  | vred (d : BitVec 3) (a : BitVec 3) (y : BitVec 5) (s : BitVec 2)
  /-- R194. Pushes the sequential inclusive scan of a stream. -/
  | vscan (d : BitVec 3) (a : BitVec 3) (y : BitVec 5) (s : BitVec 2)
  /-- R194. Pushes the dot product of two streams in the fixed order. -/
  | vdot (d : BitVec 3) (a : BitVec 3) (b : BitVec 3) (y : BitVec 5) (s : BitVec 2)
  /-- R195. Queues one SFU request of e to the power of each element. -/
  | vexp (d : BitVec 3) (a : BitVec 3)
  /-- R195. Queues one SFU request of the logarithm of each element. -/
  | vlog (d : BitVec 3) (a : BitVec 3)
  /-- R195. Queues one SFU request of the reciprocal of each element. -/
  | vrcp (d : BitVec 3) (a : BitVec 3)
  /-- R195. Queues one SFU request of the reciprocal square root of each element. -/
  | vrsq (d : BitVec 3) (a : BitVec 3)
  /-- R195. Queues one SFU request of tanh of each element. -/
  | vtanh (d : BitVec 3) (a : BitVec 3)
  /-- R195. Queues one SFU request of the sigmoid of each element. -/
  | vsigm (d : BitVec 3) (a : BitVec 3)
  /-- R196. Waits until the thread's stream writes are performed, fault marks raised and unconsumed reads discarded. -/
  | vfence
  /-- R187. In a cycle of its owner's position a V-format instruction handles up to 192 elements, completing at its last beat. -/
  | vectorBeat (core slot : Nat)
  /-- R197. Twenty cycles after an element begins, the SFU writes its result, completing the request at its last. -/
  | sfuResult (core : Nat)
  /-- R208. Asks for an array lease of n counted commands and sleeps until the grant. -/
  | mlease (l : BitVec 4) (p : Params)
  /-- R200. The array grants a lease, clearing accumulators and codebooks and moving in the core's bit tiles. -/
  | arrayLeaseGrant (cluster : Nat)
  /-- R202. 65,536 cycles after the grant the lease ends and unfinished commands are abandoned. -/
  | leaseTimeLimit (cluster : Nat)
  /-- R209. Ends the thread's lease once its counted commands have completed. -/
  | mfree  (p : Params)
  /-- R210. Waits until every array command of the thread has finished and acquires MEPI writes. -/
  | mwait  (p : Params)
  /-- R211. Queues a copy of operand B into the Anvil bands. -/
  | mloadb (a : BitVec 5) (b : BitVec 5) (l : BitVec 4) (p : Params)
  /-- R211. An MLOADB finishes filling its bands, or fails, and posts its completion message. -/
  | mloadbTransferDone (cluster id : Nat)
  /-- R212. Loads array codebook CBA or CBB from memory. -/
  | mcb (a : BitVec 5) (l : BitVec 4) (p : Params)
  /-- R213. Fills an accumulator with a 32-bit pattern. -/
  | mzero (d : BitVec 5) (a : BitVec 5) (l : BitVec 4) (p : Params)
  /-- R215. Accumulates the product of a streamed A and Anvil-resident B into an accumulator. -/
  | mma (d : BitVec 5) (a : BitVec 5) (b : BitVec 5) (l : BitVec 4) (c : BitVec 1) (p : Params)
  /-- R216. Accumulates a bitmap-packed sparse A times B, checking the stated length. -/
  | mmas (d : BitVec 5) (a : BitVec 5) (b : BitVec 5) (l : BitVec 4) (c : BitVec 1) (p : Params)
  /-- R217. Reads accumulator rows and writes them out with scale, bias and saturation. -/
  | mepi (d : BitVec 5) (a : BitVec 5) (b : BitVec 5) (l : BitVec 4) (p : Params)
  /-- R217. An MEPI's writes and tile counter are performed and its completion message is posted. -/
  | mepiWritesDone (cluster id : Nat)
  /-- R218. Replaces the lease's recurrence microprogram. -/
  | mprog (l : BitVec 4) (p : Params)
  /-- R220. Runs the recurrence microprogram over A and B into an accumulator. -/
  | mrec (d : BitVec 5) (a : BitVec 5) (b : BitVec 5) (l : BitVec 4) (p : Params)
  /-- R221. Writes the outer comparison of two vectors into a bit tile. -/
  | mocmp (d : BitVec 5) (a : BitVec 5) (b : BitVec 5) (l : BitVec 4) (p : Params)
  /-- R204. An execution command finishes in the array, posting a message if MSG is set. -/
  | arrayCommandComplete (cluster : Nat)
  /-- R205. When the last element of A has been read, MMA.C or MMAS.C posts an operands-consumed message. -/
  | arrayOperandsConsumed (cluster : Nat)
  /-- R223. Loads a bit tile image from memory. -/
  | btld (d : BitVec 5) (a : BitVec 5) (l : BitVec 4)
  /-- R223. Stores a bit tile image to memory. -/
  | btst (s : BitVec 5) (a : BitVec 5) (l : BitVec 4)
  /-- R224. ANDs two bit tiles. -/
  | btand (d : BitVec 5) (a : BitVec 5) (b : BitVec 5) (l : BitVec 4)
  /-- R224. ORs two bit tiles. -/
  | btor (d : BitVec 5) (a : BitVec 5) (b : BitVec 5) (l : BitVec 4)
  /-- R224. XORs two bit tiles. -/
  | btxor (d : BitVec 5) (a : BitVec 5) (b : BitVec 5) (l : BitVec 4)
  /-- R224. Inverts a bit tile. -/
  | btnot (d : BitVec 5) (a : BitVec 5) (l : BitVec 4)
  /-- R224. Transposes a bit tile. -/
  | bttrn (d : BitVec 5) (a : BitVec 5) (l : BitVec 4)
  /-- R224. Computes the Boolean matrix product of two bit tiles. -/
  | btcomp (d : BitVec 5) (a : BitVec 5) (b : BitVec 5) (l : BitVec 4)
  /-- R224. Computes the transitive, or reflexive-transitive, closure of a bit tile. -/
  | btclo (d : BitVec 5) (a : BitVec 5) (l : BitVec 4) (r : BitVec 1)
  /-- R225. Pushes the row population counts of a bit tile into a stream. -/
  | btrc (d : BitVec 5) (a : BitVec 5) (b : BitVec 5) (l : BitVec 4)
  /-- R232. Records a launch in the die's dispatcher and returns its handle, or FULL. -/
  | launch (d : BitVec 5) (a : BitVec 5) (b : BitVec 5) (l : BitVec 4) (p : Params)
  /-- R235. The dispatcher places the next block of a launch on free quads in dispatch order. -/
  | dispatchBlockPlace (die : Nat)
  /-- R234. A launch that has started no block for 2^20 cycles rises one level. -/
  | launchPromotion (die entry : Nat)
  /-- R235. A level-7 launch that has waited 2^20 cycles reserves one cluster. -/
  | launchReserve (die entry : Nat)
  /-- R239. When slot 0 of every gang core has exited and no tagged thread remains, the gang gives up its quads. -/
  | blockComplete (handle block : Nat)
  /-- R240. When every block has completed or been abandoned, the dispatcher posts the launch completion and frees the entry. -/
  | launchComplete (die entry : Nat)
  /-- R245. Starts a helper slot at x[rb], or reports FULL. -/
  | start (a : BitVec 5) (b : BitVec 5)
  /-- R246. Sleeps until a helper slot is Idle and not held. -/
  | reap (a : BitVec 5)
  /-- R247. Takes the thread out of rotation until after its next own position. -/
  | yield
  /-- R247. A yielded thread re-enters rotation in the cycle after its own position. -/
  | yieldWake (core slot : Nat)
  /-- R248. Ends the thread after its accesses, lease and streams, and for slot 0 gives up the gang's core. -/
  | exit
  /-- R249. Arrives at a gang barrier and sleeps until the count is reached. -/
  | bar (a : BitVec 5) (n : BitVec 3)
  /-- R250. Starts a child in a free guest slot of a target core, or reports FULL. -/
  | spawn (t : BitVec 5) (a : BitVec 5) (l : BitVec 4)
  /-- R251. The dispatcher chooses a victim gang and asks slot 15 to swap its members out for the head launch. -/
  | preempt (die : Nat)
  /-- R253. A pre-empted gang is restored whole into its slots and enters rotation in one cycle. -/
  | victimRestore (victim : Nat)
  /-- R253. 65,536 cycles after a swap-out the victim is restored, pre-empting the holders if needed. -/
  | restoreDeadline (victim : Nat)
  /-- R255. A failed write-back or fill sets TCCERR, notifies the control die and abandons any pre-emption. -/
  | tccTransferFail (core : Nat) (code : Byte) (ta : Word)
  /-- R263. Posts a strided copy of rows to the cluster engine. -/
  | copy (a : BitVec 5) (b : BitVec 5) (l : BitVec 4) (p : Params)
  /-- R266. Posts a gather of table rows named by an index tile into the striped window. -/
  | gath (a : BitVec 5) (b : BitVec 5) (l : BitVec 4) (p : Params)
  /-- R267. Posts a scatter of window rows into table rows, writing or adding. -/
  | scat (a : BitVec 5) (b : BitVec 5) (l : BitVec 4) (p : Params)
  /-- R257. The engine accepts a post once its queue has room, completing the posting instruction. -/
  | enginePostAccept (core slot id : Nat)
  /-- R257. The engine starts an accepted post when one of its eight places is free, by weighted round robin. -/
  | enginePostStart (cluster : Nat)
  /-- R258. A post ends and its 32-byte completion message is posted to the poster's inbox. -/
  | enginePostComplete (cluster id : Nat)
  /-- R271. Installs a table descriptor in the directory, or reports BUSY. -/
  | tblset (d : BitVec 5) (a : BitVec 5) (l : BitVec 4) (p : Params)
  /-- R272. Switches a table's BASE and VERSION at one instant and waits for posts on the old version. -/
  | tblsw (d : BitVec 5) (a : BitVec 5) (l : BitVec 4) (p : Params)
  /-- R273. Reads, and optionally clears, a shard counter. -/
  | shstat (d : BitVec 5) (l : BitVec 4) (p : Params)
  /-- R274. Moves a table row to a new place, or reports ABSENT, BUSY or FULL. -/
  | rmig (d : BitVec 5) (a : BitVec 5) (b : BitVec 5) (l : BitVec 4) (p : Params)
  /-- R270. Every 2^20 lookups at a die all row-cache use counters are halved. -/
  | rowCacheAge (die : Nat)
  /-- R261. The control die loads a multicast group entry into the Stratus routers. -/
  | mcgroupLoad (group : Nat) (entry : Word)
  /-- R278. Creates a trace object, or reports FULL. -/
  | trregCreate (d : BitVec 5) (a : BitVec 5) (b : BitVec 5) (l : BitVec 4) (p : Params)
  /-- R278. Sets or removes a tracked region slot. -/
  | trregRegion (d : BitVec 5) (a : BitVec 5) (b : BitVec 5) (l : BitVec 4) (p : Params)
  /-- R278. Binds a trace object to the thread's next traced LAUNCH. -/
  | trregArm (d : BitVec 5) (a : BitVec 5) (b : BitVec 5) (l : BitVec 4) (p : Params)
  /-- R278. Frees a trace object and its records. -/
  | trregFree (d : BitVec 5) (a : BitVec 5) (b : BitVec 5) (l : BitVec 4) (p : Params)
  /-- R282. Requests a re-run of a traced launch with a patch, or reports BUSY or queues it under .Q. -/
  | relaunch (d : BitVec 5) (a : BitVec 5) (l : BitVec 4) (q : BitVec 1) (p : Params)
  /-- R282. A relaunch run writes its patch, decides re-run blocks at instant V and dispatches them. -/
  | relaunchRunStart (obj : Nat)
  /-- R283. When every re-run block has completed the run posts its completion message. -/
  | relaunchComplete (obj : Nat)
  /-- R284. Returns one item of a block's trace record. -/
  | trinfo (d : BitVec 5) (l : BitVec 4) (p : Params)
  /-- R305. Enables virtual time on the core between rounds and starts the timed thread in slot 14. -/
  | tmodeOn (a : BitVec 5)
  /-- R305. Disables virtual time on the core when the timed thread is idle and all queues are empty, or reports BUSY. -/
  | tmodeOff
  /-- R306. Sends a timed message with a VRT above the floor to a core's timed inbox. -/
  | tsend (t : BitVec 5) (a : BitVec 5) (b : BitVec 5) (l : BitVec 4)
  /-- R307. Takes the least unprocessed timed message, setting the current key and LVT. -/
  | tnext (d : BitVec 5) (a : BitVec 5)
  /-- R308. Queues an irrevocable doubleword write under the current key. -/
  | tout (s : BitVec 5) (a : BitVec 5)
  /-- R309. Reads the core's GVT copy. -/
  | gvtrd (d : BitVec 5)
  /-- R309. Sleeps until the GVT copy exceeds x[ra], then reads it. -/
  | gvtrdW (d : BitVec 5) (a : BitVec 5)
  /-- R291. A timed message arrives and is accepted into the target's timed inbox. -/
  | timedMessageAccept (n : Nat)
  /-- R295. At the timed thread's next boundary the log is undone to the straggler's key and the thread restarts. -/
  | rollback (core : Nat)
  /-- R297. An anti-message annihilates its positive, rolling the target back first if it was retained. -/
  | antiMessageArrive (n : Nat)
  /-- R299. Every 4,096 cycles Horizon begins a round by flipping the tenant's colour. -/
  | horizonRoundStart (vf : Nat)
  /-- R299. Participating cores report contributions and old-colour counts, repeated until the count is zero. -/
  | horizonReport (vf : Nat)
  /-- R301. Horizon sets GVT from the round's result and publishes it to every core of the tenant. -/
  | gvtPublish (vf : Nat)
  /-- R302. An output-queue entry below the published value is performed as a store, or dropped with a KIND 0x40 message. -/
  | outputRelease (core : Nat)
  /-- R301. A core takes the newest published value into its GVT copy once earlier releases are performed. -/
  | gvtCopyUpdate (core : Nat)
  /-- R321. Traps the thread exactly with CAUSE TRAP and the trap number. -/
  | trap (n : BitVec 12)
  /-- R322. Resumes a trapped slot at its EPC. -/
  | eret (a : BitVec 5)
  /-- R322. Sets the slot's TSW.SYS and resumes it at its EPC. -/
  | eretSys (a : BitVec 5)
  /-- R322. Clears the slot's TSW.SYS and resumes it at its EPC. -/
  | eretUser (a : BitVec 5)
  /-- R323. Reads a system register into x[rd]. -/
  | sysrd (d : BitVec 5) (r : BitVec 12)
  /-- R323. Writes x[ra] to a system register that has no row of its own, under R65. -/
  | syswr (a : BitVec 5) (r : BitVec 12)
  /-- R66. A write of TSW is checked against read-only fields, privilege and BS = 7. -/
  | tswWrite (core slot : Nat) (v : Word)
  /-- R254. A write of TCCBASE or TCCCTL is checked against LEN, DCOUNT and occupied entries. -/
  | tccctlWrite (core reg : Nat) (v : Word)
  /-- R337. A write of QHBM or QNET takes effect at the next refill, clamping tokens to CAP. -/
  | qosWrite (core reg : Nat) (v : Word)
  /-- R351. A write of SNAPCTL sets EN and PIN and clears FROZEN by writing 1. -/
  | snapctlWrite (core : Nat) (v : Word)
  /-- R163. The control die writes a virtual function's SCOPEPOL through the system kind. -/
  | scopepolWrite (vf : Nat) (v : Word)
  /-- R324. Sets or cancels the word a trapped slot executes first on resumption. -/
  | xec (s : BitVec 5) (a : BitVec 5)
  /-- R326. Invalidates instruction cache lines across the package. -/
  | icinv (a : BitVec 5)
  /-- R327. Removes translation-cache entries of the virtual function at every port. -/
  | tlbinv (a : BitVec 5)
  /-- R328. Exchanges a slot's context with a context-cache entry. -/
  | swapctx (e : BitVec 5) (a : BitVec 5)
  /-- R328. Saves a slot's context into an empty context-cache entry. -/
  | swapctxOut (e : BitVec 5) (a : BitVec 5)
  /-- R328. Restores a context from a context-cache entry into an Idle slot. -/
  | swapctxIn (e : BitVec 5) (a : BitVec 5)
  /-- R329. Raises the package snapshot trigger and returns the latch stamp. -/
  | snap (d : BitVec 5)
  /-- R330. Sleeps until a service is pending and returns its service word. -/
  | halt (d : BitVec 5)
  /-- R331. Traps the thread with CAUSE BRK and TVAL 0. -/
  | brk
  /-- R319. A stop asked of the control die traps the slot at its next boundary with CAUSE BRK and TVAL 1. -/
  | debuggerStop (core slot : Nat)
  /-- R315. Every 1,024 cycles the detector samples the tenant's all-asleep AND. -/
  | asleepSample (vf : Nat)
  /-- R347. Arrives at a collective reduction and receives the deterministic result. -/
  | cred (d : BitVec 5) (a : BitVec 5) (l : BitVec 4) (p : Params)
  /-- R348. Arrives at a collective broadcast and receives the root's value and buffer. -/
  | cbcast (d : BitVec 5) (a : BitVec 5) (b : BitVec 5) (l : BitVec 4) (p : Params)
  /-- R334. The control die resets, scrubs and hands a quad to a new virtual function. -/
  | quadReassign (quad vf : Nat)
  /-- R350. A quad's threads end, blocks are abandoned, leases revoked, posts discarded and the quad scrubbed. -/
  | quadReset (quad : Nat)
  /-- R350. The array's lease ends, engine posts end with RESET and operand-B bands are zeroed. -/
  | engineReset (cluster : Nat)
  /-- R349. A Cirrus or crossbar parity error resets the cluster's 16 quads and engines. -/
  | clusterReset (cluster : Nat)
  /-- R355. A failed Stratus router takes its cluster out of service and routes are changed around it. -/
  | routerFailure (cluster : Nat)
  /-- R349. A failing HBM channel goes offline and its pages are copied to spare frames. -/
  | hbmChannelOffline (moves : List (Nat × Nat × Nat))
  /-- R349. A correctable error is corrected in place and counted. -/
  | eccCorrected (block : Nat)
  /-- R138. An uncorrectable error sets the poison bit of its doubleword. -/
  | poisonSet (loc : Nat)
  /-- R345. A Turwell link trains and agrees its interface version. -/
  | linkTrain (link lo hi minor : Nat)
  /-- R344. A CRC failure makes the receiver ask for a replay from the first failed flit. -/
  | linkReplay (link : Nat)
  /-- R344. Eight replays in 2^20 cycles or a loss of lane lock retrain the link, resetting it after three failures. -/
  | linkRetrain (link : Nat) (ok : Bool)
  /-- R344. A link goes down and its pairs move to another link, replaying the buffer first. -/
  | linkDown (link : Nat)
  /-- R336. Every 1,024 cycles limited buckets refill and spare tokens are shared among waiting buckets. -/
  | bucketRefill (cluster : Nat)
  /-- R335. A line waiting at the core's network port leaves once its bucket holds a token. -/
  | lineSend (core res : Nat)
  /-- R354. Every 1,024 cycles the power controller chooses how many rotations to gate. -/
  | gatingInterval (gated watts : Nat)
  /-- R351. A rising edge on the snapshot pin raises the common trigger. -/
  | snapshotPin
  /-- R351. Sixty-four cycles after the trigger every enabled block latches its snapshot state. -/
  | snapshotLatch
  /-- R352. The control die verifies images and brings the package up step by step, releasing the cores. -/
  | boot (results : List Bool) (digests : List Word)
  /-- R353. On request the control die signs a host nonce with the measurement log digest. -/
  | attestationSign (nonce : Word)
  /-- R341. MBOPEN with OPEN = 1 agrees a version, zeroes the indices and opens the mailbox. -/
  | mailboxOpen (fn : Nat) (v : Word)
  /-- R341. MBOPEN with OPEN = 0 closes the mailbox and drops untaken requests. -/
  | mailboxClose (fn : Nat) (v : Word)
  /-- R341. A host write of REQBASE or CPLBASE is accepted if aligned and the mailbox is closed. -/
  | mailboxRegisterWrite (fn off : Nat) (v : Word)
  /-- R341. The host advances REQTAIL and the control die takes the new request entries in ring order. -/
  | reqtailWrite (fn : Nat) (v : Word)
  /-- R341. The host advances CPLHEAD, releasing held completions. -/
  | cplheadWrite (fn : Nat) (v : Word)
  /-- R342. A LAUNCH request is checked and passed to a dispatcher, answered with KIND 0x21. -/
  | reqLaunch (fn : Nat)
  /-- R342. A MESSAGE request delivers 32 bytes to a core's inbox, answered with KIND 0x22. -/
  | reqMessage (fn : Nat)
  /-- R342. A QUERY request is answered with the function's packages and quads. -/
  | reqQuery (fn : Nat)
  /-- R342. A register request of the physical function reads PWRLIM or PWRSTAT. -/
  | reqCregRead (fn : Nat)
  /-- R354. A register request of the physical function writes PWRLIM within its ranges. -/
  | reqCregWrite (fn : Nat)
  /-- R343. A request of an unlisted KIND is refused with a KIND 0x25 completion and STATUS ILLOP. -/
  | reqUnlistedKind (fn : Nat)
  /-- R341. The control die writes a completion entry, advances CPLTAIL and sends MSI-X, waiting with HELD while the ring is full. -/
  | mailboxCompletion (fn : Nat)
  /-- R350. A quad reset ends, at most 12,288 cycles after it began, and the accesses from other quads held meanwhile are performed on the scrubbed state. -/
  | quadResetDone (quad : Nat)
  /-- R350. An engine reset ends, at most 4,096 cycles after it began, and the array commands and posts issued during it proceed. -/
  | engineResetDone (cluster : Nat)
  deriving DecidableEq, Repr

end Sys2Proof
end

