-- ==== Sys2Proof/WellFormed.lean ====
section
/-!
DEFINITION. WellFormed.lean: the checks of R76 on the fields of a word that has decoded (spec/05_encoding.md R57, R59, R62, R76)
and on parameter words that an entry leaves unused. An ill-formed instruction raises ILLOP with TVAL the word.
-/
namespace Sys2Proof

/-- A rounding field: codes 4 to 6 raise ILLOP (R35). -/
def rmOk (m : BitVec 3) : Bool := m.toNat < 4 || m == 7

/-- Register fields of streams, tiles and segments take 0 to 7 (R57). -/
def le7 (r : BitVec 5) : Bool := r.toNat < 8

/-- Accumulators take 0 to 3 (R57). -/
def le3 (r : BitVec 5) : Bool := r.toNat < 4

/-- Operand b of the elementwise forms (R190): a stream in the even sub forms, a scalar register in the odd ones. -/
def vbOk (b : BitVec 3) (y : BitVec 5) (s : BitVec 2) : Bool := if s.toNat % 2 = 1 then b == 0 else y == 0

/-- All four parameter words unused (R74). -/
def Params.isZero (p : Params) : Bool := p.w0 == 0 && p.w1 == 0 && p.w2 == 0 && p.w3 == 0

/-- Words 1 to 3 unused. -/
def Params.tailZero (p : Params) : Bool := p.w1 == 0 && p.w2 == 0 && p.w3 == 0

/-- The fields of a decoded instruction lie in their ranges (R76). The steps of the hardware have no word to check. -/
def Instr.wf (i : Instr) : Bool :=
  match i with
  | .add _ _ _ => true
  | .sub _ _ _ => true
  | .and _ _ _ => true
  | .or _ _ _ => true
  | .xor _ _ _ => true
  | .sll _ _ _ => true
  | .srl _ _ _ => true
  | .sra _ _ _ => true
  | .slt _ _ _ => true
  | .sltu _ _ _ => true
  | .min _ _ _ => true
  | .max _ _ _ => true
  | .minu _ _ _ => true
  | .maxu _ _ _ => true
  | .mul _ _ _ => true
  | .mulh _ _ _ => true
  | .mulhu _ _ _ => true
  | .div _ _ _ => true
  | .divu _ _ _ => true
  | .rem _ _ _ => true
  | .remu _ _ _ => true
  | .clz _ _ => true
  | .ctz _ _ => true
  | .popc _ _ => true
  | .sel _ _ _ _ => true
  | .addi _ _ _ => true
  | .andi _ _ _ => true
  | .ori _ _ _ => true
  | .xori _ _ _ => true
  | .slti _ _ _ => true
  | .sltiu _ _ _ => true
  | .slli _ _ _ => true
  | .srli _ _ _ => true
  | .srai _ _ _ => true
  | .extr _ _ _ _ => true
  | .insr _ _ _ _ => true
  | .lui _ _ => true
  | .addpc _ _ => true
  | .beq _ _ _ => true
  | .bne _ _ _ => true
  | .blt _ _ _ => true
  | .bge _ _ _ => true
  | .bltu _ _ _ => true
  | .bgeu _ _ _ => true
  | .jal _ _ => true
  | .jalr _ _ _ => true
  | .bst c _ => c != 7
  | .bstN c _ => c != 7
  | .fadd _ _ _ m => rmOk m
  | .fsub _ _ _ m => rmOk m
  | .fmul _ _ _ m => rmOk m
  | .fdiv _ _ _ m => rmOk m
  | .fsqrt _ _ m => rmOk m
  | .fmin _ _ _ => true
  | .fmax _ _ _ => true
  | .feq _ _ _ => true
  | .flt _ _ _ => true
  | .fle _ _ _ => true
  | .fclass _ _ => true
  | .fsgn _ _ _ s => decide (s.toNat < 3)
  | .fcvt _ _ m s => rmOk m && (decide (s.toNat < 6) || m == 0)
  | .fmvxf _ _ => true
  | .fmvfx _ _ => true
  | .fma _ _ _ _ m => rmOk m
  | .fms _ _ _ _ m => rmOk m
  | .fnma _ _ _ _ m => rmOk m
  | .fnms _ _ _ _ m => rmOk m
  | .fexp _ _ _ m => rmOk m
  | .flog _ _ _ m => rmOk m
  | .frcp _ _ _ m => rmOk m
  | .frsq _ _ _ m => rmOk m
  | .ftanh _ _ _ m => rmOk m
  | .fsigm _ _ _ m => rmOk m
  | .ld _ _ _ _ s _ => s != 7
  | .st t _ _ _ s _ => decide (s.toNat < 4) || (s == 4 && t.toNat % 2 == 0)
  | .ldf _ _ _ _ s _ => s == 4 || s == 6
  | .stf _ _ _ _ s _ => s == 2 || s == 3
  | .ldfe _ _ _ _ => true
  | .ldff _ _ _ _ => true
  | .stef _ _ _ _ => true
  | .stff _ _ _ _ => true
  | .sete _ _ _ _ => true
  | .setf _ _ _ _ => true
  | .amoadd _ _ _ _ _ => true
  | .amoand _ _ _ _ _ => true
  | .amoor _ _ _ _ _ => true
  | .amoxor _ _ _ _ _ => true
  | .amomin _ _ _ _ _ => true
  | .amomax _ _ _ _ _ => true
  | .amoswap _ _ _ _ _ => true
  | .cas _ _ _ _ _ => true
  | .fence s => decide (s.toNat < 5)
  | .segld g _ _ => le7 g
  | .segrd _ g h => le7 g && decide (h.toNat < 2)
  | .bankcfg _ _ _ _ _ => true
  | .bankConversionDone _ _ => true
  | .bankq _ _ _ => true
  | .bankjoin _ _ => true
  | .send _ _ _ => true
  | .dq _ _ _ _ => true
  | .migrate _ => true
  | .migrationArrival _ => true
  | .arrivalQueueAdmit _ => true
  | .migrationReoffer _ => true
  | .bankAccessPerformed _ _ _ => true
  | .waiterRetry _ _ => true
  | .portAccessPerformed _ _ _ => true
  | .pagerWake _ _ => true
  | .longLatencyComplete _ _ _ => true
  | .lateFault _ _ => true
  | .hwMessageDeliver _ => true
  | .scfg n _ _ _ _ => le7 n
  | .scfg2 n _ _ _ _ => le7 n
  | .srel n _ p => le7 n && p.isZero
  | .streamElementRead _ _ _ _ => true
  | .streamElementWrite _ _ _ _ => true
  | .vadd _ _ b y s => vbOk b y s
  | .vsub _ _ b y s => vbOk b y s
  | .vmul _ _ b y s => vbOk b y s
  | .vfma _ _ _ _ s => s != 3
  | .vmin _ _ b y s => vbOk b y s
  | .vmax _ _ b y s => vbOk b y s
  | .vabs _ _ s => s.toNat % 2 == 0
  | .vneg _ _ s => s.toNat % 2 == 0
  | .vcvt _ _ _ => true
  | .vsel _ _ _ _ => true
  | .vcmp _ _ _ _ _ _ => true
  | .vred _ _ _ _ => true
  | .vscan _ _ _ _ => true
  | .vdot _ _ _ _ s => s.toNat % 2 == 0
  | .vexp _ _ => true
  | .vlog _ _ => true
  | .vrcp _ _ => true
  | .vrsq _ _ => true
  | .vtanh _ _ => true
  | .vsigm _ _ => true
  | .vfence => true
  | .vectorBeat _ _ => true
  | .sfuResult _ => true
  | .mlease _ p => p.tailZero
  | .arrayLeaseGrant _ => true
  | .leaseTimeLimit _ => true
  | .mfree p => p.isZero
  | .mwait p => p.isZero
  | .mloadb _ _ _ _ => true
  | .mloadbTransferDone _ _ => true
  | .mcb _ _ p => p.tailZero
  | .mzero d _ _ p => le3 d && p.isZero
  | .mma d _ _ _ _ p => le3 d && p.w3 == 0
  | .mmas d _ _ _ _ _ => le3 d
  | .mepi d _ _ _ _ => le3 d
  | .mepiWritesDone _ _ => true
  | .mprog _ _ => true
  | .mrec d _ _ _ p => le3 d && p.w3 == 0
  | .mocmp d a b _ p => le7 d && le7 a && le7 b && p.w3 == 0
  | .arrayCommandComplete _ => true
  | .arrayOperandsConsumed _ => true
  | .btld d _ _ => le7 d
  | .btst s _ _ => le7 s
  | .btand d a b _ => le7 d && le7 a && le7 b
  | .btor d a b _ => le7 d && le7 a && le7 b
  | .btxor d a b _ => le7 d && le7 a && le7 b
  | .btnot d a _ => le7 d && le7 a
  | .bttrn d a _ => le7 d && le7 a
  | .btcomp d a b _ => le7 d && le7 a && le7 b
  | .btclo d a _ _ => le7 d && le7 a
  | .btrc d a _ _ => le7 d && le7 a
  | .launch _ _ _ _ _ => true
  | .dispatchBlockPlace _ => true
  | .launchPromotion _ _ => true
  | .launchReserve _ _ => true
  | .blockComplete _ _ => true
  | .launchComplete _ _ => true
  | .start _ _ => true
  | .reap _ => true
  | .yield => true
  | .yieldWake _ _ => true
  | .exit => true
  | .bar _ _ => true
  | .spawn _ _ _ => true
  | .preempt _ => true
  | .victimRestore _ => true
  | .restoreDeadline _ => true
  | .tccTransferFail _ _ _ => true
  | .copy _ _ _ _ => true
  | .gath _ _ _ _ => true
  | .scat _ _ _ _ => true
  | .enginePostAccept _ _ _ => true
  | .enginePostStart _ => true
  | .enginePostComplete _ _ => true
  | .tblset _ _ _ p => p.tailZero
  | .tblsw _ _ _ p => p.w2 == 0 && p.w3 == 0
  | .shstat _ _ p => p.w3 == 0
  | .rmig _ _ _ _ p => p.tailZero
  | .rowCacheAge _ => true
  | .mcgroupLoad _ _ => true
  | .trregCreate _ a _ _ p => p.w0 == 0 && a == 0 && p.tailZero
  | .trregRegion d _ _ _ p => p.w0 == 1 && d == 0 && p.w2 == 0 && p.w3 == 0
  | .trregArm d a b _ p => p.w0 == 2 && d == 0 && a == 0 && b == 0 && p.w2 == 0 && p.w3 == 0
  | .trregFree d a b _ p => p.w0 == 3 && d == 0 && a == 0 && b == 0 && p.w2 == 0 && p.w3 == 0
  | .relaunch _ _ _ _ p => p.w3 == 0
  | .relaunchRunStart _ => true
  | .relaunchComplete _ => true
  | .trinfo _ _ _ => true
  | .tmodeOn _ => true
  | .tmodeOff => true
  | .tsend _ _ _ _ => true
  | .tnext _ _ => true
  | .tout _ _ => true
  | .gvtrd _ => true
  | .gvtrdW _ _ => true
  | .timedMessageAccept _ => true
  | .rollback _ => true
  | .antiMessageArrive _ => true
  | .horizonRoundStart _ => true
  | .horizonReport _ => true
  | .gvtPublish _ => true
  | .outputRelease _ => true
  | .gvtCopyUpdate _ => true
  | .trap _ => true
  | .eret _ => true
  | .eretSys _ => true
  | .eretUser _ => true
  | .sysrd _ _ => true
  | .syswr _ _ => true
  | .tswWrite _ _ _ => true
  | .tccctlWrite _ _ _ => true
  | .qosWrite _ _ _ => true
  | .snapctlWrite _ _ => true
  | .scopepolWrite _ _ => true
  | .xec _ _ => true
  | .icinv _ => true
  | .tlbinv _ => true
  | .swapctx _ _ => true
  | .swapctxOut _ _ => true
  | .swapctxIn _ _ => true
  | .snap _ => true
  | .halt _ => true
  | .brk => true
  | .debuggerStop _ _ => true
  | .asleepSample _ => true
  | .cred _ _ _ p => p.w3 == 0
  | .cbcast _ _ _ _ _ => true
  | .quadReassign _ _ => true
  | .quadReset _ => true
  | .engineReset _ => true
  | .clusterReset _ => true
  | .routerFailure _ => true
  | .hbmChannelOffline _ => true
  | .eccCorrected _ => true
  | .poisonSet _ => true
  | .linkTrain _ _ _ _ => true
  | .linkReplay _ => true
  | .linkRetrain _ _ => true
  | .linkDown _ => true
  | .bucketRefill _ => true
  | .lineSend _ _ => true
  | .gatingInterval _ _ => true
  | .snapshotPin => true
  | .snapshotLatch => true
  | .boot _ _ => true
  | .attestationSign _ => true
  | .mailboxOpen _ _ => true
  | .mailboxClose _ _ => true
  | .mailboxRegisterWrite _ _ _ => true
  | .reqtailWrite _ _ => true
  | .cplheadWrite _ _ => true
  | .reqLaunch _ => true
  | .reqMessage _ => true
  | .reqQuery _ => true
  | .reqCregRead _ => true
  | .reqCregWrite _ => true
  | .reqUnlistedKind _ => true
  | .mailboxCompletion _ => true
  | .quadResetDone _ => true
  | .engineResetDone _ => true

end Sys2Proof
end

