-- ==== Sys2Proof/Decode.lean ====
section
/-!
DEFINITION. Decode.lean: from words to instructions (spec/05_encoding.md R54 to R76) and back.
A word's reserved fields are checked here; the ranges of its operand fields by Instr.wf.
-/
namespace Sys2Proof

/-- The field of width `len` whose lowest bit is `lo` (R2). -/
def fld (w : Word32) (lo len : Nat) : BitVec len := BitVec.ofNat len (w.toNat / 2 ^ lo)

/-- The same field as a number. -/
def fldN (w : Word32) (lo len : Nat) : Nat := w.toNat / 2 ^ lo % 2 ^ len

/-- Major 0x01 (R71). -/
def decodeMajor01 (w : Word32) : Option Instr :=
  if fldN w 0 11 = 0 then some (.add (fld w 21 5) (fld w 16 5) (fld w 11 5))
  else if fldN w 0 11 = 1 then some (.sub (fld w 21 5) (fld w 16 5) (fld w 11 5))
  else if fldN w 0 11 = 2 then some (.and (fld w 21 5) (fld w 16 5) (fld w 11 5))
  else if fldN w 0 11 = 3 then some (.or (fld w 21 5) (fld w 16 5) (fld w 11 5))
  else if fldN w 0 11 = 4 then some (.xor (fld w 21 5) (fld w 16 5) (fld w 11 5))
  else if fldN w 0 11 = 5 then some (.sll (fld w 21 5) (fld w 16 5) (fld w 11 5))
  else if fldN w 0 11 = 6 then some (.srl (fld w 21 5) (fld w 16 5) (fld w 11 5))
  else if fldN w 0 11 = 7 then some (.sra (fld w 21 5) (fld w 16 5) (fld w 11 5))
  else if fldN w 0 11 = 8 then some (.slt (fld w 21 5) (fld w 16 5) (fld w 11 5))
  else if fldN w 0 11 = 9 then some (.sltu (fld w 21 5) (fld w 16 5) (fld w 11 5))
  else if fldN w 0 11 = 10 then some (.min (fld w 21 5) (fld w 16 5) (fld w 11 5))
  else if fldN w 0 11 = 11 then some (.max (fld w 21 5) (fld w 16 5) (fld w 11 5))
  else if fldN w 0 11 = 12 then some (.minu (fld w 21 5) (fld w 16 5) (fld w 11 5))
  else if fldN w 0 11 = 13 then some (.maxu (fld w 21 5) (fld w 16 5) (fld w 11 5))
  else none

/-- Major 0x02 (R71). -/
def decodeMajor02 (w : Word32) : Option Instr :=
  if fldN w 0 11 = 0 then some (.mul (fld w 21 5) (fld w 16 5) (fld w 11 5))
  else if fldN w 0 11 = 1 then some (.mulh (fld w 21 5) (fld w 16 5) (fld w 11 5))
  else if fldN w 0 11 = 2 then some (.mulhu (fld w 21 5) (fld w 16 5) (fld w 11 5))
  else if fldN w 0 11 = 3 then some (.div (fld w 21 5) (fld w 16 5) (fld w 11 5))
  else if fldN w 0 11 = 4 then some (.divu (fld w 21 5) (fld w 16 5) (fld w 11 5))
  else if fldN w 0 11 = 5 then some (.rem (fld w 21 5) (fld w 16 5) (fld w 11 5))
  else if fldN w 0 11 = 6 then some (.remu (fld w 21 5) (fld w 16 5) (fld w 11 5))
  else none

/-- Major 0x03 (R71). -/
def decodeMajor03 (w : Word32) : Option Instr :=
  if fldN w 0 16 = 0 then some (.clz (fld w 21 5) (fld w 16 5))
  else if fldN w 0 16 = 1 then some (.ctz (fld w 21 5) (fld w 16 5))
  else if fldN w 0 16 = 2 then some (.popc (fld w 21 5) (fld w 16 5))
  else if fldN w 0 6 = 3 then some (.sel (fld w 21 5) (fld w 16 5) (fld w 11 5) (fld w 6 5))
  else none

/-- Major 0x04 (R71). -/
def decodeMajor04 (w : Word32) : Option Instr :=
  some (.addi (fld w 21 5) (fld w 16 5) (fld w 0 16))

/-- Major 0x05 (R71). -/
def decodeMajor05 (w : Word32) : Option Instr :=
  some (.andi (fld w 21 5) (fld w 16 5) (fld w 0 16))

/-- Major 0x06 (R71). -/
def decodeMajor06 (w : Word32) : Option Instr :=
  some (.ori (fld w 21 5) (fld w 16 5) (fld w 0 16))

/-- Major 0x07 (R71). -/
def decodeMajor07 (w : Word32) : Option Instr :=
  some (.xori (fld w 21 5) (fld w 16 5) (fld w 0 16))

/-- Major 0x08 (R71). -/
def decodeMajor08 (w : Word32) : Option Instr :=
  some (.slti (fld w 21 5) (fld w 16 5) (fld w 0 16))

/-- Major 0x09 (R71). -/
def decodeMajor09 (w : Word32) : Option Instr :=
  some (.sltiu (fld w 21 5) (fld w 16 5) (fld w 0 16))

/-- Major 0x0A (R71). -/
def decodeMajor0A (w : Word32) : Option Instr :=
  if fldN w 6 10 = 0 then some (.slli (fld w 21 5) (fld w 16 5) (fld w 0 6))
  else if fldN w 6 10 = 256 then some (.srli (fld w 21 5) (fld w 16 5) (fld w 0 6))
  else if fldN w 6 10 = 512 then some (.srai (fld w 21 5) (fld w 16 5) (fld w 0 6))
  else if fldN w 12 4 = 12 then some (.extr (fld w 21 5) (fld w 16 5) (fld w 6 6) (fld w 0 6))
  else if fldN w 12 4 = 14 then some (.insr (fld w 21 5) (fld w 16 5) (fld w 6 6) (fld w 0 6))
  else none

/-- Major 0x0B (R71). -/
def decodeMajor0B (w : Word32) : Option Instr :=
  if fldN w 16 5 = 0 then some (.lui (fld w 21 5) (fld w 0 16))
  else none

/-- Major 0x0C (R71). -/
def decodeMajor0C (w : Word32) : Option Instr :=
  if fldN w 16 5 = 0 then some (.addpc (fld w 21 5) (fld w 0 16))
  else none

/-- Major 0x10 (R71). -/
def decodeMajor10 (w : Word32) : Option Instr :=
  some (.beq (fld w 21 5) (fld w 16 5) (fld w 0 16))

/-- Major 0x11 (R71). -/
def decodeMajor11 (w : Word32) : Option Instr :=
  some (.bne (fld w 21 5) (fld w 16 5) (fld w 0 16))

/-- Major 0x12 (R71). -/
def decodeMajor12 (w : Word32) : Option Instr :=
  some (.blt (fld w 21 5) (fld w 16 5) (fld w 0 16))

/-- Major 0x13 (R71). -/
def decodeMajor13 (w : Word32) : Option Instr :=
  some (.bge (fld w 21 5) (fld w 16 5) (fld w 0 16))

/-- Major 0x14 (R71). -/
def decodeMajor14 (w : Word32) : Option Instr :=
  some (.bltu (fld w 21 5) (fld w 16 5) (fld w 0 16))

/-- Major 0x15 (R71). -/
def decodeMajor15 (w : Word32) : Option Instr :=
  some (.bgeu (fld w 21 5) (fld w 16 5) (fld w 0 16))

/-- Major 0x16 (R71). -/
def decodeMajor16 (w : Word32) : Option Instr :=
  some (.jal (fld w 21 5) (fld w 0 21))

/-- Major 0x17 (R71). -/
def decodeMajor17 (w : Word32) : Option Instr :=
  some (.jalr (fld w 21 5) (fld w 16 5) (fld w 0 16))

/-- Major 0x18 (R71). -/
def decodeMajor18 (w : Word32) : Option Instr :=
  if fldN w 16 5 = 0 ∧ fldN w 24 2 = 0 then some (.bst (fld w 21 3) (fld w 0 16))
  else if fldN w 16 5 = 0 ∧ fldN w 24 2 = 1 then some (.bstN (fld w 21 3) (fld w 0 16))
  else none

/-- Major 0x20 (R71). -/
def decodeMajor20 (w : Word32) : Option Instr :=
  some (.ld (fld w 21 5) (fld w 16 5) (fld w 12 4) (fld w 11 1) (fld w 8 3) (fld w 0 8))

/-- Major 0x21 (R71). -/
def decodeMajor21 (w : Word32) : Option Instr :=
  some (.st (fld w 21 5) (fld w 16 5) (fld w 12 4) (fld w 11 1) (fld w 8 3) (fld w 0 8))

/-- Major 0x22 (R71). -/
def decodeMajor22 (w : Word32) : Option Instr :=
  some (.ldf (fld w 21 5) (fld w 16 5) (fld w 12 4) (fld w 11 1) (fld w 8 3) (fld w 0 8))

/-- Major 0x23 (R71). -/
def decodeMajor23 (w : Word32) : Option Instr :=
  some (.stf (fld w 21 5) (fld w 16 5) (fld w 12 4) (fld w 11 1) (fld w 8 3) (fld w 0 8))

/-- Major 0x24 (R71). -/
def decodeMajor24 (w : Word32) : Option Instr :=
  if fldN w 8 4 = 0 then some (.ldfe (fld w 21 5) (fld w 16 5) (fld w 12 4) (fld w 0 8))
  else if fldN w 8 4 = 1 then some (.ldff (fld w 21 5) (fld w 16 5) (fld w 12 4) (fld w 0 8))
  else if fldN w 8 4 = 2 then some (.stef (fld w 21 5) (fld w 16 5) (fld w 12 4) (fld w 0 8))
  else if fldN w 8 4 = 3 then some (.stff (fld w 21 5) (fld w 16 5) (fld w 12 4) (fld w 0 8))
  else if fldN w 8 4 = 4 then some (.sete (fld w 21 5) (fld w 16 5) (fld w 12 4) (fld w 0 8))
  else if fldN w 8 4 = 5 then some (.setf (fld w 21 5) (fld w 16 5) (fld w 12 4) (fld w 0 8))
  else none

/-- Major 0x25 (R71). -/
def decodeMajor25 (w : Word32) : Option Instr :=
  if fldN w 0 6 = 0 then some (.amoadd (fld w 21 5) (fld w 16 5) (fld w 11 5) (fld w 7 4) (fld w 6 1))
  else if fldN w 0 6 = 8 then some (.amoand (fld w 21 5) (fld w 16 5) (fld w 11 5) (fld w 7 4) (fld w 6 1))
  else if fldN w 0 6 = 16 then some (.amoor (fld w 21 5) (fld w 16 5) (fld w 11 5) (fld w 7 4) (fld w 6 1))
  else if fldN w 0 6 = 24 then some (.amoxor (fld w 21 5) (fld w 16 5) (fld w 11 5) (fld w 7 4) (fld w 6 1))
  else if fldN w 0 6 = 32 then some (.amomin (fld w 21 5) (fld w 16 5) (fld w 11 5) (fld w 7 4) (fld w 6 1))
  else if fldN w 0 6 = 40 then some (.amomax (fld w 21 5) (fld w 16 5) (fld w 11 5) (fld w 7 4) (fld w 6 1))
  else if fldN w 0 6 = 48 then some (.amoswap (fld w 21 5) (fld w 16 5) (fld w 11 5) (fld w 7 4) (fld w 6 1))
  else if fldN w 0 6 = 56 then some (.cas (fld w 21 5) (fld w 16 5) (fld w 11 5) (fld w 7 4) (fld w 6 1))
  else none

/-- Major 0x26 (R71). -/
def decodeMajor26 (w : Word32) : Option Instr :=
  if fldN w 0 4 = 0 ∧ fldN w 7 19 = 0 then some (.fence (fld w 4 3))
  else if fldN w 0 7 = 1 ∧ fldN w 11 5 = 0 then some (.segld (fld w 21 5) (fld w 16 5) (fld w 7 4))
  else if fldN w 0 11 = 2 then some (.segrd (fld w 21 5) (fld w 16 5) (fld w 11 5))
  else if fldN w 0 4 = 3 ∧ fldN w 5 2 = 0 then some (.bankcfg (fld w 21 5) (fld w 16 5) (fld w 11 5) (fld w 7 4) (fld w 4 1))
  else if fldN w 0 7 = 4 ∧ fldN w 11 5 = 0 then some (.bankq (fld w 21 5) (fld w 16 5) (fld w 7 4))
  else if fldN w 0 7 = 5 ∧ fldN w 11 5 = 0 ∧ fldN w 21 5 = 0 then some (.bankjoin (fld w 16 5) (fld w 7 4))
  else if fldN w 0 7 = 6 ∧ fldN w 11 5 = 0 then some (.send (fld w 21 5) (fld w 16 5) (fld w 7 4))
  else if fldN w 0 4 = 7 ∧ fldN w 5 2 = 0 ∧ fldN w 11 5 = 0 then some (.dq (fld w 21 5) (fld w 16 5) (fld w 7 4) (fld w 4 1))
  else if fldN w 0 16 = 8 ∧ fldN w 21 5 = 0 then some (.migrate (fld w 16 5))
  else none

/-- Major 0x28 (R71). -/
def decodeMajor28 (w : Word32) : Option Instr :=
  if fldN w 0 8 = 0 then some (.fadd (fld w 21 5) (fld w 16 5) (fld w 11 5) (fld w 8 3))
  else if fldN w 0 8 = 1 then some (.fsub (fld w 21 5) (fld w 16 5) (fld w 11 5) (fld w 8 3))
  else if fldN w 0 8 = 2 then some (.fmul (fld w 21 5) (fld w 16 5) (fld w 11 5) (fld w 8 3))
  else if fldN w 0 8 = 3 then some (.fdiv (fld w 21 5) (fld w 16 5) (fld w 11 5) (fld w 8 3))
  else if fldN w 0 8 = 4 ∧ fldN w 11 5 = 0 then some (.fsqrt (fld w 21 5) (fld w 16 5) (fld w 8 3))
  else if fldN w 0 11 = 5 then some (.fmin (fld w 21 5) (fld w 16 5) (fld w 11 5))
  else if fldN w 0 11 = 6 then some (.fmax (fld w 21 5) (fld w 16 5) (fld w 11 5))
  else if fldN w 0 11 = 7 then some (.feq (fld w 21 5) (fld w 16 5) (fld w 11 5))
  else if fldN w 0 11 = 8 then some (.flt (fld w 21 5) (fld w 16 5) (fld w 11 5))
  else if fldN w 0 11 = 9 then some (.fle (fld w 21 5) (fld w 16 5) (fld w 11 5))
  else if fldN w 0 16 = 10 then some (.fclass (fld w 21 5) (fld w 16 5))
  else if fldN w 0 5 = 11 ∧ fldN w 8 3 = 0 then some (.fsgn (fld w 21 5) (fld w 16 5) (fld w 11 5) (fld w 5 3))
  else if fldN w 0 5 = 12 ∧ fldN w 11 5 = 0 then some (.fcvt (fld w 21 5) (fld w 16 5) (fld w 8 3) (fld w 5 3))
  else if fldN w 0 16 = 13 then some (.fmvxf (fld w 21 5) (fld w 16 5))
  else if fldN w 0 16 = 14 then some (.fmvfx (fld w 21 5) (fld w 16 5))
  else none

/-- Major 0x29 (R71). -/
def decodeMajor29 (w : Word32) : Option Instr :=
  if fldN w 0 3 = 0 then some (.fma (fld w 21 5) (fld w 16 5) (fld w 11 5) (fld w 6 5) (fld w 3 3))
  else if fldN w 0 3 = 1 then some (.fms (fld w 21 5) (fld w 16 5) (fld w 11 5) (fld w 6 5) (fld w 3 3))
  else if fldN w 0 3 = 2 then some (.fnma (fld w 21 5) (fld w 16 5) (fld w 11 5) (fld w 6 5) (fld w 3 3))
  else if fldN w 0 3 = 3 then some (.fnms (fld w 21 5) (fld w 16 5) (fld w 11 5) (fld w 6 5) (fld w 3 3))
  else none

/-- Major 0x2C (R71). -/
def decodeMajor2C (w : Word32) : Option Instr :=
  if fldN w 0 5 = 0 ∧ fldN w 12 5 = 0 then some (.vadd (fld w 23 3) (fld w 20 3) (fld w 17 3) (fld w 7 5) (fld w 5 2))
  else if fldN w 0 5 = 1 ∧ fldN w 12 5 = 0 then some (.vsub (fld w 23 3) (fld w 20 3) (fld w 17 3) (fld w 7 5) (fld w 5 2))
  else if fldN w 0 5 = 2 ∧ fldN w 12 5 = 0 then some (.vmul (fld w 23 3) (fld w 20 3) (fld w 17 3) (fld w 7 5) (fld w 5 2))
  else if fldN w 0 5 = 3 ∧ fldN w 7 5 = 0 then some (.vfma (fld w 23 3) (fld w 20 3) (fld w 17 3) (fld w 12 5) (fld w 5 2))
  else if fldN w 0 5 = 4 ∧ fldN w 12 5 = 0 then some (.vmin (fld w 23 3) (fld w 20 3) (fld w 17 3) (fld w 7 5) (fld w 5 2))
  else if fldN w 0 5 = 5 ∧ fldN w 12 5 = 0 then some (.vmax (fld w 23 3) (fld w 20 3) (fld w 17 3) (fld w 7 5) (fld w 5 2))
  else if fldN w 0 5 = 6 ∧ fldN w 7 13 = 0 then some (.vabs (fld w 23 3) (fld w 20 3) (fld w 5 2))
  else if fldN w 0 5 = 7 ∧ fldN w 7 13 = 0 then some (.vneg (fld w 23 3) (fld w 20 3) (fld w 5 2))
  else if fldN w 0 5 = 8 ∧ fldN w 7 13 = 0 then some (.vcvt (fld w 23 3) (fld w 20 3) (fld w 5 2))
  else if fldN w 0 12 = 9 then some (.vsel (fld w 23 3) (fld w 20 3) (fld w 17 3) (fld w 12 5))
  else if fldN w 0 5 = 10 then some (.vcmp (fld w 23 3) (fld w 20 3) (fld w 17 3) (fld w 12 5) (fld w 7 5) (fld w 5 2))
  else if fldN w 0 5 = 11 ∧ fldN w 12 8 = 0 then some (.vred (fld w 23 3) (fld w 20 3) (fld w 7 5) (fld w 5 2))
  else if fldN w 0 5 = 12 ∧ fldN w 12 8 = 0 then some (.vscan (fld w 23 3) (fld w 20 3) (fld w 7 5) (fld w 5 2))
  else if fldN w 0 5 = 13 ∧ fldN w 12 5 = 0 then some (.vdot (fld w 23 3) (fld w 20 3) (fld w 17 3) (fld w 7 5) (fld w 5 2))
  else if fldN w 0 20 = 16 then some (.vexp (fld w 23 3) (fld w 20 3))
  else if fldN w 0 20 = 17 then some (.vlog (fld w 23 3) (fld w 20 3))
  else if fldN w 0 20 = 18 then some (.vrcp (fld w 23 3) (fld w 20 3))
  else if fldN w 0 20 = 19 then some (.vrsq (fld w 23 3) (fld w 20 3))
  else if fldN w 0 20 = 20 then some (.vtanh (fld w 23 3) (fld w 20 3))
  else if fldN w 0 20 = 21 then some (.vsigm (fld w 23 3) (fld w 20 3))
  else if fldN w 0 26 = 31 then some .vfence
  else none

/-- Major 0x2E (R71). -/
def decodeMajor2E (w : Word32) : Option Instr :=
  if fldN w 0 4 = 0 ∧ fldN w 11 5 = 0 then some (.fexp (fld w 21 5) (fld w 16 5) (fld w 7 4) (fld w 4 3))
  else if fldN w 0 4 = 1 ∧ fldN w 11 5 = 0 then some (.flog (fld w 21 5) (fld w 16 5) (fld w 7 4) (fld w 4 3))
  else if fldN w 0 4 = 2 ∧ fldN w 11 5 = 0 then some (.frcp (fld w 21 5) (fld w 16 5) (fld w 7 4) (fld w 4 3))
  else if fldN w 0 4 = 3 ∧ fldN w 11 5 = 0 then some (.frsq (fld w 21 5) (fld w 16 5) (fld w 7 4) (fld w 4 3))
  else if fldN w 0 4 = 4 ∧ fldN w 11 5 = 0 then some (.ftanh (fld w 21 5) (fld w 16 5) (fld w 7 4) (fld w 4 3))
  else if fldN w 0 4 = 5 ∧ fldN w 11 5 = 0 then some (.fsigm (fld w 21 5) (fld w 16 5) (fld w 7 4) (fld w 4 3))
  else none

/-- Major 0x31 (R71). -/
def decodeMajor31 (w : Word32) : Option Instr :=
  if fldN w 0 7 = 0 ∧ fldN w 11 5 = 0 then some (.btld (fld w 21 5) (fld w 16 5) (fld w 7 4))
  else if fldN w 0 7 = 1 ∧ fldN w 11 5 = 0 then some (.btst (fld w 21 5) (fld w 16 5) (fld w 7 4))
  else if fldN w 0 7 = 2 then some (.btand (fld w 21 5) (fld w 16 5) (fld w 11 5) (fld w 7 4))
  else if fldN w 0 7 = 3 then some (.btor (fld w 21 5) (fld w 16 5) (fld w 11 5) (fld w 7 4))
  else if fldN w 0 7 = 4 then some (.btxor (fld w 21 5) (fld w 16 5) (fld w 11 5) (fld w 7 4))
  else if fldN w 0 7 = 5 ∧ fldN w 11 5 = 0 then some (.btnot (fld w 21 5) (fld w 16 5) (fld w 7 4))
  else if fldN w 0 7 = 6 ∧ fldN w 11 5 = 0 then some (.bttrn (fld w 21 5) (fld w 16 5) (fld w 7 4))
  else if fldN w 0 7 = 7 then some (.btcomp (fld w 21 5) (fld w 16 5) (fld w 11 5) (fld w 7 4))
  else if fldN w 0 4 = 8 ∧ fldN w 5 2 = 0 ∧ fldN w 11 5 = 0 then some (.btclo (fld w 21 5) (fld w 16 5) (fld w 7 4) (fld w 4 1))
  else if fldN w 0 7 = 9 then some (.btrc (fld w 21 5) (fld w 16 5) (fld w 11 5) (fld w 7 4))
  else none

/-- Major 0x34 (R71). -/
def decodeMajor34 (w : Word32) : Option Instr :=
  if fldN w 0 11 = 0 ∧ fldN w 21 5 = 0 then some (.start (fld w 16 5) (fld w 11 5))
  else if fldN w 0 16 = 1 ∧ fldN w 21 5 = 0 then some (.reap (fld w 16 5))
  else if fldN w 0 26 = 2 then some .yield
  else if fldN w 0 26 = 3 then some .exit
  else if fldN w 0 4 = 4 ∧ fldN w 7 9 = 0 ∧ fldN w 21 5 = 0 then some (.bar (fld w 16 5) (fld w 4 3))
  else if fldN w 0 7 = 5 ∧ fldN w 11 5 = 0 then some (.spawn (fld w 21 5) (fld w 16 5) (fld w 7 4))
  else none

/-- Major 0x37 (R71). -/
def decodeMajor37 (w : Word32) : Option Instr :=
  if fldN w 0 16 = 16 ∧ fldN w 21 5 = 0 then some (.tmodeOn (fld w 16 5))
  else if fldN w 0 26 = 0 then some .tmodeOff
  else if fldN w 0 7 = 1 then some (.tsend (fld w 21 5) (fld w 16 5) (fld w 11 5) (fld w 7 4))
  else if fldN w 0 16 = 2 then some (.tnext (fld w 21 5) (fld w 16 5))
  else if fldN w 0 16 = 3 then some (.tout (fld w 21 5) (fld w 16 5))
  else if fldN w 0 21 = 4 then some (.gvtrd (fld w 21 5))
  else if fldN w 0 16 = 20 then some (.gvtrdW (fld w 21 5) (fld w 16 5))
  else none

/-- Major 0x3C (R71). -/
def decodeMajor3C (w : Word32) : Option Instr :=
  if fldN w 12 14 = 0 then some (.trap (fld w 0 12))
  else if fldN w 0 16 = 4096 ∧ fldN w 21 5 = 0 then some (.eret (fld w 16 5))
  else if fldN w 0 16 = 4097 ∧ fldN w 21 5 = 0 then some (.eretSys (fld w 16 5))
  else if fldN w 0 16 = 4098 ∧ fldN w 21 5 = 0 then some (.eretUser (fld w 16 5))
  else if fldN w 12 9 = 2 then some (.sysrd (fld w 21 5) (fld w 0 12))
  else if fldN w 12 4 = 3 ∧ fldN w 21 5 = 0 then some (.syswr (fld w 16 5) (fld w 0 12))
  else if fldN w 0 16 = 16384 then some (.xec (fld w 21 5) (fld w 16 5))
  else if fldN w 0 16 = 20480 ∧ fldN w 21 5 = 0 then some (.icinv (fld w 16 5))
  else if fldN w 0 16 = 24576 ∧ fldN w 21 5 = 0 then some (.tlbinv (fld w 16 5))
  else if fldN w 0 16 = 28672 then some (.swapctx (fld w 21 5) (fld w 16 5))
  else if fldN w 0 16 = 28673 then some (.swapctxOut (fld w 21 5) (fld w 16 5))
  else if fldN w 0 16 = 28674 then some (.swapctxIn (fld w 21 5) (fld w 16 5))
  else if fldN w 0 21 = 32768 then some (.snap (fld w 21 5))
  else if fldN w 0 21 = 36864 then some (.halt (fld w 21 5))
  else none

/-- Major 0x3D (R71). -/
def decodeMajor3D (w : Word32) : Option Instr :=
  if fldN w 0 26 = 0 then some .brk
  else none

/-- L-format major 0x2D with its parameter words (R71, R74). -/
def decodeMajor2D (w : Word32) (p : Params) : Option Instr :=
  if fldN w 0 7 = 0 then some (.scfg (fld w 21 5) (fld w 16 5) (fld w 11 5) (fld w 7 4) p)
  else if fldN w 0 7 = 1 then some (.scfg2 (fld w 21 5) (fld w 16 5) (fld w 11 5) (fld w 7 4) p)
  else if fldN w 0 7 = 2 ∧ fldN w 16 5 = 0 ∧ fldN w 11 5 = 0 then some (.srel (fld w 21 5) (fld w 7 4) p)
  else none

/-- L-format major 0x30 with its parameter words (R71, R74). -/
def decodeMajor30 (w : Word32) (p : Params) : Option Instr :=
  if fldN w 0 4 = 0 ∧ fldN w 5 2 = 0 ∧ fldN w 4 1 = 0 ∧ fldN w 21 5 = 0 ∧ fldN w 16 5 = 0 ∧ fldN w 11 5 = 0 then some (.mlease (fld w 7 4) p)
  else if fldN w 0 4 = 1 ∧ fldN w 5 2 = 0 ∧ fldN w 4 1 = 0 ∧ fldN w 21 5 = 0 ∧ fldN w 16 5 = 0 ∧ fldN w 11 5 = 0 ∧ fldN w 7 4 = 0 then some (.mfree p)
  else if fldN w 0 4 = 11 ∧ fldN w 5 2 = 0 ∧ fldN w 4 1 = 0 ∧ fldN w 21 5 = 0 ∧ fldN w 16 5 = 0 ∧ fldN w 11 5 = 0 ∧ fldN w 7 4 = 0 then some (.mwait p)
  else if fldN w 0 4 = 2 ∧ fldN w 5 2 = 0 ∧ fldN w 4 1 = 0 ∧ fldN w 21 5 = 0 then some (.mloadb (fld w 16 5) (fld w 11 5) (fld w 7 4) p)
  else if fldN w 0 4 = 3 ∧ fldN w 5 2 = 0 ∧ fldN w 4 1 = 0 ∧ fldN w 21 5 = 0 ∧ fldN w 11 5 = 0 then some (.mcb (fld w 16 5) (fld w 7 4) p)
  else if fldN w 0 4 = 4 ∧ fldN w 5 2 = 0 ∧ fldN w 4 1 = 0 ∧ fldN w 11 5 = 0 then some (.mzero (fld w 21 5) (fld w 16 5) (fld w 7 4) p)
  else if fldN w 0 4 = 5 ∧ fldN w 5 2 = 0 then some (.mma (fld w 21 5) (fld w 16 5) (fld w 11 5) (fld w 7 4) (fld w 4 1) p)
  else if fldN w 0 4 = 6 ∧ fldN w 5 2 = 0 then some (.mmas (fld w 21 5) (fld w 16 5) (fld w 11 5) (fld w 7 4) (fld w 4 1) p)
  else if fldN w 0 4 = 7 ∧ fldN w 5 2 = 0 ∧ fldN w 4 1 = 0 then some (.mepi (fld w 21 5) (fld w 16 5) (fld w 11 5) (fld w 7 4) p)
  else if fldN w 0 4 = 8 ∧ fldN w 5 2 = 0 ∧ fldN w 4 1 = 0 ∧ fldN w 21 5 = 0 ∧ fldN w 16 5 = 0 ∧ fldN w 11 5 = 0 then some (.mprog (fld w 7 4) p)
  else if fldN w 0 4 = 9 ∧ fldN w 5 2 = 0 ∧ fldN w 4 1 = 0 then some (.mrec (fld w 21 5) (fld w 16 5) (fld w 11 5) (fld w 7 4) p)
  else if fldN w 0 4 = 10 ∧ fldN w 5 2 = 0 ∧ fldN w 4 1 = 0 then some (.mocmp (fld w 21 5) (fld w 16 5) (fld w 11 5) (fld w 7 4) p)
  else none

/-- L-format major 0x35 with its parameter words (R71, R74). -/
def decodeMajor35 (w : Word32) (p : Params) : Option Instr :=
  if fldN w 0 4 = 0 ∧ fldN w 5 2 = 0 ∧ fldN w 4 1 = 0 then some (.launch (fld w 21 5) (fld w 16 5) (fld w 11 5) (fld w 7 4) p)
  else if fldN w 0 4 = 1 ∧ fldN w 5 2 = 0 ∧ fldN w 4 1 = 0 ∧ p.w0.toNat % 16 = 0 then some (.trregCreate (fld w 21 5) (fld w 16 5) (fld w 11 5) (fld w 7 4) p)
  else if fldN w 0 4 = 1 ∧ fldN w 5 2 = 0 ∧ fldN w 4 1 = 0 ∧ p.w0.toNat % 16 = 1 then some (.trregRegion (fld w 21 5) (fld w 16 5) (fld w 11 5) (fld w 7 4) p)
  else if fldN w 0 4 = 1 ∧ fldN w 5 2 = 0 ∧ fldN w 4 1 = 0 ∧ p.w0.toNat % 16 = 2 then some (.trregArm (fld w 21 5) (fld w 16 5) (fld w 11 5) (fld w 7 4) p)
  else if fldN w 0 4 = 1 ∧ fldN w 5 2 = 0 ∧ fldN w 4 1 = 0 ∧ p.w0.toNat % 16 = 3 then some (.trregFree (fld w 21 5) (fld w 16 5) (fld w 11 5) (fld w 7 4) p)
  else if fldN w 0 4 = 2 ∧ fldN w 5 2 = 0 ∧ fldN w 11 5 = 0 then some (.relaunch (fld w 21 5) (fld w 16 5) (fld w 7 4) (fld w 4 1) p)
  else if fldN w 0 4 = 3 ∧ fldN w 5 2 = 0 ∧ fldN w 4 1 = 0 ∧ fldN w 16 5 = 0 ∧ fldN w 11 5 = 0 then some (.trinfo (fld w 21 5) (fld w 7 4) p)
  else none

/-- L-format major 0x36 with its parameter words (R71, R74). -/
def decodeMajor36 (w : Word32) (p : Params) : Option Instr :=
  if fldN w 0 7 = 0 ∧ fldN w 21 5 = 0 then some (.copy (fld w 16 5) (fld w 11 5) (fld w 7 4) p)
  else if fldN w 0 7 = 1 ∧ fldN w 21 5 = 0 then some (.gath (fld w 16 5) (fld w 11 5) (fld w 7 4) p)
  else if fldN w 0 7 = 2 ∧ fldN w 21 5 = 0 then some (.scat (fld w 16 5) (fld w 11 5) (fld w 7 4) p)
  else if fldN w 0 7 = 3 ∧ fldN w 11 5 = 0 then some (.tblset (fld w 21 5) (fld w 16 5) (fld w 7 4) p)
  else if fldN w 0 7 = 4 ∧ fldN w 11 5 = 0 then some (.tblsw (fld w 21 5) (fld w 16 5) (fld w 7 4) p)
  else if fldN w 0 7 = 6 ∧ fldN w 16 5 = 0 ∧ fldN w 11 5 = 0 then some (.shstat (fld w 21 5) (fld w 7 4) p)
  else if fldN w 0 7 = 5 then some (.rmig (fld w 21 5) (fld w 16 5) (fld w 11 5) (fld w 7 4) p)
  else none

/-- L-format major 0x38 with its parameter words (R71, R74). -/
def decodeMajor38 (w : Word32) (p : Params) : Option Instr :=
  if fldN w 0 7 = 0 ∧ fldN w 11 5 = 0 then some (.cred (fld w 21 5) (fld w 16 5) (fld w 7 4) p)
  else if fldN w 0 7 = 1 then some (.cbcast (fld w 21 5) (fld w 16 5) (fld w 11 5) (fld w 7 4) p)
  else none

/-- The majors whose format is L: the word is followed by four parameter words (R54). -/
def isLMajor (m : Nat) : Bool := m == 0x2D || m == 0x30 || m == 0x35 || m == 0x36 || m == 0x38

/-- Why a word is no instruction (R76): each raises ILLOP with TVAL the word. -/
inductive Reject where
  /-- fewer bytes than the format needs -/
  | tooShort
  /-- a major that R71 does not list -/
  | unassignedMajor
  /-- a function code, size, kind or sub that is not listed, or a reserved field that is not zero -/
  | notListed
  deriving DecidableEq, Repr

/-- The majors that R71 assigns. -/
def majorAssigned (m : Nat) : Bool :=
  [0x01, 0x02, 0x03, 0x04, 0x05, 0x06, 0x07, 0x08, 0x09, 0x0A, 0x0B, 0x0C, 0x10, 0x11, 0x12, 0x13, 0x14, 0x15, 0x16, 0x17, 0x18, 0x20, 0x21, 0x22, 0x23, 0x24, 0x25, 0x26, 0x28, 0x29, 0x2C, 0x2D, 0x2E, 0x30, 0x31, 0x34, 0x35, 0x36, 0x37, 0x38, 0x3C, 0x3D].contains m

/-- One-word formats by major. -/
def decodeOne (w : Word32) : Option Instr :=
  match fldN w 26 6 with
  | 0x01 => decodeMajor01 w
  | 0x02 => decodeMajor02 w
  | 0x03 => decodeMajor03 w
  | 0x04 => decodeMajor04 w
  | 0x05 => decodeMajor05 w
  | 0x06 => decodeMajor06 w
  | 0x07 => decodeMajor07 w
  | 0x08 => decodeMajor08 w
  | 0x09 => decodeMajor09 w
  | 0x0A => decodeMajor0A w
  | 0x0B => decodeMajor0B w
  | 0x0C => decodeMajor0C w
  | 0x10 => decodeMajor10 w
  | 0x11 => decodeMajor11 w
  | 0x12 => decodeMajor12 w
  | 0x13 => decodeMajor13 w
  | 0x14 => decodeMajor14 w
  | 0x15 => decodeMajor15 w
  | 0x16 => decodeMajor16 w
  | 0x17 => decodeMajor17 w
  | 0x18 => decodeMajor18 w
  | 0x20 => decodeMajor20 w
  | 0x21 => decodeMajor21 w
  | 0x22 => decodeMajor22 w
  | 0x23 => decodeMajor23 w
  | 0x24 => decodeMajor24 w
  | 0x25 => decodeMajor25 w
  | 0x26 => decodeMajor26 w
  | 0x28 => decodeMajor28 w
  | 0x29 => decodeMajor29 w
  | 0x2C => decodeMajor2C w
  | 0x2E => decodeMajor2E w
  | 0x31 => decodeMajor31 w
  | 0x34 => decodeMajor34 w
  | 0x37 => decodeMajor37 w
  | 0x3C => decodeMajor3C w
  | 0x3D => decodeMajor3D w
  | _ => none

/-- L formats by major. -/
def decodeL (w : Word32) (p : Params) : Option Instr :=
  match fldN w 26 6 with
  | 0x2D => decodeMajor2D w p
  | 0x30 => decodeMajor30 w p
  | 0x35 => decodeMajor35 w p
  | 0x36 => decodeMajor36 w p
  | 0x38 => decodeMajor38 w p
  | _ => none

/-- Decoding of the words at the program counter: the instruction and how many words it takes (R54). -/
def decodeWords (ws : List Word32) : Except Reject (Instr × Nat) :=
  match ws with
  | [] => .error .tooShort
  | w :: rest =>
    if isLMajor (fldN w 26 6) then
      match rest with
      | a :: b :: c :: d :: _ =>
        match decodeL w ⟨a, b, c, d⟩ with
        | some i => .ok (i, 5)
        | none => .error .notListed
      | _ => .error .tooShort
    else match decodeOne w with
      | some i => .ok (i, 1)
      | none => .error (if majorAssigned (fldN w 26 6) then .notListed else .unassignedMajor)

/-- Four little-endian bytes as a word (R2). -/
def wordOfBytes (a b c d : Byte) : Word32 := BitVec.ofNat 32 (a.toNat + b.toNat * 256 + c.toNat * 65536 + d.toNat * 16777216)

/-- Bytes grouped into words; a short tail is dropped. -/
def wordsOfBytes : List Byte → List Word32
  | a :: b :: c :: d :: r => wordOfBytes a b c d :: wordsOfBytes r
  | _ => []

/-- Decoding of any bytes, total, rejecting by name. -/
def decode (bs : List Byte) : Except Reject (Instr × Nat) := decodeWords (wordsOfBytes bs)

/-- The bytes of a word, lowest address first (R2). -/
def bytesOfWord (w : Word32) : List Byte :=
  [BitVec.ofNat 8 w.toNat, BitVec.ofNat 8 (w.toNat / 256), BitVec.ofNat 8 (w.toNat / 65536), BitVec.ofNat 8 (w.toNat / 16777216)]

/-- Word `k` of an instruction whose bits are numbered as spec/opcode_table.json numbers them. -/
def tableWord (w k : Nat) : Word32 := BitVec.ofNat 32 (w / 2 ^ (32 * k))

/-- The five words of an instruction given as one number; what lies above `nbits` is zero. -/
def tableWords (nbits w : Nat) : List Word32 :=
  let v := w % 2 ^ nbits
  [tableWord v 0, tableWord v 1, tableWord v 2, tableWord v 3, tableWord v 4]

/-- The instruction the decoder reads from an instruction whose bits are `w`. -/
def decodeTableWord (nbits w : Nat) : Option Instr :=
  match decode ((tableWords nbits w).flatMap bytesOfWord) with
  | .ok (i, _) => some i
  | .error _ => none

/-- A number placed as a word. -/
def mkWord (n : Nat) : Word32 := BitVec.ofNat 32 n

/-- The first word of an instruction, written from the encoding tables (R55, R71 to R75). A step of the hardware has no word: 0. -/
def Instr.word (i : Instr) : Word32 :=
  match i with
  | .add d a b => mkWord (0x04000000 + d.toNat * 2097152 + a.toNat * 65536 + b.toNat * 2048)
  | .sub d a b => mkWord (0x04000001 + d.toNat * 2097152 + a.toNat * 65536 + b.toNat * 2048)
  | .and d a b => mkWord (0x04000002 + d.toNat * 2097152 + a.toNat * 65536 + b.toNat * 2048)
  | .or d a b => mkWord (0x04000003 + d.toNat * 2097152 + a.toNat * 65536 + b.toNat * 2048)
  | .xor d a b => mkWord (0x04000004 + d.toNat * 2097152 + a.toNat * 65536 + b.toNat * 2048)
  | .sll d a b => mkWord (0x04000005 + d.toNat * 2097152 + a.toNat * 65536 + b.toNat * 2048)
  | .srl d a b => mkWord (0x04000006 + d.toNat * 2097152 + a.toNat * 65536 + b.toNat * 2048)
  | .sra d a b => mkWord (0x04000007 + d.toNat * 2097152 + a.toNat * 65536 + b.toNat * 2048)
  | .slt d a b => mkWord (0x04000008 + d.toNat * 2097152 + a.toNat * 65536 + b.toNat * 2048)
  | .sltu d a b => mkWord (0x04000009 + d.toNat * 2097152 + a.toNat * 65536 + b.toNat * 2048)
  | .min d a b => mkWord (0x0400000A + d.toNat * 2097152 + a.toNat * 65536 + b.toNat * 2048)
  | .max d a b => mkWord (0x0400000B + d.toNat * 2097152 + a.toNat * 65536 + b.toNat * 2048)
  | .minu d a b => mkWord (0x0400000C + d.toNat * 2097152 + a.toNat * 65536 + b.toNat * 2048)
  | .maxu d a b => mkWord (0x0400000D + d.toNat * 2097152 + a.toNat * 65536 + b.toNat * 2048)
  | .mul d a b => mkWord (0x08000000 + d.toNat * 2097152 + a.toNat * 65536 + b.toNat * 2048)
  | .mulh d a b => mkWord (0x08000001 + d.toNat * 2097152 + a.toNat * 65536 + b.toNat * 2048)
  | .mulhu d a b => mkWord (0x08000002 + d.toNat * 2097152 + a.toNat * 65536 + b.toNat * 2048)
  | .div d a b => mkWord (0x08000003 + d.toNat * 2097152 + a.toNat * 65536 + b.toNat * 2048)
  | .divu d a b => mkWord (0x08000004 + d.toNat * 2097152 + a.toNat * 65536 + b.toNat * 2048)
  | .rem d a b => mkWord (0x08000005 + d.toNat * 2097152 + a.toNat * 65536 + b.toNat * 2048)
  | .remu d a b => mkWord (0x08000006 + d.toNat * 2097152 + a.toNat * 65536 + b.toNat * 2048)
  | .clz d a => mkWord (0x0C000000 + d.toNat * 2097152 + a.toNat * 65536)
  | .ctz d a => mkWord (0x0C000001 + d.toNat * 2097152 + a.toNat * 65536)
  | .popc d a => mkWord (0x0C000002 + d.toNat * 2097152 + a.toNat * 65536)
  | .sel d a b c => mkWord (0x0C000003 + d.toNat * 2097152 + a.toNat * 65536 + b.toNat * 2048 + c.toNat * 64)
  | .addi d a i => mkWord (0x10000000 + d.toNat * 2097152 + a.toNat * 65536 + i.toNat)
  | .andi d a i => mkWord (0x14000000 + d.toNat * 2097152 + a.toNat * 65536 + i.toNat)
  | .ori d a i => mkWord (0x18000000 + d.toNat * 2097152 + a.toNat * 65536 + i.toNat)
  | .xori d a i => mkWord (0x1C000000 + d.toNat * 2097152 + a.toNat * 65536 + i.toNat)
  | .slti d a i => mkWord (0x20000000 + d.toNat * 2097152 + a.toNat * 65536 + i.toNat)
  | .sltiu d a i => mkWord (0x24000000 + d.toNat * 2097152 + a.toNat * 65536 + i.toNat)
  | .slli d a n => mkWord (0x28000000 + d.toNat * 2097152 + a.toNat * 65536 + n.toNat)
  | .srli d a n => mkWord (0x28004000 + d.toNat * 2097152 + a.toNat * 65536 + n.toNat)
  | .srai d a n => mkWord (0x28008000 + d.toNat * 2097152 + a.toNat * 65536 + n.toNat)
  | .extr d a w p => mkWord (0x2800C000 + d.toNat * 2097152 + a.toNat * 65536 + w.toNat * 64 + p.toNat)
  | .insr d a w p => mkWord (0x2800E000 + d.toNat * 2097152 + a.toNat * 65536 + w.toNat * 64 + p.toNat)
  | .lui d i => mkWord (0x2C000000 + d.toNat * 2097152 + i.toNat)
  | .addpc d i => mkWord (0x30000000 + d.toNat * 2097152 + i.toNat)
  | .beq a b i => mkWord (0x40000000 + a.toNat * 2097152 + b.toNat * 65536 + i.toNat)
  | .bne a b i => mkWord (0x44000000 + a.toNat * 2097152 + b.toNat * 65536 + i.toNat)
  | .blt a b i => mkWord (0x48000000 + a.toNat * 2097152 + b.toNat * 65536 + i.toNat)
  | .bge a b i => mkWord (0x4C000000 + a.toNat * 2097152 + b.toNat * 65536 + i.toNat)
  | .bltu a b i => mkWord (0x50000000 + a.toNat * 2097152 + b.toNat * 65536 + i.toNat)
  | .bgeu a b i => mkWord (0x54000000 + a.toNat * 2097152 + b.toNat * 65536 + i.toNat)
  | .jal d i => mkWord (0x58000000 + d.toNat * 2097152 + i.toNat)
  | .jalr d a i => mkWord (0x5C000000 + d.toNat * 2097152 + a.toNat * 65536 + i.toNat)
  | .bst c i => mkWord (0x60000000 + c.toNat * 2097152 + i.toNat)
  | .bstN c i => mkWord (0x61000000 + c.toNat * 2097152 + i.toNat)
  | .fadd d a b m => mkWord (0xA0000000 + d.toNat * 2097152 + a.toNat * 65536 + b.toNat * 2048 + m.toNat * 256)
  | .fsub d a b m => mkWord (0xA0000001 + d.toNat * 2097152 + a.toNat * 65536 + b.toNat * 2048 + m.toNat * 256)
  | .fmul d a b m => mkWord (0xA0000002 + d.toNat * 2097152 + a.toNat * 65536 + b.toNat * 2048 + m.toNat * 256)
  | .fdiv d a b m => mkWord (0xA0000003 + d.toNat * 2097152 + a.toNat * 65536 + b.toNat * 2048 + m.toNat * 256)
  | .fsqrt d a m => mkWord (0xA0000004 + d.toNat * 2097152 + a.toNat * 65536 + m.toNat * 256)
  | .fmin d a b => mkWord (0xA0000005 + d.toNat * 2097152 + a.toNat * 65536 + b.toNat * 2048)
  | .fmax d a b => mkWord (0xA0000006 + d.toNat * 2097152 + a.toNat * 65536 + b.toNat * 2048)
  | .feq d a b => mkWord (0xA0000007 + d.toNat * 2097152 + a.toNat * 65536 + b.toNat * 2048)
  | .flt d a b => mkWord (0xA0000008 + d.toNat * 2097152 + a.toNat * 65536 + b.toNat * 2048)
  | .fle d a b => mkWord (0xA0000009 + d.toNat * 2097152 + a.toNat * 65536 + b.toNat * 2048)
  | .fclass d a => mkWord (0xA000000A + d.toNat * 2097152 + a.toNat * 65536)
  | .fsgn d a b s => mkWord (0xA000000B + d.toNat * 2097152 + a.toNat * 65536 + b.toNat * 2048 + s.toNat * 32)
  | .fcvt d a m s => mkWord (0xA000000C + d.toNat * 2097152 + a.toNat * 65536 + m.toNat * 256 + s.toNat * 32)
  | .fmvxf d a => mkWord (0xA000000D + d.toNat * 2097152 + a.toNat * 65536)
  | .fmvfx d a => mkWord (0xA000000E + d.toNat * 2097152 + a.toNat * 65536)
  | .fma d a b c m => mkWord (0xA4000000 + d.toNat * 2097152 + a.toNat * 65536 + b.toNat * 2048 + c.toNat * 64 + m.toNat * 8)
  | .fms d a b c m => mkWord (0xA4000001 + d.toNat * 2097152 + a.toNat * 65536 + b.toNat * 2048 + c.toNat * 64 + m.toNat * 8)
  | .fnma d a b c m => mkWord (0xA4000002 + d.toNat * 2097152 + a.toNat * 65536 + b.toNat * 2048 + c.toNat * 64 + m.toNat * 8)
  | .fnms d a b c m => mkWord (0xA4000003 + d.toNat * 2097152 + a.toNat * 65536 + b.toNat * 2048 + c.toNat * 64 + m.toNat * 8)
  | .fexp d a l m => mkWord (0xB8000000 + d.toNat * 2097152 + a.toNat * 65536 + l.toNat * 128 + m.toNat * 16)
  | .flog d a l m => mkWord (0xB8000001 + d.toNat * 2097152 + a.toNat * 65536 + l.toNat * 128 + m.toNat * 16)
  | .frcp d a l m => mkWord (0xB8000002 + d.toNat * 2097152 + a.toNat * 65536 + l.toNat * 128 + m.toNat * 16)
  | .frsq d a l m => mkWord (0xB8000003 + d.toNat * 2097152 + a.toNat * 65536 + l.toNat * 128 + m.toNat * 16)
  | .ftanh d a l m => mkWord (0xB8000004 + d.toNat * 2097152 + a.toNat * 65536 + l.toNat * 128 + m.toNat * 16)
  | .fsigm d a l m => mkWord (0xB8000005 + d.toNat * 2097152 + a.toNat * 65536 + l.toNat * 128 + m.toNat * 16)
  | .ld d a l x s i => mkWord (0x80000000 + d.toNat * 2097152 + a.toNat * 65536 + l.toNat * 4096 + x.toNat * 2048 + s.toNat * 256 + i.toNat)
  | .st t a l x s i => mkWord (0x84000000 + t.toNat * 2097152 + a.toNat * 65536 + l.toNat * 4096 + x.toNat * 2048 + s.toNat * 256 + i.toNat)
  | .ldf d a l x s i => mkWord (0x88000000 + d.toNat * 2097152 + a.toNat * 65536 + l.toNat * 4096 + x.toNat * 2048 + s.toNat * 256 + i.toNat)
  | .stf t a l x s i => mkWord (0x8C000000 + t.toNat * 2097152 + a.toNat * 65536 + l.toNat * 4096 + x.toNat * 2048 + s.toNat * 256 + i.toNat)
  | .ldfe d a l i => mkWord (0x90000000 + d.toNat * 2097152 + a.toNat * 65536 + l.toNat * 4096 + i.toNat)
  | .ldff d a l i => mkWord (0x90000100 + d.toNat * 2097152 + a.toNat * 65536 + l.toNat * 4096 + i.toNat)
  | .stef t a l i => mkWord (0x90000200 + t.toNat * 2097152 + a.toNat * 65536 + l.toNat * 4096 + i.toNat)
  | .stff t a l i => mkWord (0x90000300 + t.toNat * 2097152 + a.toNat * 65536 + l.toNat * 4096 + i.toNat)
  | .sete c a l i => mkWord (0x90000400 + c.toNat * 2097152 + a.toNat * 65536 + l.toNat * 4096 + i.toNat)
  | .setf c a l i => mkWord (0x90000500 + c.toNat * 2097152 + a.toNat * 65536 + l.toNat * 4096 + i.toNat)
  | .amoadd d a b l z => mkWord (0x94000000 + d.toNat * 2097152 + a.toNat * 65536 + b.toNat * 2048 + l.toNat * 128 + z.toNat * 64)
  | .amoand d a b l z => mkWord (0x94000008 + d.toNat * 2097152 + a.toNat * 65536 + b.toNat * 2048 + l.toNat * 128 + z.toNat * 64)
  | .amoor d a b l z => mkWord (0x94000010 + d.toNat * 2097152 + a.toNat * 65536 + b.toNat * 2048 + l.toNat * 128 + z.toNat * 64)
  | .amoxor d a b l z => mkWord (0x94000018 + d.toNat * 2097152 + a.toNat * 65536 + b.toNat * 2048 + l.toNat * 128 + z.toNat * 64)
  | .amomin d a b l z => mkWord (0x94000020 + d.toNat * 2097152 + a.toNat * 65536 + b.toNat * 2048 + l.toNat * 128 + z.toNat * 64)
  | .amomax d a b l z => mkWord (0x94000028 + d.toNat * 2097152 + a.toNat * 65536 + b.toNat * 2048 + l.toNat * 128 + z.toNat * 64)
  | .amoswap d a b l z => mkWord (0x94000030 + d.toNat * 2097152 + a.toNat * 65536 + b.toNat * 2048 + l.toNat * 128 + z.toNat * 64)
  | .cas d a b l z => mkWord (0x94000038 + d.toNat * 2097152 + a.toNat * 65536 + b.toNat * 2048 + l.toNat * 128 + z.toNat * 64)
  | .fence s => mkWord (0x98000000 + s.toNat * 16)
  | .segld g a l => mkWord (0x98000001 + g.toNat * 2097152 + a.toNat * 65536 + l.toNat * 128)
  | .segrd d g h => mkWord (0x98000002 + d.toNat * 2097152 + g.toNat * 65536 + h.toNat * 2048)
  | .bankcfg d a b l k => mkWord (0x98000003 + d.toNat * 2097152 + a.toNat * 65536 + b.toNat * 2048 + l.toNat * 128 + k.toNat * 16)
  | .bankConversionDone _ _ => 0
  | .bankq d a l => mkWord (0x98000004 + d.toNat * 2097152 + a.toNat * 65536 + l.toNat * 128)
  | .bankjoin a l => mkWord (0x98000005 + a.toNat * 65536 + l.toNat * 128)
  | .send t a l => mkWord (0x98000006 + t.toNat * 2097152 + a.toNat * 65536 + l.toNat * 128)
  | .dq d a l w => mkWord (0x98000007 + d.toNat * 2097152 + a.toNat * 65536 + l.toNat * 128 + w.toNat * 16)
  | .migrate a => mkWord (0x98000008 + a.toNat * 65536)
  | .migrationArrival _ => 0
  | .arrivalQueueAdmit _ => 0
  | .migrationReoffer _ => 0
  | .bankAccessPerformed _ _ _ => 0
  | .waiterRetry _ _ => 0
  | .portAccessPerformed _ _ _ => 0
  | .pagerWake _ _ => 0
  | .longLatencyComplete _ _ _ => 0
  | .lateFault _ _ => 0
  | .hwMessageDeliver _ => 0
  | .scfg n a b l _ => mkWord (0xB4000000 + n.toNat * 2097152 + a.toNat * 65536 + b.toNat * 2048 + l.toNat * 128)
  | .scfg2 n a b l _ => mkWord (0xB4000001 + n.toNat * 2097152 + a.toNat * 65536 + b.toNat * 2048 + l.toNat * 128)
  | .srel n l _ => mkWord (0xB4000002 + n.toNat * 2097152 + l.toNat * 128)
  | .streamElementRead _ _ _ _ => 0
  | .streamElementWrite _ _ _ _ => 0
  | .vadd d a b y s => mkWord (0xB0000000 + d.toNat * 8388608 + a.toNat * 1048576 + b.toNat * 131072 + y.toNat * 128 + s.toNat * 32)
  | .vsub d a b y s => mkWord (0xB0000001 + d.toNat * 8388608 + a.toNat * 1048576 + b.toNat * 131072 + y.toNat * 128 + s.toNat * 32)
  | .vmul d a b y s => mkWord (0xB0000002 + d.toNat * 8388608 + a.toNat * 1048576 + b.toNat * 131072 + y.toNat * 128 + s.toNat * 32)
  | .vfma d a b x s => mkWord (0xB0000003 + d.toNat * 8388608 + a.toNat * 1048576 + b.toNat * 131072 + x.toNat * 4096 + s.toNat * 32)
  | .vmin d a b y s => mkWord (0xB0000004 + d.toNat * 8388608 + a.toNat * 1048576 + b.toNat * 131072 + y.toNat * 128 + s.toNat * 32)
  | .vmax d a b y s => mkWord (0xB0000005 + d.toNat * 8388608 + a.toNat * 1048576 + b.toNat * 131072 + y.toNat * 128 + s.toNat * 32)
  | .vabs d a s => mkWord (0xB0000006 + d.toNat * 8388608 + a.toNat * 1048576 + s.toNat * 32)
  | .vneg d a s => mkWord (0xB0000007 + d.toNat * 8388608 + a.toNat * 1048576 + s.toNat * 32)
  | .vcvt d a s => mkWord (0xB0000008 + d.toNat * 8388608 + a.toNat * 1048576 + s.toNat * 32)
  | .vsel d a b x => mkWord (0xB0000009 + d.toNat * 8388608 + a.toNat * 1048576 + b.toNat * 131072 + x.toNat * 4096)
  | .vcmp d a b x y s => mkWord (0xB000000A + d.toNat * 8388608 + a.toNat * 1048576 + b.toNat * 131072 + x.toNat * 4096 + y.toNat * 128 + s.toNat * 32)
  | .vred d a y s => mkWord (0xB000000B + d.toNat * 8388608 + a.toNat * 1048576 + y.toNat * 128 + s.toNat * 32)
  | .vscan d a y s => mkWord (0xB000000C + d.toNat * 8388608 + a.toNat * 1048576 + y.toNat * 128 + s.toNat * 32)
  | .vdot d a b y s => mkWord (0xB000000D + d.toNat * 8388608 + a.toNat * 1048576 + b.toNat * 131072 + y.toNat * 128 + s.toNat * 32)
  | .vexp d a => mkWord (0xB0000010 + d.toNat * 8388608 + a.toNat * 1048576)
  | .vlog d a => mkWord (0xB0000011 + d.toNat * 8388608 + a.toNat * 1048576)
  | .vrcp d a => mkWord (0xB0000012 + d.toNat * 8388608 + a.toNat * 1048576)
  | .vrsq d a => mkWord (0xB0000013 + d.toNat * 8388608 + a.toNat * 1048576)
  | .vtanh d a => mkWord (0xB0000014 + d.toNat * 8388608 + a.toNat * 1048576)
  | .vsigm d a => mkWord (0xB0000015 + d.toNat * 8388608 + a.toNat * 1048576)
  | .vfence => mkWord (0xB000001F)
  | .vectorBeat _ _ => 0
  | .sfuResult _ => 0
  | .mlease l _ => mkWord (0xC0000000 + l.toNat * 128)
  | .arrayLeaseGrant _ => 0
  | .leaseTimeLimit _ => 0
  | .mfree _ => mkWord (0xC0000001)
  | .mwait _ => mkWord (0xC000000B)
  | .mloadb a b l _ => mkWord (0xC0000002 + a.toNat * 65536 + b.toNat * 2048 + l.toNat * 128)
  | .mloadbTransferDone _ _ => 0
  | .mcb a l _ => mkWord (0xC0000003 + a.toNat * 65536 + l.toNat * 128)
  | .mzero d a l _ => mkWord (0xC0000004 + d.toNat * 2097152 + a.toNat * 65536 + l.toNat * 128)
  | .mma d a b l c _ => mkWord (0xC0000005 + d.toNat * 2097152 + a.toNat * 65536 + b.toNat * 2048 + l.toNat * 128 + c.toNat * 16)
  | .mmas d a b l c _ => mkWord (0xC0000006 + d.toNat * 2097152 + a.toNat * 65536 + b.toNat * 2048 + l.toNat * 128 + c.toNat * 16)
  | .mepi d a b l _ => mkWord (0xC0000007 + d.toNat * 2097152 + a.toNat * 65536 + b.toNat * 2048 + l.toNat * 128)
  | .mepiWritesDone _ _ => 0
  | .mprog l _ => mkWord (0xC0000008 + l.toNat * 128)
  | .mrec d a b l _ => mkWord (0xC0000009 + d.toNat * 2097152 + a.toNat * 65536 + b.toNat * 2048 + l.toNat * 128)
  | .mocmp d a b l _ => mkWord (0xC000000A + d.toNat * 2097152 + a.toNat * 65536 + b.toNat * 2048 + l.toNat * 128)
  | .arrayCommandComplete _ => 0
  | .arrayOperandsConsumed _ => 0
  | .btld d a l => mkWord (0xC4000000 + d.toNat * 2097152 + a.toNat * 65536 + l.toNat * 128)
  | .btst s a l => mkWord (0xC4000001 + s.toNat * 2097152 + a.toNat * 65536 + l.toNat * 128)
  | .btand d a b l => mkWord (0xC4000002 + d.toNat * 2097152 + a.toNat * 65536 + b.toNat * 2048 + l.toNat * 128)
  | .btor d a b l => mkWord (0xC4000003 + d.toNat * 2097152 + a.toNat * 65536 + b.toNat * 2048 + l.toNat * 128)
  | .btxor d a b l => mkWord (0xC4000004 + d.toNat * 2097152 + a.toNat * 65536 + b.toNat * 2048 + l.toNat * 128)
  | .btnot d a l => mkWord (0xC4000005 + d.toNat * 2097152 + a.toNat * 65536 + l.toNat * 128)
  | .bttrn d a l => mkWord (0xC4000006 + d.toNat * 2097152 + a.toNat * 65536 + l.toNat * 128)
  | .btcomp d a b l => mkWord (0xC4000007 + d.toNat * 2097152 + a.toNat * 65536 + b.toNat * 2048 + l.toNat * 128)
  | .btclo d a l r => mkWord (0xC4000008 + d.toNat * 2097152 + a.toNat * 65536 + l.toNat * 128 + r.toNat * 16)
  | .btrc d a b l => mkWord (0xC4000009 + d.toNat * 2097152 + a.toNat * 65536 + b.toNat * 2048 + l.toNat * 128)
  | .launch d a b l _ => mkWord (0xD4000000 + d.toNat * 2097152 + a.toNat * 65536 + b.toNat * 2048 + l.toNat * 128)
  | .dispatchBlockPlace _ => 0
  | .launchPromotion _ _ => 0
  | .launchReserve _ _ => 0
  | .blockComplete _ _ => 0
  | .launchComplete _ _ => 0
  | .start a b => mkWord (0xD0000000 + a.toNat * 65536 + b.toNat * 2048)
  | .reap a => mkWord (0xD0000001 + a.toNat * 65536)
  | .yield => mkWord (0xD0000002)
  | .yieldWake _ _ => 0
  | .exit => mkWord (0xD0000003)
  | .bar a n => mkWord (0xD0000004 + a.toNat * 65536 + n.toNat * 16)
  | .spawn t a l => mkWord (0xD0000005 + t.toNat * 2097152 + a.toNat * 65536 + l.toNat * 128)
  | .preempt _ => 0
  | .victimRestore _ => 0
  | .restoreDeadline _ => 0
  | .tccTransferFail _ _ _ => 0
  | .copy a b l _ => mkWord (0xD8000000 + a.toNat * 65536 + b.toNat * 2048 + l.toNat * 128)
  | .gath a b l _ => mkWord (0xD8000001 + a.toNat * 65536 + b.toNat * 2048 + l.toNat * 128)
  | .scat a b l _ => mkWord (0xD8000002 + a.toNat * 65536 + b.toNat * 2048 + l.toNat * 128)
  | .enginePostAccept _ _ _ => 0
  | .enginePostStart _ => 0
  | .enginePostComplete _ _ => 0
  | .tblset d a l _ => mkWord (0xD8000003 + d.toNat * 2097152 + a.toNat * 65536 + l.toNat * 128)
  | .tblsw d a l _ => mkWord (0xD8000004 + d.toNat * 2097152 + a.toNat * 65536 + l.toNat * 128)
  | .shstat d l _ => mkWord (0xD8000006 + d.toNat * 2097152 + l.toNat * 128)
  | .rmig d a b l _ => mkWord (0xD8000005 + d.toNat * 2097152 + a.toNat * 65536 + b.toNat * 2048 + l.toNat * 128)
  | .rowCacheAge _ => 0
  | .mcgroupLoad _ _ => 0
  | .trregCreate d a b l _ => mkWord (0xD4000001 + d.toNat * 2097152 + a.toNat * 65536 + b.toNat * 2048 + l.toNat * 128)
  | .trregRegion d a b l _ => mkWord (0xD4000001 + d.toNat * 2097152 + a.toNat * 65536 + b.toNat * 2048 + l.toNat * 128)
  | .trregArm d a b l _ => mkWord (0xD4000001 + d.toNat * 2097152 + a.toNat * 65536 + b.toNat * 2048 + l.toNat * 128)
  | .trregFree d a b l _ => mkWord (0xD4000001 + d.toNat * 2097152 + a.toNat * 65536 + b.toNat * 2048 + l.toNat * 128)
  | .relaunch d a l q _ => mkWord (0xD4000002 + d.toNat * 2097152 + a.toNat * 65536 + l.toNat * 128 + q.toNat * 16)
  | .relaunchRunStart _ => 0
  | .relaunchComplete _ => 0
  | .trinfo d l _ => mkWord (0xD4000003 + d.toNat * 2097152 + l.toNat * 128)
  | .tmodeOn a => mkWord (0xDC000010 + a.toNat * 65536)
  | .tmodeOff => mkWord (0xDC000000)
  | .tsend t a b l => mkWord (0xDC000001 + t.toNat * 2097152 + a.toNat * 65536 + b.toNat * 2048 + l.toNat * 128)
  | .tnext d a => mkWord (0xDC000002 + d.toNat * 2097152 + a.toNat * 65536)
  | .tout s a => mkWord (0xDC000003 + s.toNat * 2097152 + a.toNat * 65536)
  | .gvtrd d => mkWord (0xDC000004 + d.toNat * 2097152)
  | .gvtrdW d a => mkWord (0xDC000014 + d.toNat * 2097152 + a.toNat * 65536)
  | .timedMessageAccept _ => 0
  | .rollback _ => 0
  | .antiMessageArrive _ => 0
  | .horizonRoundStart _ => 0
  | .horizonReport _ => 0
  | .gvtPublish _ => 0
  | .outputRelease _ => 0
  | .gvtCopyUpdate _ => 0
  | .trap n => mkWord (0xF0000000 + n.toNat)
  | .eret a => mkWord (0xF0001000 + a.toNat * 65536)
  | .eretSys a => mkWord (0xF0001001 + a.toNat * 65536)
  | .eretUser a => mkWord (0xF0001002 + a.toNat * 65536)
  | .sysrd d r => mkWord (0xF0002000 + d.toNat * 2097152 + r.toNat)
  | .syswr a r => mkWord (0xF0003000 + a.toNat * 65536 + r.toNat)
  | .tswWrite _ _ _ => 0
  | .tccctlWrite _ _ _ => 0
  | .qosWrite _ _ _ => 0
  | .snapctlWrite _ _ => 0
  | .scopepolWrite _ _ => 0
  | .xec s a => mkWord (0xF0004000 + s.toNat * 2097152 + a.toNat * 65536)
  | .icinv a => mkWord (0xF0005000 + a.toNat * 65536)
  | .tlbinv a => mkWord (0xF0006000 + a.toNat * 65536)
  | .swapctx e a => mkWord (0xF0007000 + e.toNat * 2097152 + a.toNat * 65536)
  | .swapctxOut e a => mkWord (0xF0007001 + e.toNat * 2097152 + a.toNat * 65536)
  | .swapctxIn e a => mkWord (0xF0007002 + e.toNat * 2097152 + a.toNat * 65536)
  | .snap d => mkWord (0xF0008000 + d.toNat * 2097152)
  | .halt d => mkWord (0xF0009000 + d.toNat * 2097152)
  | .brk => mkWord (0xF4000000)
  | .debuggerStop _ _ => 0
  | .asleepSample _ => 0
  | .cred d a l _ => mkWord (0xE0000000 + d.toNat * 2097152 + a.toNat * 65536 + l.toNat * 128)
  | .cbcast d a b l _ => mkWord (0xE0000001 + d.toNat * 2097152 + a.toNat * 65536 + b.toNat * 2048 + l.toNat * 128)
  | .quadReassign _ _ => 0
  | .quadReset _ => 0
  | .engineReset _ => 0
  | .clusterReset _ => 0
  | .routerFailure _ => 0
  | .hbmChannelOffline _ => 0
  | .eccCorrected _ => 0
  | .poisonSet _ => 0
  | .linkTrain _ _ _ _ => 0
  | .linkReplay _ => 0
  | .linkRetrain _ _ => 0
  | .linkDown _ => 0
  | .bucketRefill _ => 0
  | .lineSend _ _ => 0
  | .gatingInterval _ _ => 0
  | .snapshotPin => 0
  | .snapshotLatch => 0
  | .boot _ _ => 0
  | .attestationSign _ => 0
  | .mailboxOpen _ _ => 0
  | .mailboxClose _ _ => 0
  | .mailboxRegisterWrite _ _ _ => 0
  | .reqtailWrite _ _ => 0
  | .cplheadWrite _ _ => 0
  | .reqLaunch _ => 0
  | .reqMessage _ => 0
  | .reqQuery _ => 0
  | .reqCregRead _ => 0
  | .reqCregWrite _ => 0
  | .reqUnlistedKind _ => 0
  | .mailboxCompletion _ => 0
  | .quadResetDone _ => 0
  | .engineResetDone _ => 0

/-- The parameter words, where the format has them. -/
def Instr.params (i : Instr) : Option Params :=
  match i with
  | .add _ _ _ => none
  | .sub _ _ _ => none
  | .and _ _ _ => none
  | .or _ _ _ => none
  | .xor _ _ _ => none
  | .sll _ _ _ => none
  | .srl _ _ _ => none
  | .sra _ _ _ => none
  | .slt _ _ _ => none
  | .sltu _ _ _ => none
  | .min _ _ _ => none
  | .max _ _ _ => none
  | .minu _ _ _ => none
  | .maxu _ _ _ => none
  | .mul _ _ _ => none
  | .mulh _ _ _ => none
  | .mulhu _ _ _ => none
  | .div _ _ _ => none
  | .divu _ _ _ => none
  | .rem _ _ _ => none
  | .remu _ _ _ => none
  | .clz _ _ => none
  | .ctz _ _ => none
  | .popc _ _ => none
  | .sel _ _ _ _ => none
  | .addi _ _ _ => none
  | .andi _ _ _ => none
  | .ori _ _ _ => none
  | .xori _ _ _ => none
  | .slti _ _ _ => none
  | .sltiu _ _ _ => none
  | .slli _ _ _ => none
  | .srli _ _ _ => none
  | .srai _ _ _ => none
  | .extr _ _ _ _ => none
  | .insr _ _ _ _ => none
  | .lui _ _ => none
  | .addpc _ _ => none
  | .beq _ _ _ => none
  | .bne _ _ _ => none
  | .blt _ _ _ => none
  | .bge _ _ _ => none
  | .bltu _ _ _ => none
  | .bgeu _ _ _ => none
  | .jal _ _ => none
  | .jalr _ _ _ => none
  | .bst _ _ => none
  | .bstN _ _ => none
  | .fadd _ _ _ _ => none
  | .fsub _ _ _ _ => none
  | .fmul _ _ _ _ => none
  | .fdiv _ _ _ _ => none
  | .fsqrt _ _ _ => none
  | .fmin _ _ _ => none
  | .fmax _ _ _ => none
  | .feq _ _ _ => none
  | .flt _ _ _ => none
  | .fle _ _ _ => none
  | .fclass _ _ => none
  | .fsgn _ _ _ _ => none
  | .fcvt _ _ _ _ => none
  | .fmvxf _ _ => none
  | .fmvfx _ _ => none
  | .fma _ _ _ _ _ => none
  | .fms _ _ _ _ _ => none
  | .fnma _ _ _ _ _ => none
  | .fnms _ _ _ _ _ => none
  | .fexp _ _ _ _ => none
  | .flog _ _ _ _ => none
  | .frcp _ _ _ _ => none
  | .frsq _ _ _ _ => none
  | .ftanh _ _ _ _ => none
  | .fsigm _ _ _ _ => none
  | .ld _ _ _ _ _ _ => none
  | .st _ _ _ _ _ _ => none
  | .ldf _ _ _ _ _ _ => none
  | .stf _ _ _ _ _ _ => none
  | .ldfe _ _ _ _ => none
  | .ldff _ _ _ _ => none
  | .stef _ _ _ _ => none
  | .stff _ _ _ _ => none
  | .sete _ _ _ _ => none
  | .setf _ _ _ _ => none
  | .amoadd _ _ _ _ _ => none
  | .amoand _ _ _ _ _ => none
  | .amoor _ _ _ _ _ => none
  | .amoxor _ _ _ _ _ => none
  | .amomin _ _ _ _ _ => none
  | .amomax _ _ _ _ _ => none
  | .amoswap _ _ _ _ _ => none
  | .cas _ _ _ _ _ => none
  | .fence _ => none
  | .segld _ _ _ => none
  | .segrd _ _ _ => none
  | .bankcfg _ _ _ _ _ => none
  | .bankConversionDone _ _ => none
  | .bankq _ _ _ => none
  | .bankjoin _ _ => none
  | .send _ _ _ => none
  | .dq _ _ _ _ => none
  | .migrate _ => none
  | .migrationArrival _ => none
  | .arrivalQueueAdmit _ => none
  | .migrationReoffer _ => none
  | .bankAccessPerformed _ _ _ => none
  | .waiterRetry _ _ => none
  | .portAccessPerformed _ _ _ => none
  | .pagerWake _ _ => none
  | .longLatencyComplete _ _ _ => none
  | .lateFault _ _ => none
  | .hwMessageDeliver _ => none
  | .scfg _ _ _ _ p => some p
  | .scfg2 _ _ _ _ p => some p
  | .srel _ _ p => some p
  | .streamElementRead _ _ _ _ => none
  | .streamElementWrite _ _ _ _ => none
  | .vadd _ _ _ _ _ => none
  | .vsub _ _ _ _ _ => none
  | .vmul _ _ _ _ _ => none
  | .vfma _ _ _ _ _ => none
  | .vmin _ _ _ _ _ => none
  | .vmax _ _ _ _ _ => none
  | .vabs _ _ _ => none
  | .vneg _ _ _ => none
  | .vcvt _ _ _ => none
  | .vsel _ _ _ _ => none
  | .vcmp _ _ _ _ _ _ => none
  | .vred _ _ _ _ => none
  | .vscan _ _ _ _ => none
  | .vdot _ _ _ _ _ => none
  | .vexp _ _ => none
  | .vlog _ _ => none
  | .vrcp _ _ => none
  | .vrsq _ _ => none
  | .vtanh _ _ => none
  | .vsigm _ _ => none
  | .vfence => none
  | .vectorBeat _ _ => none
  | .sfuResult _ => none
  | .mlease _ p => some p
  | .arrayLeaseGrant _ => none
  | .leaseTimeLimit _ => none
  | .mfree p => some p
  | .mwait p => some p
  | .mloadb _ _ _ p => some p
  | .mloadbTransferDone _ _ => none
  | .mcb _ _ p => some p
  | .mzero _ _ _ p => some p
  | .mma _ _ _ _ _ p => some p
  | .mmas _ _ _ _ _ p => some p
  | .mepi _ _ _ _ p => some p
  | .mepiWritesDone _ _ => none
  | .mprog _ p => some p
  | .mrec _ _ _ _ p => some p
  | .mocmp _ _ _ _ p => some p
  | .arrayCommandComplete _ => none
  | .arrayOperandsConsumed _ => none
  | .btld _ _ _ => none
  | .btst _ _ _ => none
  | .btand _ _ _ _ => none
  | .btor _ _ _ _ => none
  | .btxor _ _ _ _ => none
  | .btnot _ _ _ => none
  | .bttrn _ _ _ => none
  | .btcomp _ _ _ _ => none
  | .btclo _ _ _ _ => none
  | .btrc _ _ _ _ => none
  | .launch _ _ _ _ p => some p
  | .dispatchBlockPlace _ => none
  | .launchPromotion _ _ => none
  | .launchReserve _ _ => none
  | .blockComplete _ _ => none
  | .launchComplete _ _ => none
  | .start _ _ => none
  | .reap _ => none
  | .yield => none
  | .yieldWake _ _ => none
  | .exit => none
  | .bar _ _ => none
  | .spawn _ _ _ => none
  | .preempt _ => none
  | .victimRestore _ => none
  | .restoreDeadline _ => none
  | .tccTransferFail _ _ _ => none
  | .copy _ _ _ p => some p
  | .gath _ _ _ p => some p
  | .scat _ _ _ p => some p
  | .enginePostAccept _ _ _ => none
  | .enginePostStart _ => none
  | .enginePostComplete _ _ => none
  | .tblset _ _ _ p => some p
  | .tblsw _ _ _ p => some p
  | .shstat _ _ p => some p
  | .rmig _ _ _ _ p => some p
  | .rowCacheAge _ => none
  | .mcgroupLoad _ _ => none
  | .trregCreate _ _ _ _ p => some p
  | .trregRegion _ _ _ _ p => some p
  | .trregArm _ _ _ _ p => some p
  | .trregFree _ _ _ _ p => some p
  | .relaunch _ _ _ _ p => some p
  | .relaunchRunStart _ => none
  | .relaunchComplete _ => none
  | .trinfo _ _ p => some p
  | .tmodeOn _ => none
  | .tmodeOff => none
  | .tsend _ _ _ _ => none
  | .tnext _ _ => none
  | .tout _ _ => none
  | .gvtrd _ => none
  | .gvtrdW _ _ => none
  | .timedMessageAccept _ => none
  | .rollback _ => none
  | .antiMessageArrive _ => none
  | .horizonRoundStart _ => none
  | .horizonReport _ => none
  | .gvtPublish _ => none
  | .outputRelease _ => none
  | .gvtCopyUpdate _ => none
  | .trap _ => none
  | .eret _ => none
  | .eretSys _ => none
  | .eretUser _ => none
  | .sysrd _ _ => none
  | .syswr _ _ => none
  | .tswWrite _ _ _ => none
  | .tccctlWrite _ _ _ => none
  | .qosWrite _ _ _ => none
  | .snapctlWrite _ _ => none
  | .scopepolWrite _ _ => none
  | .xec _ _ => none
  | .icinv _ => none
  | .tlbinv _ => none
  | .swapctx _ _ => none
  | .swapctxOut _ _ => none
  | .swapctxIn _ _ => none
  | .snap _ => none
  | .halt _ => none
  | .brk => none
  | .debuggerStop _ _ => none
  | .asleepSample _ => none
  | .cred _ _ _ p => some p
  | .cbcast _ _ _ _ p => some p
  | .quadReassign _ _ => none
  | .quadReset _ => none
  | .engineReset _ => none
  | .clusterReset _ => none
  | .routerFailure _ => none
  | .hbmChannelOffline _ => none
  | .eccCorrected _ => none
  | .poisonSet _ => none
  | .linkTrain _ _ _ _ => none
  | .linkReplay _ => none
  | .linkRetrain _ _ => none
  | .linkDown _ => none
  | .bucketRefill _ => none
  | .lineSend _ _ => none
  | .gatingInterval _ _ => none
  | .snapshotPin => none
  | .snapshotLatch => none
  | .boot _ _ => none
  | .attestationSign _ => none
  | .mailboxOpen _ _ => none
  | .mailboxClose _ _ => none
  | .mailboxRegisterWrite _ _ _ => none
  | .reqtailWrite _ _ => none
  | .cplheadWrite _ _ => none
  | .reqLaunch _ => none
  | .reqMessage _ => none
  | .reqQuery _ => none
  | .reqCregRead _ => none
  | .reqCregWrite _ => none
  | .reqUnlistedKind _ => none
  | .mailboxCompletion _ => none
  | .quadResetDone _ => none
  | .engineResetDone _ => none

/-- A row that is a step of the hardware, not a word (spec/95_what_each_step_holds.md). -/
def Instr.isStep (i : Instr) : Bool :=
  match i with
  | .add _ _ _ => false
  | .sub _ _ _ => false
  | .and _ _ _ => false
  | .or _ _ _ => false
  | .xor _ _ _ => false
  | .sll _ _ _ => false
  | .srl _ _ _ => false
  | .sra _ _ _ => false
  | .slt _ _ _ => false
  | .sltu _ _ _ => false
  | .min _ _ _ => false
  | .max _ _ _ => false
  | .minu _ _ _ => false
  | .maxu _ _ _ => false
  | .mul _ _ _ => false
  | .mulh _ _ _ => false
  | .mulhu _ _ _ => false
  | .div _ _ _ => false
  | .divu _ _ _ => false
  | .rem _ _ _ => false
  | .remu _ _ _ => false
  | .clz _ _ => false
  | .ctz _ _ => false
  | .popc _ _ => false
  | .sel _ _ _ _ => false
  | .addi _ _ _ => false
  | .andi _ _ _ => false
  | .ori _ _ _ => false
  | .xori _ _ _ => false
  | .slti _ _ _ => false
  | .sltiu _ _ _ => false
  | .slli _ _ _ => false
  | .srli _ _ _ => false
  | .srai _ _ _ => false
  | .extr _ _ _ _ => false
  | .insr _ _ _ _ => false
  | .lui _ _ => false
  | .addpc _ _ => false
  | .beq _ _ _ => false
  | .bne _ _ _ => false
  | .blt _ _ _ => false
  | .bge _ _ _ => false
  | .bltu _ _ _ => false
  | .bgeu _ _ _ => false
  | .jal _ _ => false
  | .jalr _ _ _ => false
  | .bst _ _ => false
  | .bstN _ _ => false
  | .fadd _ _ _ _ => false
  | .fsub _ _ _ _ => false
  | .fmul _ _ _ _ => false
  | .fdiv _ _ _ _ => false
  | .fsqrt _ _ _ => false
  | .fmin _ _ _ => false
  | .fmax _ _ _ => false
  | .feq _ _ _ => false
  | .flt _ _ _ => false
  | .fle _ _ _ => false
  | .fclass _ _ => false
  | .fsgn _ _ _ _ => false
  | .fcvt _ _ _ _ => false
  | .fmvxf _ _ => false
  | .fmvfx _ _ => false
  | .fma _ _ _ _ _ => false
  | .fms _ _ _ _ _ => false
  | .fnma _ _ _ _ _ => false
  | .fnms _ _ _ _ _ => false
  | .fexp _ _ _ _ => false
  | .flog _ _ _ _ => false
  | .frcp _ _ _ _ => false
  | .frsq _ _ _ _ => false
  | .ftanh _ _ _ _ => false
  | .fsigm _ _ _ _ => false
  | .ld _ _ _ _ _ _ => false
  | .st _ _ _ _ _ _ => false
  | .ldf _ _ _ _ _ _ => false
  | .stf _ _ _ _ _ _ => false
  | .ldfe _ _ _ _ => false
  | .ldff _ _ _ _ => false
  | .stef _ _ _ _ => false
  | .stff _ _ _ _ => false
  | .sete _ _ _ _ => false
  | .setf _ _ _ _ => false
  | .amoadd _ _ _ _ _ => false
  | .amoand _ _ _ _ _ => false
  | .amoor _ _ _ _ _ => false
  | .amoxor _ _ _ _ _ => false
  | .amomin _ _ _ _ _ => false
  | .amomax _ _ _ _ _ => false
  | .amoswap _ _ _ _ _ => false
  | .cas _ _ _ _ _ => false
  | .fence _ => false
  | .segld _ _ _ => false
  | .segrd _ _ _ => false
  | .bankcfg _ _ _ _ _ => false
  | .bankConversionDone _ _ => true
  | .bankq _ _ _ => false
  | .bankjoin _ _ => false
  | .send _ _ _ => false
  | .dq _ _ _ _ => false
  | .migrate _ => false
  | .migrationArrival _ => true
  | .arrivalQueueAdmit _ => true
  | .migrationReoffer _ => true
  | .bankAccessPerformed _ _ _ => true
  | .waiterRetry _ _ => true
  | .portAccessPerformed _ _ _ => true
  | .pagerWake _ _ => true
  | .longLatencyComplete _ _ _ => true
  | .lateFault _ _ => true
  | .hwMessageDeliver _ => true
  | .scfg _ _ _ _ _ => false
  | .scfg2 _ _ _ _ _ => false
  | .srel _ _ _ => false
  | .streamElementRead _ _ _ _ => true
  | .streamElementWrite _ _ _ _ => true
  | .vadd _ _ _ _ _ => false
  | .vsub _ _ _ _ _ => false
  | .vmul _ _ _ _ _ => false
  | .vfma _ _ _ _ _ => false
  | .vmin _ _ _ _ _ => false
  | .vmax _ _ _ _ _ => false
  | .vabs _ _ _ => false
  | .vneg _ _ _ => false
  | .vcvt _ _ _ => false
  | .vsel _ _ _ _ => false
  | .vcmp _ _ _ _ _ _ => false
  | .vred _ _ _ _ => false
  | .vscan _ _ _ _ => false
  | .vdot _ _ _ _ _ => false
  | .vexp _ _ => false
  | .vlog _ _ => false
  | .vrcp _ _ => false
  | .vrsq _ _ => false
  | .vtanh _ _ => false
  | .vsigm _ _ => false
  | .vfence => false
  | .vectorBeat _ _ => true
  | .sfuResult _ => true
  | .mlease _ _ => false
  | .arrayLeaseGrant _ => true
  | .leaseTimeLimit _ => true
  | .mfree _ => false
  | .mwait _ => false
  | .mloadb _ _ _ _ => false
  | .mloadbTransferDone _ _ => true
  | .mcb _ _ _ => false
  | .mzero _ _ _ _ => false
  | .mma _ _ _ _ _ _ => false
  | .mmas _ _ _ _ _ _ => false
  | .mepi _ _ _ _ _ => false
  | .mepiWritesDone _ _ => true
  | .mprog _ _ => false
  | .mrec _ _ _ _ _ => false
  | .mocmp _ _ _ _ _ => false
  | .arrayCommandComplete _ => true
  | .arrayOperandsConsumed _ => true
  | .btld _ _ _ => false
  | .btst _ _ _ => false
  | .btand _ _ _ _ => false
  | .btor _ _ _ _ => false
  | .btxor _ _ _ _ => false
  | .btnot _ _ _ => false
  | .bttrn _ _ _ => false
  | .btcomp _ _ _ _ => false
  | .btclo _ _ _ _ => false
  | .btrc _ _ _ _ => false
  | .launch _ _ _ _ _ => false
  | .dispatchBlockPlace _ => true
  | .launchPromotion _ _ => true
  | .launchReserve _ _ => true
  | .blockComplete _ _ => true
  | .launchComplete _ _ => true
  | .start _ _ => false
  | .reap _ => false
  | .yield => false
  | .yieldWake _ _ => true
  | .exit => false
  | .bar _ _ => false
  | .spawn _ _ _ => false
  | .preempt _ => true
  | .victimRestore _ => true
  | .restoreDeadline _ => true
  | .tccTransferFail _ _ _ => true
  | .copy _ _ _ _ => false
  | .gath _ _ _ _ => false
  | .scat _ _ _ _ => false
  | .enginePostAccept _ _ _ => true
  | .enginePostStart _ => true
  | .enginePostComplete _ _ => true
  | .tblset _ _ _ _ => false
  | .tblsw _ _ _ _ => false
  | .shstat _ _ _ => false
  | .rmig _ _ _ _ _ => false
  | .rowCacheAge _ => true
  | .mcgroupLoad _ _ => true
  | .trregCreate _ _ _ _ _ => false
  | .trregRegion _ _ _ _ _ => false
  | .trregArm _ _ _ _ _ => false
  | .trregFree _ _ _ _ _ => false
  | .relaunch _ _ _ _ _ => false
  | .relaunchRunStart _ => true
  | .relaunchComplete _ => true
  | .trinfo _ _ _ => false
  | .tmodeOn _ => false
  | .tmodeOff => false
  | .tsend _ _ _ _ => false
  | .tnext _ _ => false
  | .tout _ _ => false
  | .gvtrd _ => false
  | .gvtrdW _ _ => false
  | .timedMessageAccept _ => true
  | .rollback _ => true
  | .antiMessageArrive _ => true
  | .horizonRoundStart _ => true
  | .horizonReport _ => true
  | .gvtPublish _ => true
  | .outputRelease _ => true
  | .gvtCopyUpdate _ => true
  | .trap _ => false
  | .eret _ => false
  | .eretSys _ => false
  | .eretUser _ => false
  | .sysrd _ _ => false
  | .syswr _ _ => false
  | .tswWrite _ _ _ => true
  | .tccctlWrite _ _ _ => true
  | .qosWrite _ _ _ => true
  | .snapctlWrite _ _ => true
  | .scopepolWrite _ _ => true
  | .xec _ _ => false
  | .icinv _ => false
  | .tlbinv _ => false
  | .swapctx _ _ => false
  | .swapctxOut _ _ => false
  | .swapctxIn _ _ => false
  | .snap _ => false
  | .halt _ => false
  | .brk => false
  | .debuggerStop _ _ => true
  | .asleepSample _ => true
  | .cred _ _ _ _ => false
  | .cbcast _ _ _ _ _ => false
  | .quadReassign _ _ => true
  | .quadReset _ => true
  | .engineReset _ => true
  | .clusterReset _ => true
  | .routerFailure _ => true
  | .hbmChannelOffline _ => true
  | .eccCorrected _ => true
  | .poisonSet _ => true
  | .linkTrain _ _ _ _ => true
  | .linkReplay _ => true
  | .linkRetrain _ _ => true
  | .linkDown _ => true
  | .bucketRefill _ => true
  | .lineSend _ _ => true
  | .gatingInterval _ _ => true
  | .snapshotPin => true
  | .snapshotLatch => true
  | .boot _ _ => true
  | .attestationSign _ => true
  | .mailboxOpen _ _ => true
  | .mailboxClose _ _ => true
  | .mailboxRegisterWrite _ _ _ => true
  | .reqtailWrite _ _ => true
  | .cplheadWrite _ _ => true
  | .reqLaunch _ => true
  | .reqMessage _ => true
  | .reqQuery _ => true
  | .reqCregRead _ => true
  | .reqCregWrite _ => true
  | .reqUnlistedKind _ => true
  | .mailboxCompletion _ => true
  | .quadResetDone _ => true
  | .engineResetDone _ => true

/-- The words of an instruction (R54). -/
def encode (i : Instr) : List Word32 :=
  match i.params with
  | some p => [i.word, p.w0, p.w1, p.w2, p.w3]
  | none => [i.word]

/-- How many bytes the instruction takes (R54). -/
def Instr.bytes (i : Instr) : Nat := 4 * (encode i).length

/-- Bits [31:27] all ones mark a substitution (R58). -/
def isMarker (w : Word32) : Bool := fldN w 27 5 == 31

/-- A marker whose reserved bits [26:6] are not zero (R58). -/
def badMarker (w : Word32) : Bool := isMarker w && fldN w 6 21 != 0

/-- The 32 bits that a parameter word supplies (R58). -/
def substWord (x : Reg → Word) (w : Word32) : Word32 :=
  if isMarker w then
    let v := x (fld w 0 5)
    if fldN w 5 1 = 1 then v.extractLsb' 32 32 else v.extractLsb' 0 32
  else w

/-- Every marker replaced by the bits it names (R58). -/
def Params.subst (x : Reg → Word) (p : Params) : Params :=
  ⟨substWord x p.w0, substWord x p.w1, substWord x p.w2, substWord x p.w3⟩

/-- The first invalid marker of the words, if any. -/
def Params.firstBad (p : Params) : Option Word32 := [p.w0, p.w1, p.w2, p.w3].find? badMarker

/-- The instruction with its markers replaced when it issues (R58): it is decoded again with the words so supplied. -/
def Instr.subst (x : Reg → Word) (i : Instr) : Option Instr :=
  match i.params with
  | none => some i
  | some p => decodeL i.word (p.subst x)

end Sys2Proof
end

