-- ==== Sys2Proof/Config.lean ====
section
/-!
DEFINITION. Config.lean: what an implementation fixes, and the free values of what the manual leaves open.
A free value is a constant with no body: nothing can be proved about which value it is.
-/
namespace Sys2Proof.Config

/-- What a byte of memory that nothing has written reads as (assumption 2). -/
def unwritten : Byte := 0

/-- A fresh word wherever the manual leaves a value open: applied to the counter State.free (assumption 3). -/
opaque freeWord : Nat → Word

/-- A fresh choice among doublewords or elements that may or may not have been written (R202, R259; DESIGN CHOICE,
assumption 3). -/
opaque freeBit : Nat → Bool

/-- What a device behind a root port answers to a read of a doubleword, by place and cycle (R338; DESIGN CHOICE, assumption 20). -/
opaque rootPort : Nat → Nat → Word

/-- What the participants of other packages have done to a collective instance, by instance number and cycle: not arrived in full, all
arrived, or arrived in a way that does not match (R346; DESIGN CHOICE, assumption 25). -/
opaque farArrivals : Nat → Nat → Option Bool

/-- The set of a row-cache line (R270 gives the number of ways and lines and not the index function; DESIGN CHOICE,
assumption 33). -/
opaque rowSet : Nat → Nat

/-- The compute die whose stacks hold an HBM byte (R7, R270 give no interleaving), modulo 4 (DESIGN CHOICE, assumption 33). -/
opaque hbmDie : Nat → Nat

/-- The signature of R353 over a nonce and the measurement log: SM2 with a key that never leaves the control die
(DESIGN CHOICE, assumption 45). -/
opaque signature : List Word → Word

/-- The context the boot firmware supplies to slot 15 (R312): its entry PC (DESIGN CHOICE, assumption 18). -/
opaque firmwarePc : Word

/-- Where a fault routine returns to in the service loop (R332; DESIGN CHOICE, assumption 18). -/
opaque firmwareReturn : Word

/-- The segment table the boot firmware supplies to slot 15 (R312; DESIGN CHOICE, assumption 18). -/
opaque firmwareSegs : Nat → BitVec 128

/-- COREID.PKG, which boot sets (R68): the package's index within the tenant's system (DESIGN CHOICE, assumption 4). -/
opaque packageIndex : BitVec 5

/-- Stamp of SNAP, 64 cycles after the trigger (R351; DEDUCED, assumption 30). -/
def snapDelay : Nat := 64

end Sys2Proof.Config
end

