-- ==== Sys2Proof/Machine/State.lean ====
section
/-!
DEFINITION. Machine/State.lean: everything the manual gives one GN4 package, as plain data, and the state after reset.

Units that come in large numbers (cores, clusters, virtual functions) are held in canonical association lists: an
index that is not listed stands for the unit at its reset value. Numbers of cores, quads, clusters and the like are
the package's own (spec/01_organisation.md R9, R13, R14). Fields marked MODEL are the model's own, not the manual's.
-/
namespace Sys2Proof.Machine

/-- An association list by number: strictly rising keys. -/
abbrev Assoc (α : Type) := List (Nat × α)

/-- Byte storage. Its numbers name places, not tenant addresses: the system physical map (R338), then the scratchpads
(R17), then the Anvil slices (R206); see Machine/Mem.lean. Addresses rise strictly and no entry holds `Config.unwritten`. -/
structure Memory where
  cells : List Host.Cell
  deriving DecidableEq, Repr

/-! ## What an instruction in flight holds -/

/-- What an instruction writes when it completes (R38, R59, R67). -/
structure Result where
  x : List (Reg × Word) := []
  f : List (Reg × Word) := []
  g : Option (Nat × BitVec 128) := none
  bs : Option (BitVec 3) := none
  flags : BitVec 5 := 0
  ovf : Nat := 0
  deriving DecidableEq, Repr

/-- A doubleword with its poison bit (R138). -/
structure Entry where
  d : Word
  poison : Bool := false
  deriving DecidableEq, Repr

/-- What a tenant address names once its fields have been checked (R116 to R122). Cores are package core numbers. -/
inductive Target where
  /-- no access -/
  | none
  /-- paged space: translated when the access is performed -/
  | paged (ta : Nat)
  /-- bytes of a core's scratchpad from an offset; plain says that the view needs a PLAIN bank -/
  | raw (core off : Nat)
  /-- a structured operation (R121): core, bank, KEY, operation code -/
  | structured (core bank key op : Nat)
  /-- an element of a format window (R48): view, core or cluster, striped, element, codebook -/
  | window (view unit : Nat) (striped : Bool) (elem cb : Nat)
  /-- a per-core system register, or SCOPEPOL (R117) -/
  | sysreg (core reg : Nat)
  /-- a foreign access that takes the thread to a core first (R123): core and the same address there -/
  | foreign (core : Nat) (ta : Nat)
  deriving DecidableEq, Repr

/-- Operand values read at issue (R59: later writes do not change them). -/
structure Operands where
  ea : Word := 0
  /-- bytes the access covers (R115) -/
  n : Nat := 0
  tgt : Target := .none
  /-- tenant address, for the order of overlapping accesses (R161) -/
  ta : Nat := 0
  /-- it has come to its core with its thread and is performed as a local access there (R123) -/
  here : Bool := false
  /-- the core on which the thread ran: the meaning of "local" (R117) -/
  core : Nat := 0
  /-- the segment's W and T rights, carried by a structured load (R115), TSW.SYS and TSW.TM -/
  wRight : Bool := false
  tRight : Bool := false
  sys : Bool := false
  tm : Bool := false
  a : Word := 0
  b : Word := 0
  c : Word := 0
  /-- the rounding mode and, for a codebook window, the codebook (R50) -/
  rm : BitVec 3 := 0
  cb : List (BitVec 16) := []
  mxsb : Word := 0
  /-- an instruction of two accesses: the doublewords that the first has read -/
  got : List Entry := []
  stage : Nat := 0
  /-- lines of a range read or written whole for which tokens have been paid (R335) -/
  paid : Nat := 0
  /-- segment registers as they stood at issue, for SPAWN and the posts -/
  segs : List (BitVec 128) := []
  deriving DecidableEq, Repr

/-- How far an instruction that did not finish at issue has come. -/
inductive Phase where
  /-- its access or its request has not been performed -/
  | flight
  /-- it sleeps: in a waiter table, or on the condition its entry names (R93) -/
  | asleep
  /-- it is offered again every 64 cycles, the waiter table being full (R139) -/
  | retry
  /-- held at the port for the pager (R146) -/
  | parked
  /-- held at a locked bank or a quad under reset (R134, R350) -/
  | held
  /-- handed to the SFU, the array or an engine -/
  | queued
  /-- its thread is on its way to another core, where the access is performed (R123) -/
  | leaving
  /-- an SFU request withdrawn at a trap or a swap (R198) -/
  | withdrawn
  /-- performed; its result is written when it completes -/
  | done (r : Result)
  /-- it raised a late fault (R61) -/
  | fault (code : Byte) (tval : Word)
  deriving DecidableEq, Repr

/-- An issued instruction that has not completed (R59). -/
structure Pending where
  /-- MODEL: a number of its own -/
  id : Nat
  pc : Word
  /-- issued as the XEC word (R325) -/
  xw : Bool := false
  ins : Instr
  /-- how many further instructions may issue under its cover (R59) -/
  cover : Nat
  /-- how many instructions have issued after it (CAUSE.LAD, R70) -/
  issued : Nat := 0
  /-- a memory access, which FENCE waits for (R150) -/
  mem : Bool := false
  /-- marked .rx (R62, R160) -/
  relaxed : Bool := false
  ops : Operands := {}
  phase : Phase := .flight
  /-- it was parked when it was withdrawn (R317) -/
  wasParked : Bool := false
  /-- beats still to come of a V-format instruction (R187), and its element count -/
  beats : Nat := 0
  elems : Nat := 0
  /-- streams a V-format instruction names: destination and sources (R60, R186) -/
  names : List Nat := []
  deriving DecidableEq, Repr

/-- A fault or stop that waits for the thread's pending instructions (R310 step 1). -/
structure Stop where
  code : Byte
  tval : Word
  epc : Word
  xw : Bool := false
  /-- it was asked for from outside the thread, so that a sleep or a park does not hold it up (R316, R319) -/
  asked : Bool := false
  /-- the sleeping instruction that it is for, by number; otherwise the oldest one that sleeps (R294) -/
  slept : Option Nat := none
  deriving DecidableEq, Repr

/-! ## Streams (R174 to R185) -/

/-- An element a read stream has fetched and not yet consumed (R180), or the fault it carries (R181). -/
inductive Elem where
  | ok (v : Word32)
  | bad (code : Byte) (tval : Word)
  deriving DecidableEq, Repr

structure Stream where
  configured : Bool := false
  /-- parameter word 3 (R175): CB, DIR, STR, REP, FMT -/
  mode : Word32 := 0
  base : Word := 0
  /-- MODEL: the tenant address of B, as SCFG checked it (R177) -/
  ta : Nat := 0
  /-- elements of a row (R175) -/
  count : Nat := 0
  rows : Nat := 1
  /-- element stride S in bytes, or the scale of an indexed stream, as registers hold them (signed) -/
  stride : Word := 0
  /-- row stride T, signed 32-bit -/
  rowStride : Word32 := 0
  /-- elements consumed or produced -/
  pos : Nat := 0
  /-- latched FCSR.RM, MXSB and codebook (R178) -/
  rm : BitVec 3 := 0
  mxsb : Word := 0
  codebook : List (BitVec 16) := []
  /-- an indexed stream and its index stream (R184) -/
  indexed : Bool := false
  isIndex : Bool := false
  link : Nat := 0
  /-- the fault mark of R181: cause and ea -/
  mark : Option (Byte × Word) := none
  /-- elements read and not consumed, by element number -/
  fetched : Assoc Elem := []
  /-- elements produced and not performed: element number, value, and the ea of an indexed element -/
  produced : List (Nat × Word32 × Option Word) := []
  deriving DecidableEq, Repr

/-! ## Threads (R63 to R70, R92, R93) -/

/-- Block tag (R229): which block of which launch the thread works for. Handle 0 is no block. -/
structure Tag where
  handle : BitVec 32 := 0
  block : BitVec 32 := 0
  deriving DecidableEq, Repr

/-- What a slot holds (R93). Ready, Waiting, Asleep and Parked are told apart by the fields `busy`, `pend`, `stop` and
`yieldUntil` of the thread; a thread that is swapped out is in the thread-context cache and its slot is Idle. -/
inductive TState where
  | idle
  | run
  | trapped
  deriving DecidableEq, Repr

structure Thread where
  st : TState := .idle
  /-- its thread is away on another core (R229) -/
  held : Bool := false
  pc : Word := 0
  x : Vector Word 32 := Vector.replicate 32 0
  f : Vector Word 32 := Vector.replicate 32 0
  g : Vector (BitVec 128) 8 := Vector.replicate 8 0
  streams : Vector Stream 8 := Vector.replicate 8 {}
  /-- TSW fields (R66); VB is computed from `pend` -/
  bs : BitVec 3 := 0
  sys : Bool := false
  tm : Bool := false
  mig : Bool := false
  fcsr : Word := 0
  ovfc : Word := 0
  mxsb : Word := 0
  live : Word := 0xFFFF_FFFF_FFFF_FFFE
  cbk : Vector Word 16 := Vector.replicate 16 0
  /-- EPC, CAUSE and TVAL of the slot (R70): they stay with the slot when its thread leaves or ends -/
  epc : Word := 0
  cause : Word := 0
  tval : Word := 0
  /-- XW, with XB when present (R324, R325) -/
  xw : Option Word32 := none
  /-- HALT has returned its trap (R311) -/
  returned : Bool := false
  tag : Tag := {}
  /-- gang member (R229) -/
  member : Bool := false
  /-- home core and slot (R123, R229) -/
  home : Nat := 0
  homeSlot : Nat := 0
  /-- x1 to x5 as slot 0 received them at block start (R236) -/
  args : Vector Word 5 := Vector.replicate 5 0
  /-- trace object armed for the next traced LAUNCH (R278) -/
  armed : Option Nat := none
  /-- cycle from which it may issue again (R97) -/
  busy : Nat := 0
  /-- cycle from which it is in rotation again (R93) -/
  back : Nat := 0
  /-- the FENCE, CRED or CBCAST that has issued, passed the check of its scope and waits (R163, R346) -/
  passed : Option Instr := none
  /-- issued instructions that have not completed, oldest first -/
  pend : List Pending := []
  /-- a fault or stop waiting for `pend` (R310) -/
  stop : Option Stop := none
  /-- stops asked for while another fault or stop waits: cause and TVAL (R319) -/
  later : List (Byte × Word) := []
  /-- cycle at which a yielded thread re-enters rotation (R247) -/
  yieldUntil : Option Nat := none
  /-- its trap has been reported to the control die (R332, R358) -/
  told : Bool := false
  /-- its fetch waits for the pager: the tenant address (R98, R146) -/
  fetchPark : Option Nat := none
  /-- restored with its gang, which is not yet whole (R253) -/
  frozen : Bool := false
  /-- MODEL: the array commands it has issued, by number (R210) -/
  arrayIds : List Nat := []
  deriving DecidableEq, Repr

/-! ## Banks, inbox, messages (R127 to R140) -/

/-- Contents by personality (R127, R128). -/
inductive Pers where
  | plain
  /-- oldest first -/
  | fifo (l : List Entry)
  /-- top first -/
  | stack (l : List Entry)
  /-- insertion rank and datum, in rank order -/
  | heap (l : List (Nat × Entry))
  /-- key and value, in ascending key order -/
  | map (l : List (Nat × Entry))
  /-- one entry per bin -/
  | hist (l : List Entry)
  deriving DecidableEq, Repr

/-- Names a pending instruction: core, slot, id. -/
structure Ref where
  core : Nat
  slot : Nat
  id : Nat
  deriving DecidableEq, Repr

structure Bank where
  pers : Pers := .plain
  cap : Nat := 0
  /-- MODEL: next insertion rank of a HEAP, and the number of the bank's last configuration, 0 before the first (R293) -/
  rank : Nat := 0
  conf : Nat := 0
  /-- number of the group it belongs to (R131) -/
  group : Option Nat := none
  /-- the waiter table, oldest first, at most 64 (R139) -/
  waiters : List Ref := []
  /-- sleepers the table could not hold, in the order they found it full (R139) -/
  retriers : List Ref := []
  /-- locked by a BANKCFG (R134), with the accesses held meanwhile in arrival order -/
  locked : Option Ref := none
  held : List Ref := []
  deriving DecidableEq, Repr

/-- A 32-byte message with the poison bits of its doublewords (R140). -/
structure Msg where
  d0 : Entry
  d1 : Entry
  d2 : Entry
  d3 : Entry
  deriving DecidableEq, Repr

/-- A group of banks (R131, R132). Members in index order: core and bank. For FIFO and STACK the sequence is held
here, on the ring of the members' entry places that starts at place `start`. HEAP, MAP and HIST members keep their own. -/
structure Group where
  members : List (Nat × Nat)
  seq : List Entry := []
  start : Nat := 0
  rank : Nat := 0
  deriving DecidableEq, Repr

/-- A bit tile: rows 0 to 479; a row that is not listed is 0 (R222). -/
structure Tile where
  rows : List (BitVec 480) := []
  poison : Bool := false
  deriving DecidableEq, Repr

/-! ## Virtual time (R285 to R309) -/

/-- A message key: VRT and sequence (R286). -/
structure Key where
  vrt : Word
  seq : BitVec 32
  deriving DecidableEq, Repr

/-- An entry of the timed inbox (R291). -/
structure TMsg where
  key : Key
  payload : Msg
  /-- taken by TNEXT and retained -/
  taken : Bool := false
  deriving DecidableEq, Repr

/-- The inverse of a structured operation on a bank (R293). -/
inductive BankUndo where
  /-- remove the newest entry of a FIFO, or put back its oldest -/
  | fifoDropNewest
  | fifoPutOldest (e : Entry)
  /-- remove the top of a STACK, or put one back; the far end for a steal -/
  | stackDropTop
  | stackPutTop (e : Entry)
  | stackPutFar (e : Entry)
  | stackDropFar
  /-- remove the HEAP entry of a rank, or put one back with its rank -/
  | heapRemove (rank : Nat)
  | heapReinsert (rank : Nat) (e : Entry)
  /-- restore what a MAP held at a key -/
  | mapRestore (key : Nat) (old : Option Entry)
  /-- subtract from a HIST bin, or put its old entry back -/
  | histSub (bin : Nat) (v : Word)
  | histPut (bin : Nat) (e : Entry)
  deriving DecidableEq, Repr

/-- How a logged action is undone (R292, R293). -/
inductive Undo where
  /-- tenant address of a doubleword and its place at the time, its old value, full/empty bit (true is full) and poison bit -/
  | word (ta loc : Nat) (old : Word) (full poison : Bool)
  /-- a register of a core that a store of the system kind changed (R117): core, number, old value -/
  | sysreg (core reg : Nat) (old : Word)
  /-- a structured operation on a bank: core, bank, the bank's configuration number at the time, the inverse -/
  | bank (core bank conf : Nat) (op : BankUndo)
  | send (target : Nat) (key : Key)
  | out (ta : Word) (v : Word)
  deriving DecidableEq, Repr

/-- An entry of the save log: the current key it was made under. -/
structure LogEntry where
  key : Key
  undo : Undo
  /-- what the same action changed beside: the second doubleword of ST.Q, the scale byte's doubleword (R292) -/
  also : List Undo := []
  deriving DecidableEq, Repr

/-- An entry of the output queue (R302). -/
structure OutEntry where
  key : Key
  ta : Word
  v : Word
  sys : Bool := false
  deriving DecidableEq, Repr

/-- Messages between cores that are on their way: positives and anti-messages of virtual time (R291, R296). -/
structure Timed where
  src : Nat
  /-- the core; of an anti-message for another package that waits at its port, 65,536 + its target (R296, R335) -/
  dst : Nat
  key : Key
  anti : Bool
  payload : Msg
  colour : Bool
  /-- the virtual function that sent it (R334) -/
  vf : Nat := 0
  /-- the TSEND that waits for the answer -/
  ref : Option Ref := none
  deriving DecidableEq, Repr

/-- What a core holds while virtual time is enabled on it (R288). -/
structure VTime where
  restart : Word
  /-- the key set by TMODE.on -/
  base : Key
  cur : Key
  log : List LogEntry := []
  inbox : List TMsg := []
  out : List OutEntry := []
  /-- least key of the stragglers that wait for the boundary (R295), and whether that key itself is undone (R297) -/
  straggler : Option (Key × Bool) := none
  /-- anti-messages waiting for that rollback -/
  antis : List Timed := []
  /-- publications since the timed thread fell asleep for a full log that freed no entry (R294) -/
  starved : Nat := 0
  deriving DecidableEq, Repr

/-! ## Cores -/

/-- A request in the SFU queue (R197): the pending instruction, its element count, the cycle its first element begins. -/
structure SfuReq where
  slot : Nat
  id : Nat
  n : Nat
  begins : Nat
  deriving DecidableEq, Repr

/-- A saved context (R317, R318). STATE and WACC are held as the thread's state and its withdrawn instructions. -/
structure Ctx where
  th : Thread
  slot : Nat
  deriving DecidableEq, Repr

/-- A thread that is leaving its slot for another core (R123): it stays in its slot, out of rotation, until accepted. -/
structure Move where
  src : Nat
  slot : Nat
  dst : Nat
  deriving DecidableEq, Repr

/-- A thread that waits in an arrival queue (R124), and the core and slot it left. -/
structure Packet where
  th : Thread
  src : Nat
  slot : Nat
  deriving DecidableEq, Repr

/-- A dispatcher request to slot 15 (R252, R311): KIND 1 save or 2 restore, slot, entry; and whether its fill has failed (R255). -/
structure SvcReq where
  kind : Nat
  slot : Nat
  entry : Nat
  failed : Bool := false
  deriving DecidableEq, Repr

/-- A fault routine registered with the firmware (R332). -/
structure Routine where
  tag : Tag
  pc : Word
  segs : Vector (BitVec 128) 8
  deriving DecidableEq, Repr

/-- What a core latches at a snapshot (R351). -/
structure CoreSnap where
  stamp : Nat
  states : List Nat
  pcs : List Word
  tsws : List Word
  wheel : Nat
  lend : Nat
  /-- tenant addresses of the accesses in the port queues -/
  queued : List Nat
  deriving DecidableEq, Repr

/-- A line of an instruction cache (R98, R326): 128 bytes of code by virtual function and tenant address, and whether its page
had P. -/
structure Line where
  vf : Nat
  ta : Nat
  priv : Bool
  data : List Entry
  deriving DecidableEq, Repr

/-- An entry of a memory port's translation cache (R143): the page's number and the shift of its size, and its leaf. -/
structure Tlb where
  vf : Nat
  page : Nat
  shift : Nat
  leaf : Word
  deriving DecidableEq, Repr

structure Core where
  slots : Vector Thread 16 := Vector.replicate 16 {}
  /-- the lending pointer (R95) -/
  lend : BitVec 4 := 15
  /-- banks 0 to 14; bank 15 is `inbox` -/
  banks : Vector Bank 16 := Vector.replicate 16 {}
  inbox : List Msg := []
  /-- threads asleep in DQ.W, oldest first (R155) -/
  dqWaiters : List Ref := []
  /-- hardware messages held by their sources (R140) -/
  hwHeld : List Msg := []
  depc : Word := 0
  dcause : Word := 0
  /-- stopped by a double trap (R313) -/
  stopped : Bool := false
  tccBase : Word := 0
  tccCtl : Word := 0
  tccErr : Word := 0
  /-- the thread-context cache by entry (R254), and the resident entries, least recently used first -/
  tcc : Assoc Ctx := []
  resident : List Nat := []
  /-- lines paid for of a write-back (2e + 1) or a fill (2e) of entry e that is under way (R335) -/
  backPaid : Assoc Nat := []
  /-- SNAPCTL EN, PIN, FROZEN and STAMP (R351) -/
  snapCtl : Word := 0
  snap : Option CoreSnap := none
  qhbm : Word := 0xFFFF_FFFF_FFFF_FFFF
  qnet : Word := 0xFFFF_FFFF_FFFF_FFFF
  qwgt : Word := 0x0000_0000_0000_0101
  /-- QHBM and QNET as the last refill found them: a write takes effect at the next (R337) -/
  qhbmNow : Word := 0xFFFF_FFFF_FFFF_FFFF
  qnetNow : Word := 0xFFFF_FFFF_FFFF_FFFF
  /-- tokens of the HBM and the network bucket (R335, R336) -/
  hbmTok : Nat := 0
  netTok : Nat := 0
  sfu : List SfuReq := []
  tiles : Vector Tile 8 := Vector.replicate 8 {}
  /-- the arrival queue (R124) -/
  arrivals : List Packet := []
  /-- refused packets the core offers again (R124) -/
  offers : List Move := []
  /-- dispatcher requests, oldest first (R311) -/
  svc : List SvcReq := []
  /-- ENTRY of the dispatcher request HALT last returned, by slot (R328) -/
  svcLast : List (Nat × Nat) := []
  routines : List Routine := []
  /-- the firmware's service loop is resident in slot 15 (R312, R358), and the slot whose fault routine it is running (R332) -/
  firmware : Bool := false
  serving : Option Nat := none
  /-- LVT, the core's copy of GVT and the send counter (R286, R287) -/
  lvt : Word := 0
  gvtCopy : Word := 0
  sendCount : BitVec 32 := 0
  vt : Option VTime := none
  /-- the network port's counts of unresolved timed messages by colour, and the least VRT sent in the current colour (R298) -/
  count0 : Int := 0
  count1 : Int := 0
  leastSent : Word := 0xFFFF_FFFF_FFFF_FFFF
  /-- the port's colour bit (R298) -/
  colour : Bool := false
  /-- instruction cache, oldest line first -/
  icache : List Line := []
  deriving DecidableEq, Repr

/-! ## Clusters: array, engine, gangs, groups -/

/-- An accumulator: rows of elements; what is not listed is +0 (R200). -/
abbrev Acc := List (List Word32)

/-- A stream element as the array has read it: stored bits and scale byte, or the fault it carries (R170, R181). -/
inductive ARead where
  | ok (raw scale : Nat)
  | bad (code : Byte) (tval : Word)
  deriving DecidableEq, Repr

/-- A counted command in the array's queue (R204). -/
structure Cmd where
  lease : Nat
  ref : Ref
  ins : Instr
  ops : Operands
  seq : Nat
  vf : Nat
  tag : Tag
  /-- the elements of its first and second stream that have been read; of a command that reads or writes a range in memory, the
  doublewords that it has performed -/
  av : Assoc ARead := []
  bv : Assoc ARead := []
  /-- all of them have been read, and the operands-consumed message posted if asked for -/
  consumed : Bool := false
  deriving DecidableEq, Repr

/-- The lease (R199 to R203). -/
structure Lease where
  /-- MODEL: a number of its own -/
  num : Nat
  core : Nat
  slot : Nat
  vf : Nat
  n : Nat
  issued : Nat := 0
  completed : Nat := 0
  /-- ungated cycle of the grant -/
  at_ : Nat := 0
  acc : Vector Acc 4 := Vector.replicate 4 []
  cba : List (BitVec 16) := []
  cbb : List (BitVec 16) := []
  prog : List Word32 := [0x42, 0x4E0, 0xF, 0xF]
  /-- its thread was stopped by R243: it ends once every counted command has completed (R201) -/
  orphan : Bool := false
  /-- MODEL: that thread as it was, for the streams that its commands still read -/
  ghost : Option Thread := none
  deriving DecidableEq, Repr

structure LeaseReq where
  ref : Ref
  vf : Nat
  n : Nat
  deriving DecidableEq, Repr

/-- An MLOADB or MEPI that runs on after its instruction has completed (R204). -/
structure Xfer where
  id : Nat
  lease : Nat
  ins : Instr
  ops : Operands
  core : Nat
  slot : Nat
  vf : Nat
  tag : Tag
  seq : Nat
  /-- MEPI: its rows, and by number the doublewords of its bias that have been read, while others are to come (R217) -/
  rows : List (List Word32) := []
  bias : Option (Assoc Word) := none
  /-- MEPI: what it writes, by doubleword: 4-byte words with their offsets from its destination; a fault of its bias; its
  saturation events -/
  img : List (List (Nat × Nat)) := []
  status : Option (Byte × Word) := none
  events : Nat := 0
  /-- moves already performed -/
  moved : List Nat := []
  deriving DecidableEq, Repr

/-- A table descriptor as a GATH or SCAT latches it (R272). `old` holds the forwarding entries of a version that TBLSW has
replaced since. -/
structure Latched where
  num : Nat
  base : Nat
  shStride : Nat
  rowBytes : Nat
  rows : Nat
  shards : Nat
  old : Option (Assoc Nat) := none
  deriving DecidableEq, Repr

/-- An update that a SCAT has deferred (R274): its entry, the number of its arrival, and whether it has been applied or has failed. -/
structure Deferred where
  entry : Nat
  num : Nat
  fin : Bool := false
  deriving DecidableEq, Repr

/-- An accepted post of an engine (R257). Addresses were checked with the segments of `ops.segs` at issue. -/
structure Post where
  id : Nat
  ins : Instr
  ops : Operands
  core : Nat
  slot : Nat
  vf : Nat
  tag : Tag
  table : Option Latched := none
  /-- receiving clusters of a multicast (R261) -/
  clusters : Option Word32 := none
  /-- the row of each entry, once the index tile has been read and checked (R265) -/
  rows : Option (List Nat) := none
  /-- entries that have begun, and the place of the row each uses (R275) -/
  places : Assoc Nat := []
  /-- doubleword moves already performed -/
  moved : List Nat := []
  /-- moves of which the line that is read has been paid for, and that which is written has not (R335) -/
  paidRead : List Nat := []
  /-- the first failure, and whether it stopped the post (R259) -/
  status : Option (Nat × Word) := none
  stopped : Bool := false
  /-- RMIG: its forwarding entry is set (R274 step 4) -/
  forwarded : Bool := false
  /-- SCAT: its updates that the directory holds (R274, R275) -/
  holds : List Deferred := []
  deriving DecidableEq, Repr

/-- A barrier (R249): its count and the threads that have arrived. -/
structure Barrier where
  count : Nat
  arrived : List Ref
  deriving DecidableEq, Repr

/-- A started gang (R227, R229). -/
structure Gang where
  handle : BitVec 32
  block : BitVec 32
  quads : List Nat
  bars : Assoc Barrier := []
  /-- cores whose slot 0 has given up its part (R241) -/
  gone : List Nat := []
  /-- start cycle -/
  started : Nat := 0
  /-- level at start, NOPRE and BANKS of its launch -/
  nopre : Bool := false
  banks : BitVec 13 := 0
  /-- members being swapped out for a launch (R252): core, slot and entry, and the handle of that launch -/
  saving : Option (List (Nat × Nat × Nat) × BitVec 32) := none
  /-- the gang is out (R252): its saved members, and the ungated cycle the swap-out ended -/
  out : Option (List (Nat × Nat × Nat) × Nat) := none
  /-- the launch whose block is to be placed on the gang's quads -/
  claim : Option (BitVec 32) := none
  /-- members being restored (R253) -/
  restoring : Option (List (Nat × Nat × Nat)) := none
  deriving DecidableEq, Repr

structure Cluster where
  lease : Option Lease := none
  leaseQ : List LeaseReq := []
  /-- round robin of the array: virtual function of the turn and grants left in it (R199) -/
  turnVf : Nat := 0
  turnLeft : Nat := 0
  cmds : List Cmd := []
  xfers : List Xfer := []
  /-- owner of operand-B band m (R207) -/
  bands : Assoc Nat := []
  engineQ : List Post := []
  engineRun : List Post := []
  engVf : Nat := 0
  engLeft : Nat := 0
  gangs : List Gang := []
  groups : Assoc Group := []
  /-- quads in reset (R350) and the accesses held meanwhile -/
  resetting : List Nat := []
  heldAcc : List Ref := []
  /-- of those, the quads that are being reassigned, with their next virtual function (R334) -/
  reassigning : Assoc Nat := []
  /-- an engine reset is under way (R350) -/
  engineReset : Bool := false
  /-- MODEL: the cycle of the last refill of the cluster's buckets (R336) -/
  refilled : Nat := 0
  /-- out of service until the next boot (R355) -/
  out : Bool := false
  /-- translation cache of the cluster's memory port, oldest entry first, at most 4,096 (R143) -/
  tlb : List Tlb := []
  deriving DecidableEq, Repr

/-! ## Dispatchers, traces, tables -/

/-- Where a launch's completion goes (R232, R342). -/
inductive Inbox where
  | core (c : Nat)
  | mailbox (fn : Nat) (tag : BitVec 16)
  | relaunch (c : Nat)
  deriving DecidableEq, Repr

/-- An entry of a dispatcher's launch table (R231, R232). -/
structure Launch where
  handle : BitVec 32
  vf : Nat
  segs : Vector (BitVec 128) 8
  p : Params
  arg : Word
  inbox : Inbox
  level : Nat
  /-- MODEL: order of entering its level -/
  entered : Nat
  /-- ungated cycle of the last start, promotion or entry (R234) -/
  since : Nat
  /-- blocks still to start, in index order (a RELAUNCH names some of them) -/
  next : Nat := 0
  only : Option (List Nat) := none
  started : Nat := 0
  done : Nat := 0
  abandoned : Nat := 0
  status : Word32 := 0
  /-- it runs no block and completes with `status` (R235, R279) -/
  dead : Bool := false
  /-- the STATUS of the launch that its W3 names, once that has completed while this waited (R238) -/
  depSt : Option Word32 := none
  /-- a pre-emption for it failed: it waits as if no candidate existed (R255) -/
  spared : Bool := false
  reserve : Option Nat := none
  trace : Option Nat := none
  deriving DecidableEq, Repr

structure Die where
  launches : Assoc Launch := []
  /-- generation last used by each table entry (R231) -/
  gens : Assoc Nat := []
  /-- the launch that each entry held last: handle, STATUS, virtual function (R238) -/
  past : Assoc (BitVec 32 × Word32 × Nat) := []
  /-- lookups of the row cache, and its lines: set, way, line, use counter (R270) -/
  lookups : Nat := 0
  lines : List (Nat × Nat × Nat × Nat) := []
  deriving DecidableEq, Repr

/-- A table of the directory (R268, R273, R274). -/
structure Table where
  base : Nat
  shStride : Nat
  rowBytes : Nat
  rows : Nat
  shards : Nat
  version : Word32
  /-- counters by 3 × shard + kind -/
  counters : Assoc Word := []
  /-- forwarding entries: row and current place -/
  fwd : Assoc Nat := []
  /-- rows being moved: row, the RMIG's post id, new place (R274) -/
  moving : List (Nat × Nat × Nat) := []
  /-- rows of which SCAT updates are held (R274 steps 1 to 5) -/
  held : List Nat := []
  deriving DecidableEq, Repr

/-- The record of one block (R280). Ranges are (first tile, count). -/
structure BlockRec where
  valid : Bool := false
  all : Bool := false
  unstable : Bool := false
  /-- the read or the write set has been dropped for a 65th range -/
  rOut : Bool := false
  wOut : Bool := false
  s : Nat := 0
  e : Nat := 0
  reads : List (Nat × Nat) := []
  writes : List (Nat × Nat) := []
  handle : BitVec 32 := 0
  deriving DecidableEq, Repr

/-- What a trace object keeps of the launch bound to it (R279), and the die that recorded the launch. -/
structure Bound where
  p : Params
  arg : Word
  segs : Vector (BitVec 128) 8
  die : Nat
  deriving DecidableEq, Repr

/-- A RELAUNCH that has been accepted (R282): the core of its poster, the handle of the run (0 while it is a pending
request), its patch and offset; and, once it has decided at V, how many blocks it re-runs and retains. -/
structure Run where
  core : Nat
  vf : Nat
  sys : Bool
  handle : BitVec 32 := 0
  patch : List Entry := []
  off : Nat := 0
  decided : Bool := false
  rerun : Nat := 0
  kept : Nat := 0
  /-- its poster's quad has been reset: it posts no message (R259) -/
  silent : Bool := false
  /-- the block of its poster (R241) -/
  tag : Tag := {}
  /-- lines of the patch paid for (R335) -/
  paid : Nat := 0
  deriving DecidableEq, Repr

/-- A trace object (R277). -/
structure Trace where
  vf : Nat
  cap : Nat
  running : Bool := false
  bound : Option Bound := none
  recs : Assoc BlockRec := []
  /-- the run under way, and the pending request (R282) -/
  run : Option Run := none
  queued : Option Run := none
  deriving DecidableEq, Repr

/-- A collective instance (R346). -/
structure Collective where
  vf : Nat
  inst : Nat
  scope : Nat
  dom : Nat
  n : Nat
  ctl : Word32
  bcast : Bool
  arrived : List (Ref × Word)
  deriving DecidableEq, Repr

/-! ## Control die, virtual functions, links -/

/-- A report to the control die (R313, R316, R358). -/
structure Report where
  core : Nat
  slot : Nat
  cause : Word
  epc : Word
  tval : Word
  deriving DecidableEq, Repr

/-- A request or completion of a mailbox, as doublewords (R342, R343). -/
abbrev MbEntry := List Word

/-- The mailbox of a function (R340 to R343). Function 0 is the physical function, n + 1 is virtual function n. -/
structure Mailbox where
  version : BitVec 16 := 0
  mbopen : Word := 0
  reqBase : Word := 0
  cplBase : Word := 0
  reqTail : BitVec 8 := 0
  reqHead : BitVec 8 := 0
  cplHead : BitVec 8 := 0
  cplTail : BitVec 8 := 0
  opened : Bool := false
  down : Bool := false
  badrq : Bool := false
  /-- completions that wait for room or for the mailbox to open, oldest first -/
  waiting : List MbEntry := []
  /-- MSI-X messages sent -/
  msix : Nat := 0
  /-- messages for full inboxes: target, message, TAG (R342) -/
  held : List (Nat × Msg × BitVec 16) := []
  deriving DecidableEq, Repr

structure VF where
  scopepol : Word := 0
  /-- root of the page tables: PA of the level-1 table (R143); none before the control die sets it -/
  root : Option Nat := none
  /-- block records it may hold (R277) and fault routines enabled (R332) -/
  quota : Nat := 0
  routines : Bool := false
  /-- its QoS settings, which a reassignment writes to the cores of a quad (R333, R337; DESIGN CHOICE, assumption 4) -/
  qhbm : Word := 0xFFFF_FFFF_FFFF_FFFF
  qnet : Word := 0xFFFF_FFFF_FFFF_FFFF
  qwgt : Word := 0x0000_0000_0000_0101
  /-- Horizon (R299): the published value and the one before it, whether a round is under way, the cycle the last one began,
  the colour of the ports -/
  gvt : Word := 0
  gvtPrev : Word := 0
  roundAt : Nat := 0
  round : Bool := false
  colour : Bool := false
  roundResult : Option Word := none
  /-- all-asleep detector (R315): the AND held at the last sample and since; ASLEEP raised since it began -/
  asleepHeld : Bool := false
  asleepRaised : Bool := false
  /-- MODEL: the cycle of the last sample -/
  sampledAt : Option Nat := none
  regions : Assoc (Nat × Nat) := []
  deriving DecidableEq, Repr

/-- A Turwell link (R344). -/
structure Link where
  up : Bool := false
  version : BitVec 16 := 0
  /-- cycles of the replays of the last 2^20 cycles, and failed retrains in a row -/
  replays : List Nat := []
  failed : Nat := 0
  /-- it has lost its lanes, or replayed too often, and retrains -/
  training : Bool := false
  deriving DecidableEq, Repr

/-- An entry of the boot record (R353). -/
abbrev BootEntry := BitVec 16

/-- Classes of errors that are not corrected (R349). -/
inductive ErrClass where
  | data | core | engine | cluster | router | link | channel
  deriving DecidableEq, Repr

/-- MODEL: what happens next where the manual leaves the order to the outside world or to timing. -/
inductive Pick where
  /-- a step of the hardware or an input -/
  | step (i : Instr)
  /-- let the wheel turn: the next core issues, before anything that is in flight goes on -/
  | wheel
  /-- one doubleword move of an engine post or array transfer, in any order (R169, R259): cluster, id, move -/
  | move (cluster id k : Nat)
  /-- the firmware's service loop serves one service of the core (R358) -/
  | firmware (core : Nat)
  /-- an order of the party that a report was passed to (R358): resume the thread, after XEC of a word if one is given -/
  | direct (core slot : Nat) (word : Option Word32)
  /-- the control die sets a virtual function up (R143, R277, R332, R333): root, quota, routines -/
  | control (vf root quota : Nat) (routines : Bool)
  /-- the control die keeps QoS settings for a virtual function (R333) -/
  | qos (vf : Nat) (hbm net wgt : Word)
  /-- the control die's firmware sets an application core going at a PC with a segment table; an application core takes its next
  instruction (R7) -/
  | appStart (n : Nat) (pc : Word) (g : Vector (BitVec 128) 8)
  | app (n : Nat)
  /-- the host, or the control die as pager, writes a doubleword of HBM or host memory -/
  | outside (pa : Nat) (v : Word)
  /-- a core's instruction cache takes the line of a tenant address, or loses a line (R98, R326) -/
  | fillLine (core ta : Nat)
  | dropLine (core n : Nat)
  /-- a memory port's translation cache takes the entry of a page, or loses an entry (R143) -/
  | fillTlb (cluster vf ta : Nat)
  | dropTlb (cluster n : Nat)
  /-- the flip of a round reaches a core's network port (R299) -/
  | flip (core : Nat)
  /-- a host store that the endpoint has accepted reaches the host (R172): its place in the list -/
  | post (n : Nat)
  deriving DecidableEq, Repr

/-- A store that the endpoint has accepted and that has not reached the host (R172): the thread it is of, its place, and the bytes. -/
structure Posted where
  home : Nat
  slot : Nat
  pa : Nat
  n : Nat
  v : Nat
  /-- the block of the thread (R229, R240) -/
  tag : Tag := {}
  deriving DecidableEq, Repr

/-! ## The package -/

structure State where
  /-- the package cycle counter (R23) -/
  cycle : Nat
  /-- cycles that were not gated (R354) -/
  ungated : Nat
  /-- MODEL: cores below this number have had their turn in this cycle -/
  turn : Nat
  /-- MODEL: the core and slot that is executing -/
  curCore : Nat
  curSlot : Nat
  /-- MODEL: what the outside world and timing choose next -/
  schedule : List Pick
  /-- MODEL: counter of free values -/
  free : Nat
  /-- MODEL: next number of a pending instruction, post or launch order -/
  nextId : Nat
  mem : Memory
  /-- places of the scratchpad doublewords whose full/empty bit is empty (R136) -/
  empties : List Nat
  /-- places of the poisoned doublewords (R138) -/
  poisons : List Nat
  cores : Assoc Core
  clusters : Assoc Cluster
  dies : Assoc Die
  vfs : Assoc VF
  /-- owner of each quad; a quad not listed belongs to virtual function 0 (R333) -/
  quads : Assoc Nat
  /-- package index within the tenant's system (R68) -/
  pkg : BitVec 5
  /-- migration packets and timed messages on their way -/
  packets : List Move
  timed : List Timed
  /-- messages, spawns and timed messages that have left for other packages: COREID and contents -/
  sent : List (Word × Msg)
  tables : List (Nat × Nat × Table)
  traces : Assoc Trace
  /-- host stores that have not reached the host, in order of acceptance (R172) -/
  posted : List Posted
  /-- stamps of tracked tiles: physical tile, cycle, writer tag (R276) -/
  stamps : Assoc (Nat × Word32)
  collectives : List Collective
  /-- multicast group entries (R261) -/
  mcgroups : Assoc Word
  mailboxes : Assoc Mailbox
  links : Assoc Link
  /-- the package that each Turwell link leads to; the manual gives no wiring (R7, R344; DESIGN CHOICE, assumption 49) -/
  wiring : Assoc Nat
  /-- the fuse record: for each die the physical clusters that it names as disabled; none when it cannot be read (R8, R10;
  DESIGN CHOICE, assumption 50) -/
  fuses : Option (List (List Nat))
  /-- errors that were not corrected, as logged to the control die: class and unit (R349) -/
  errors : List (ErrClass × Nat)
  reports : List Report
  pwrlim : Word
  pwrstat : Word
  /-- gated rotations out of each 16, as the controller chose for its last five intervals of 1,024 cycles, newest first (R354) -/
  gates : List Nat
  /-- MODEL: the cycle of the last choice -/
  gatedAt : Nat
  /-- the stamp at which the common snapshot trigger latches, and whether only the pin raised it (R351) -/
  snapAt : Option Nat
  snapPin : Bool
  bootPrev : List BootEntry
  bootNow : List BootEntry
  booted : Bool
  measured : List Word
  signed : List Word
  /-- corrected errors counted by block (R349) -/
  corrected : Assoc Nat
  deriving DecidableEq, Repr

/-- Why the machine stops: it never does. A fault of a thread is a trap, which is a next state (R310), and no rule of the
manual stops the package, so the type has no constructor. Safe. -/
inductive Fault where
  deriving DecidableEq, Repr

/-- Why an instruction has no meaning in the model. -/
inductive Refusal where
  /-- raised by an arm of exec that has no meaning yet. Safe. -/
  | notModelled (mnemonic : String)
  deriving DecidableEq, Repr

/-- The package right after reset, before the control die boots it (R352): every quad belongs to virtual function 0,
every slot is Idle, every register holds its reset value, memory lists nothing. -/
def State.reset : State where
  cycle := 0
  ungated := 0
  turn := 0
  curCore := 0
  curSlot := 0
  schedule := []
  free := 0
  nextId := 1
  mem := ⟨[]⟩
  empties := []
  poisons := []
  cores := []
  clusters := []
  dies := []
  vfs := []
  quads := []
  pkg := 0
  packets := []
  timed := []
  sent := []
  tables := []
  traces := []
  posted := []
  stamps := []
  collectives := []
  mcgroups := []
  mailboxes := []
  links := []
  wiring := []
  fuses := some [[8], [8], [8], [8]]
  errors := []
  reports := []
  pwrlim := 0x0000_1D4C_0000_0E10
  pwrstat := 0
  gates := []
  gatedAt := 0
  snapAt := none
  snapPin := false
  bootPrev := List.replicate 8 0
  bootNow := List.replicate 8 0
  booted := false
  measured := []
  signed := []
  corrected := []

end Sys2Proof.Machine
end

