-- ==== Sys2Proof/Machine/Mem.lean ====
section
/-!
DEFINITION. Machine/Mem.lean: lists by number, the byte memory in its canonical form, and the full/empty and poison bits.

Places in memory are plain numbers: below 2^56 the system physical map (R338), from 2^56 the scratchpads
(2^56 + core × 2^19 + raw offset, R17), from 2^57 the operand-B space of the Anvils (R206).
-/
namespace Sys2Proof.Machine

/-! ## Lists by number -/

/-- What a list holds under a number. -/
def alook {α : Type} : Assoc α → Nat → Option α
  | [], _ => none
  | (k, v) :: r, a => if k = a then some v else alook r a

/-- Put a value under a number, keeping the list sorted. -/
def aset {α : Type} : Assoc α → Nat → α → Assoc α
  | [], a, v => [(a, v)]
  | (k, w) :: r, a, v =>
    if k = a then (a, v) :: r
    else if a < k then (a, v) :: (k, w) :: r
    else (k, w) :: aset r a v

/-- Take a number out of a list. -/
def adel {α : Type} (l : Assoc α) (a : Nat) : Assoc α := l.filter (fun p => p.1 != a)

/-! ## Bytes -/

/-- Byte at a place; a place that is not listed holds `Config.unwritten`. -/
def cellGet : List Host.Cell → Nat → Byte
  | [], _ => Config.unwritten
  | (k, v) :: r, a => if k = a then v else cellGet r a

/-- List a byte that is not `Config.unwritten`. -/
def cellPut : List Host.Cell → Nat → Byte → List Host.Cell
  | [], a, v => [(a, v)]
  | (k, w) :: r, a, v =>
    if k = a then (a, v) :: r
    else if a < k then (a, v) :: (k, w) :: r
    else (k, w) :: cellPut r a v

/-- Write a byte, keeping the canonical form: writing what an unlisted place reads as removes the entry. -/
def cellWrite (l : List Host.Cell) (a : Nat) (v : Byte) : List Host.Cell :=
  if v = Config.unwritten then l.filter (fun p => p.1 != a) else cellPut l a v

/-- Places strictly rising from `lo`, and no entry that an unlisted place would read as. -/
def cellsWf : Nat → List Host.Cell → Bool
  | _, [] => true
  | lo, (k, v) :: r => decide (lo ≤ k) && v != Config.unwritten && cellsWf (k + 1) r

/-- The canonical form of memory. -/
def Memory.wf (m : Memory) : Bool := cellsWf 0 m.cells

def Memory.byte (m : Memory) (a : Nat) : Byte := cellGet m.cells a

def Memory.writeByte (m : Memory) (a : Nat) (v : Byte) : Memory := ⟨cellWrite m.cells a v⟩

/-- n bytes from a, little-endian (R2). -/
def Memory.read (m : Memory) (a : Nat) : Nat → Nat
  | 0 => 0
  | n + 1 => (m.byte a).toNat + 256 * m.read (a + 1) n

/-- Write the low n bytes of v at a, little-endian (R2). -/
def Memory.write (m : Memory) (a : Nat) : Nat → Nat → Memory
  | 0, _ => m
  | n + 1, v => (m.writeByte a (BitVec.ofNat 8 v)).write (a + 1) n (v / 256)

/-! ## Sets of places, sorted -/

def placeAdd : List Nat → Nat → List Nat
  | [], a => [a]
  | k :: r, a => if k = a then k :: r else if a < k then a :: k :: r else k :: placeAdd r a

def placeDel (l : List Nat) (a : Nat) : List Nat := l.filter (fun k => k != a)

/-- The doubleword that holds a place. -/
def dword (a : Nat) : Nat := a / 8 * 8

/-! ## Where things stand -/

/-- Bytes of a core's scratchpad (R17). -/
def scratchSize : Nat := 0x80000

/-- Place of raw offset `off` of a core (R17). -/
def scratchLoc (core off : Nat) : Nat := 2 ^ 56 + core * scratchSize + off

def bankSize : Nat := 0x8000

/-- Place of a byte of a bank. -/
def bankLoc (core bank off : Nat) : Nat := scratchLoc core (bank * bankSize + off)

/-- Place of byte `off` of column slice `slice` of a cluster's Anvil (R206). -/
def anvilLoc (cluster slice off : Nat) : Nat := 2 ^ 57 + cluster * 2 ^ 26 + slice * 2 ^ 17 + off

/-- Core and raw offset of a byte of a cluster's striped window (R122): within the cluster. -/
def stripedAt (o : Nat) : Nat × Nat :=
  let l := o / 128
  (l % 64, (8 + l / 64 % 5) * bankSize + (l / 320) * 128 + o % 128)

/-- Place of a byte of a striped window. -/
def stripedLoc (cluster o : Nat) : Nat :=
  let (k, off) := stripedAt o
  scratchLoc (64 * cluster + k) off

/-! ## Memory within the state -/

def State.read (s : State) (a n : Nat) : Nat := s.mem.read a n

def State.readW (s : State) (a : Nat) : Word := BitVec.ofNat 64 (s.mem.read a 8)

/-- Write bytes and nothing else. -/
def State.write (s : State) (a n v : Nat) : State := { s with mem := s.mem.write a n v }

/-- Is the doubleword's full/empty bit full (R136)? -/
def State.isFull (s : State) (a : Nat) : Bool := !(s.empties.contains (dword a))

def State.setFull (s : State) (a : Nat) (full : Bool) : State :=
  { s with empties := if full then placeDel s.empties (dword a) else placeAdd s.empties (dword a) }

/-- Is the doubleword poisoned (R138)? -/
def State.poisoned (s : State) (a : Nat) : Bool := s.poisons.contains (dword a)

def State.setPoison (s : State) (a : Nat) (p : Bool) : State :=
  { s with poisons := if p then placeAdd s.poisons (dword a) else placeDel s.poisons (dword a) }

/-- Is a doubleword of the n bytes at a poisoned? Its place if so. -/
def State.poisonIn (s : State) (a n : Nat) : Option Nat :=
  s.poisons.find? (fun p => decide (dword a ≤ p) && decide (p < a + n))

/-- A store of n bytes: a store of a whole doubleword clears its poison bit, a narrower one leaves it (R138). -/
def State.store (s : State) (a n v : Nat) : State :=
  let s' := s.write a n v
  if n < 8 then s'
  else { s' with poisons := s'.poisons.filter (fun p => !(decide (a ≤ p) && decide (p < a + n))) }

/-- A place of root-port space (R338). -/
def isRootPort (a : Nat) : Bool := a / 2 ^ 45 == 2

/-- A doubleword as an agent or a fetch reads it: of memory, or what a device behind a root port answers. -/
def State.dwordAt (s : State) (a : Nat) : Word := if isRootPort a then Config.rootPort a s.cycle else s.readW a

/-- A doubleword with its poison bit. -/
def State.entryAt (s : State) (a : Nat) : Entry := ⟨s.dwordAt a, s.poisoned a⟩

/-- Write a doubleword with its poison bit: a copy that does not consume it (R138). -/
def State.putEntry (s : State) (a : Nat) (e : Entry) : State :=
  (s.write a 8 e.d.toNat).setPoison a e.poison

/-- Clear n bytes from a, their full/empty bits to full and their poison bits (R127). -/
def State.clear (s : State) (a n : Nat) : State :=
  let out := fun (p : Nat) => !(decide (a ≤ p) && decide (p < a + n))
  { s with
    mem := ⟨s.mem.cells.filter (fun c => out c.1)⟩
    empties := s.empties.filter out
    poisons := s.poisons.filter out }

/-! ## Host stores on their way (R172) -/

/-- A host store is of the thread with this home. -/
def Posted.of (q : Posted) (t : Thread) : Bool := q.home == t.home && q.slot == t.homeSlot

/-- A host store reaches the host. -/
def State.land (s : State) (q : Posted) : State := s.store q.pa q.n q.v

/-- Every host store of a thread reaches the host, in order of acceptance. -/
def State.landAll (s : State) (t : Thread) : State :=
  { (s.posted.filter (fun q => q.of t)).foldl State.land s with posted := s.posted.filter (fun q => !q.of t) }

/-- Every host store of every thread reaches the host. -/
def State.landEvery (s : State) : State := { s.posted.foldl State.land s with posted := [] }

/-- The n-th host store reaches the host, unless an earlier one of its thread is still on its way. -/
def State.landOne (s : State) (n : Nat) : State :=
  match s.posted[n]? with
  | none => s
  | some q =>
    if (s.posted.take n).any (fun e => e.home == q.home && e.slot == q.slot) then s
    else { s.land q with posted := s.posted.eraseIdx n }

/-- A fresh free word (assumption 3). -/
def State.freeWord (s : State) : Word × State := (Config.freeWord s.free, { s with free := s.free + 1 })

end Sys2Proof.Machine
end

