-- ==== Sys2Proof/Machine/Classes.lean ====
section
/-!
DEFINITION. Machine/Classes.lean: what the issue of each instruction depends on before its meaning is looked at: its
lookahead (R59, R60), whether it is an ordered or relaxed access (R158, R160), what it waits for (R163, R168, R233),
whether the timed thread may execute it (R290), the f registers it reads and writes (R179) and its occupancy (R97).
-/
namespace Sys2Proof.Machine

/-- Is the instruction a memory access, and marked relaxed or not (R158, R160)? -/
inductive Mem where
  | no
  | ordered
  | relaxed
  deriving DecidableEq, Repr

/-- What of its own thread the instruction waits for before it issues. -/
inductive Waits where
  | nothing
  /-- the earlier non-relaxed access has completed (R168, R233) -/
  | ordered
  /-- every earlier access has been performed (R163, R249, R346) -/
  | accesses
  /-- every earlier instruction has completed (R123, R248) -/
  | everything
  deriving DecidableEq, Repr

structure Cls where
  la : Nat := 0
  mem : Mem := .no
  waits : Waits := .nothing
  /-- the timed thread may execute it (R290) -/
  timed : Bool := false
  /-- V-format (R60) -/
  vec : Bool := false
  /-- it makes a request of the shared SFU (R197) -/
  sfu : Bool := false
  /-- f registers read, in the order a, b, c, store data (R179), and written -/
  fsrc : List Reg := []
  fdst : Option Reg := none
  occ : Nat := 8
  deriving DecidableEq, Repr

/-- The class of each instruction; a step of the hardware has none. -/
def cls (i : Instr) : Cls :=
  match i with
  | .add _ _ _ => { timed := true }
  | .sub _ _ _ => { timed := true }
  | .and _ _ _ => { timed := true }
  | .or _ _ _ => { timed := true }
  | .xor _ _ _ => { timed := true }
  | .sll _ _ _ => { timed := true }
  | .srl _ _ _ => { timed := true }
  | .sra _ _ _ => { timed := true }
  | .slt _ _ _ => { timed := true }
  | .sltu _ _ _ => { timed := true }
  | .min _ _ _ => { timed := true }
  | .max _ _ _ => { timed := true }
  | .minu _ _ _ => { timed := true }
  | .maxu _ _ _ => { timed := true }
  | .mul _ _ _ => { timed := true }
  | .mulh _ _ _ => { timed := true }
  | .mulhu _ _ _ => { timed := true }
  | .div _ _ _ => { timed := true, occ := 40 }
  | .divu _ _ _ => { timed := true, occ := 40 }
  | .rem _ _ _ => { timed := true, occ := 40 }
  | .remu _ _ _ => { timed := true, occ := 40 }
  | .clz _ _ => { timed := true }
  | .ctz _ _ => { timed := true }
  | .popc _ _ => { timed := true }
  | .sel _ _ _ _ => { timed := true }
  | .addi _ _ _ => { timed := true }
  | .andi _ _ _ => { timed := true }
  | .ori _ _ _ => { timed := true }
  | .xori _ _ _ => { timed := true }
  | .slti _ _ _ => { timed := true }
  | .sltiu _ _ _ => { timed := true }
  | .slli _ _ _ => { timed := true }
  | .srli _ _ _ => { timed := true }
  | .srai _ _ _ => { timed := true }
  | .extr _ _ _ _ => { timed := true }
  | .insr _ _ _ _ => { timed := true }
  | .lui _ _ => { timed := true }
  | .addpc _ _ => { timed := true }
  | .beq _ _ _ => { timed := true }
  | .bne _ _ _ => { timed := true }
  | .blt _ _ _ => { timed := true }
  | .bge _ _ _ => { timed := true }
  | .bltu _ _ _ => { timed := true }
  | .bgeu _ _ _ => { timed := true }
  | .jal _ _ => { timed := true }
  | .jalr _ _ _ => { timed := true }
  | .bst _ _ => { timed := true }
  | .bstN _ _ => { timed := true }
  | .fadd d a b _ => { timed := true, fsrc := [a, b], fdst := some d }
  | .fsub d a b _ => { timed := true, fsrc := [a, b], fdst := some d }
  | .fmul d a b _ => { timed := true, fsrc := [a, b], fdst := some d }
  | .fdiv d a b _ => { timed := true, occ := 24, fsrc := [a, b], fdst := some d }
  | .fsqrt d a _ => { timed := true, occ := 24, fsrc := [a], fdst := some d }
  | .fmin d a b => { timed := true, fsrc := [a, b], fdst := some d }
  | .fmax d a b => { timed := true, fsrc := [a, b], fdst := some d }
  | .feq _ a b => { timed := true, fsrc := [a, b] }
  | .flt _ a b => { timed := true, fsrc := [a, b] }
  | .fle _ a b => { timed := true, fsrc := [a, b] }
  | .fclass _ a => { timed := true, fsrc := [a] }
  | .fsgn d a b _ => { timed := true, fsrc := [a, b], fdst := some d }
  | .fcvt d a _ s => { timed := true, fsrc := if s.toNat < 2 then [] else [a], fdst := if s == 2 || s == 3 then none else some d }
  | .fmvxf _ a => { timed := true, fsrc := [a] }
  | .fmvfx d _ => { timed := true, fdst := some d }
  | .fma d a b c _ => { timed := true, fsrc := [a, b, c], fdst := some d }
  | .fms d a b c _ => { timed := true, fsrc := [a, b, c], fdst := some d }
  | .fnma d a b c _ => { timed := true, fsrc := [a, b, c], fdst := some d }
  | .fnms d a b c _ => { timed := true, fsrc := [a, b, c], fdst := some d }
  | .fexp d a l _ => { la := l.toNat, timed := true, sfu := true, fsrc := [a], fdst := some d }
  | .flog d a l _ => { la := l.toNat, timed := true, sfu := true, fsrc := [a], fdst := some d }
  | .frcp d a l _ => { la := l.toNat, timed := true, sfu := true, fsrc := [a], fdst := some d }
  | .frsq d a l _ => { la := l.toNat, timed := true, sfu := true, fsrc := [a], fdst := some d }
  | .ftanh d a l _ => { la := l.toNat, timed := true, sfu := true, fsrc := [a], fdst := some d }
  | .fsigm d a l _ => { la := l.toNat, timed := true, sfu := true, fsrc := [a], fdst := some d }
  | .ld _ _ l x _ _ => { la := l.toNat, timed := true, mem := if x = 1 then .relaxed else .ordered }
  | .st _ _ l x _ _ => { la := l.toNat, timed := true, mem := if x = 1 then .relaxed else .ordered }
  | .ldf d _ l x _ _ => { la := l.toNat, timed := true, mem := if x = 1 then .relaxed else .ordered, fdst := some d }
  | .stf t _ l x _ _ => { la := l.toNat, timed := true, mem := if x = 1 then .relaxed else .ordered, fsrc := [t] }
  | .ldfe _ _ l _ => { la := l.toNat, timed := true, mem := .ordered }
  | .ldff _ _ l _ => { la := l.toNat, timed := true, mem := .ordered }
  | .stef _ _ l _ => { la := l.toNat, timed := true, mem := .ordered }
  | .stff _ _ l _ => { la := l.toNat, timed := true, mem := .ordered }
  | .sete _ _ l _ => { la := l.toNat, timed := true, mem := .ordered }
  | .setf _ _ l _ => { la := l.toNat, timed := true, mem := .ordered }
  | .amoadd _ _ _ l _ => { la := l.toNat, timed := true, mem := .ordered }
  | .amoand _ _ _ l _ => { la := l.toNat, timed := true, mem := .ordered }
  | .amoor _ _ _ l _ => { la := l.toNat, timed := true, mem := .ordered }
  | .amoxor _ _ _ l _ => { la := l.toNat, timed := true, mem := .ordered }
  | .amomin _ _ _ l _ => { la := l.toNat, timed := true, mem := .ordered }
  | .amomax _ _ _ l _ => { la := l.toNat, timed := true, mem := .ordered }
  | .amoswap _ _ _ l _ => { la := l.toNat, timed := true, mem := .ordered }
  | .cas _ _ _ l _ => { la := l.toNat, timed := true, mem := .ordered }
  | .fence _ => { timed := true, waits := .accesses }
  | .segld _ _ l => { la := l.toNat, timed := true, mem := .ordered }
  | .segrd _ _ _ => { timed := true }
  | .bankcfg _ _ _ l _ => { la := l.toNat, mem := .ordered }
  | .bankConversionDone _ _ => {}
  | .bankq _ _ l => { la := l.toNat, timed := true, mem := .ordered }
  | .bankjoin _ l => { la := l.toNat, mem := .ordered }
  | .send _ _ l => { la := l.toNat, mem := .ordered }
  | .dq _ _ l _ => { la := l.toNat, mem := .ordered }
  | .migrate _ => { waits := .everything }
  | .migrationArrival _ => {}
  | .arrivalQueueAdmit _ => {}
  | .migrationReoffer _ => {}
  | .bankAccessPerformed _ _ _ => {}
  | .waiterRetry _ _ => {}
  | .portAccessPerformed _ _ _ => {}
  | .pagerWake _ _ => {}
  | .longLatencyComplete _ _ _ => {}
  | .lateFault _ _ => {}
  | .hwMessageDeliver _ => {}
  | .scfg _ _ _ l _ => { la := l.toNat }
  | .scfg2 _ _ _ l _ => { la := l.toNat }
  | .srel _ l _ => { la := l.toNat }
  | .streamElementRead _ _ _ _ => {}
  | .streamElementWrite _ _ _ _ => {}
  | .vadd _ _ _ _ _ => { vec := true, la := 15 }
  | .vsub _ _ _ _ _ => { vec := true, la := 15 }
  | .vmul _ _ _ _ _ => { vec := true, la := 15 }
  | .vfma _ _ _ _ _ => { vec := true, la := 15 }
  | .vmin _ _ _ _ _ => { vec := true, la := 15 }
  | .vmax _ _ _ _ _ => { vec := true, la := 15 }
  | .vabs _ _ _ => { vec := true, la := 15 }
  | .vneg _ _ _ => { vec := true, la := 15 }
  | .vcvt _ _ _ => { vec := true, la := 15 }
  | .vsel _ _ _ _ => { vec := true, la := 15 }
  | .vcmp _ _ _ _ _ _ => { vec := true, la := 15 }
  | .vred _ _ _ _ => { vec := true, la := 15 }
  | .vscan _ _ _ _ => { vec := true, la := 15 }
  | .vdot _ _ _ _ _ => { vec := true, la := 15 }
  | .vexp _ _ => { sfu := true, vec := true, la := 15 }
  | .vlog _ _ => { sfu := true, vec := true, la := 15 }
  | .vrcp _ _ => { sfu := true, vec := true, la := 15 }
  | .vrsq _ _ => { sfu := true, vec := true, la := 15 }
  | .vtanh _ _ => { sfu := true, vec := true, la := 15 }
  | .vsigm _ _ => { sfu := true, vec := true, la := 15 }
  | .vfence => { vec := true, la := 0 }
  | .vectorBeat _ _ => {}
  | .sfuResult _ => {}
  | .mlease l _ => { la := l.toNat }
  | .arrayLeaseGrant _ => {}
  | .leaseTimeLimit _ => {}
  | .mfree _ => {}
  | .mwait _ => {}
  | .mloadb _ _ l _ => { la := l.toNat, waits := .ordered }
  | .mloadbTransferDone _ _ => {}
  | .mcb _ l _ => { la := l.toNat }
  | .mzero _ _ l _ => { la := l.toNat }
  | .mma _ _ _ l _ _ => { la := l.toNat }
  | .mmas _ _ _ l _ _ => { la := l.toNat }
  | .mepi _ _ _ l _ => { la := l.toNat, waits := .ordered }
  | .mepiWritesDone _ _ => {}
  | .mprog l _ => { la := l.toNat }
  | .mrec _ _ _ l _ => { la := l.toNat }
  | .mocmp _ _ _ l _ => { la := l.toNat }
  | .arrayCommandComplete _ => {}
  | .arrayOperandsConsumed _ => {}
  | .btld _ _ l => { la := l.toNat, mem := .ordered }
  | .btst _ _ l => { la := l.toNat, mem := .ordered }
  | .btand _ _ _ l => { la := l.toNat }
  | .btor _ _ _ l => { la := l.toNat }
  | .btxor _ _ _ l => { la := l.toNat }
  | .btnot _ _ l => { la := l.toNat }
  | .bttrn _ _ l => { la := l.toNat }
  | .btcomp _ _ _ l => { la := l.toNat }
  | .btclo _ _ l _ => { la := l.toNat }
  | .btrc _ _ _ l => { la := l.toNat }
  | .launch _ _ _ l _ => { la := l.toNat, waits := .ordered }
  | .dispatchBlockPlace _ => {}
  | .launchPromotion _ _ => {}
  | .launchReserve _ _ => {}
  | .blockComplete _ _ => {}
  | .launchComplete _ _ => {}
  | .start _ _ => { waits := .ordered }
  | .reap _ => {}
  | .yield => { timed := true }
  | .yieldWake _ _ => {}
  | .exit => { timed := true, waits := .everything }
  | .bar _ _ => { waits := .accesses }
  | .spawn _ _ l => { la := l.toNat, waits := .ordered }
  | .preempt _ => {}
  | .victimRestore _ => {}
  | .restoreDeadline _ => {}
  | .tccTransferFail _ _ _ => {}
  | .copy _ _ l _ => { la := l.toNat, waits := .ordered }
  | .gath _ _ l _ => { la := l.toNat, waits := .ordered }
  | .scat _ _ l _ => { la := l.toNat, waits := .ordered }
  | .enginePostAccept _ _ _ => {}
  | .enginePostStart _ => {}
  | .enginePostComplete _ _ => {}
  | .tblset _ _ l _ => { la := l.toNat }
  | .tblsw _ _ l _ => { la := l.toNat }
  | .shstat _ l _ => { la := l.toNat }
  | .rmig _ _ _ l _ => { la := l.toNat, waits := .ordered }
  | .rowCacheAge _ => {}
  | .mcgroupLoad _ _ => {}
  | .trregCreate _ _ _ l _ => { la := l.toNat }
  | .trregRegion _ _ _ l _ => { la := l.toNat }
  | .trregArm _ _ _ l _ => { la := l.toNat }
  | .trregFree _ _ _ l _ => { la := l.toNat }
  | .relaunch _ _ l _ _ => { la := l.toNat, waits := .ordered }
  | .relaunchRunStart _ => {}
  | .relaunchComplete _ => {}
  | .trinfo _ l _ => { la := l.toNat }
  | .tmodeOn _ => {}
  | .tmodeOff => {}
  | .tsend _ _ _ l => { la := l.toNat, timed := true, waits := .ordered }
  | .tnext _ _ => { timed := true }
  | .tout _ _ => { timed := true }
  | .gvtrd _ => { timed := true }
  | .gvtrdW _ _ => { timed := true }
  | .timedMessageAccept _ => {}
  | .rollback _ => {}
  | .antiMessageArrive _ => {}
  | .horizonRoundStart _ => {}
  | .horizonReport _ => {}
  | .gvtPublish _ => {}
  | .outputRelease _ => {}
  | .gvtCopyUpdate _ => {}
  | .trap _ => { timed := true }
  | .eret _ => {}
  | .eretSys _ => {}
  | .eretUser _ => {}
  | .sysrd _ _ => { timed := true }
  | .syswr _ _ => { timed := true }
  | .tswWrite _ _ _ => {}
  | .tccctlWrite _ _ _ => {}
  | .qosWrite _ _ _ => {}
  | .snapctlWrite _ _ => {}
  | .scopepolWrite _ _ => {}
  | .xec _ _ => {}
  | .icinv _ => { waits := .accesses }
  | .tlbinv _ => { waits := .accesses }
  | .swapctx _ _ => { occ := 160 }
  | .swapctxOut _ _ => { occ := 160 }
  | .swapctxIn _ _ => { occ := 160 }
  | .snap _ => {}
  | .halt _ => {}
  | .brk => { timed := true }
  | .debuggerStop _ _ => {}
  | .asleepSample _ => {}
  | .cred _ _ l _ => { la := l.toNat, waits := .accesses }
  | .cbcast _ _ _ l _ => { la := l.toNat, waits := .accesses }
  | .quadReassign _ _ => {}
  | .quadReset _ => {}
  | .engineReset _ => {}
  | .clusterReset _ => {}
  | .routerFailure _ => {}
  | .hbmChannelOffline _ => {}
  | .eccCorrected _ => {}
  | .poisonSet _ => {}
  | .linkTrain _ _ _ _ => {}
  | .linkReplay _ => {}
  | .linkRetrain _ _ => {}
  | .linkDown _ => {}
  | .bucketRefill _ => {}
  | .lineSend _ _ => {}
  | .gatingInterval _ _ => {}
  | .snapshotPin => {}
  | .snapshotLatch => {}
  | .boot _ _ => {}
  | .attestationSign _ => {}
  | .mailboxOpen _ _ => {}
  | .mailboxClose _ _ => {}
  | .mailboxRegisterWrite _ _ _ => {}
  | .reqtailWrite _ _ => {}
  | .cplheadWrite _ _ => {}
  | .reqLaunch _ => {}
  | .reqMessage _ => {}
  | .reqQuery _ => {}
  | .reqCregRead _ => {}
  | .reqCregWrite _ => {}
  | .reqUnlistedKind _ => {}
  | .mailboxCompletion _ => {}
  | .quadResetDone _ => {}
  | .engineResetDone _ => {}

end Sys2Proof.Machine
end

