-- ==== Sys2Proof/Machine/Float.lean ====
section
/-!
DEFINITION. Machine/Float.lean: the formats of R29, exact values, one rounding (R35, R36), saturation (R44), and the
FP32 operations of R108 to R114. Values are computed exactly as a sign, a natural number and a power of two.
-/
namespace Sys2Proof.Machine

/-! ## Formats (R29) -/

/-- Which bit patterns are infinities and NaNs. -/
inductive Special where
  /-- exponent all ones -/
  | ieee
  /-- E4M3: only the all-ones pattern is a NaN -/
  | e4m3
  /-- E2M1: none -/
  | finite
  deriving DecidableEq, Repr

structure Fmt where
  eb : Nat
  fb : Nat
  bias : Nat
  sp : Special
  deriving DecidableEq, Repr

def fp32 : Fmt := ⟨8, 23, 127, .ieee⟩
def fp16 : Fmt := ⟨5, 10, 15, .ieee⟩
def bf16 : Fmt := ⟨8, 7, 127, .ieee⟩
def e5m2 : Fmt := ⟨5, 2, 15, .ieee⟩
def e4m3 : Fmt := ⟨4, 3, 7, .e4m3⟩
def e2m1 : Fmt := ⟨2, 1, 1, .finite⟩

/-- A value: a NaN with its sign and fraction field, an infinity, or sign × m × 2^e. -/
inductive FV where
  | nan (sign : Bool) (frac : Nat)
  | inf (sign : Bool)
  | num (sign : Bool) (m : Nat) (e : Int)
  deriving DecidableEq, Repr

def Fmt.signBit (f : Fmt) (b : Nat) : Bool := b / 2 ^ (f.eb + f.fb) % 2 == 1

/-- The value of a bit pattern. -/
def Fmt.decode (f : Fmt) (b : Nat) : FV :=
  let s := f.signBit b
  let x := b / 2 ^ f.fb % 2 ^ f.eb
  let fr := b % 2 ^ f.fb
  if f.sp = .ieee ∧ x = 2 ^ f.eb - 1 then (if fr = 0 then .inf s else .nan s fr)
  else if f.sp = .e4m3 ∧ x = 15 ∧ fr = 7 then .nan s 7
  else if x = 0 then .num s fr (1 - (f.bias : Int) - f.fb)
  else .num s (2 ^ f.fb + fr) ((x : Int) - f.bias - f.fb)

/-- Greatest exponent field and fraction of a finite value. -/
def Fmt.maxX (f : Fmt) : Nat := if f.sp = .ieee then 2 ^ f.eb - 2 else 2 ^ f.eb - 1
def Fmt.maxF (f : Fmt) : Nat := if f.sp = .e4m3 then 6 else 2 ^ f.fb - 1

def Fmt.pack (f : Fmt) (s : Bool) (x fr : Nat) : Nat := (if s then 2 ^ (f.eb + f.fb) else 0) + x * 2 ^ f.fb + fr

/-- Largest finite value. -/
def Fmt.maxFinite (f : Fmt) (s : Bool) : Nat := f.pack s f.maxX f.maxF
def Fmt.infinity (f : Fmt) (s : Bool) : Nat := f.pack s (2 ^ f.eb - 1) 0
/-- The default NaN (R31). -/
def Fmt.defaultNaN (f : Fmt) : Nat :=
  if f.sp = .e4m3 then 0x7F else f.pack false (2 ^ f.eb - 1) (2 ^ (f.fb - 1))
def Fmt.hasInf (f : Fmt) : Bool := f.sp == .ieee

/-! ## Rounding (R35, R36) -/

/-- Modes 0 RNE, 1 RTZ, 2 RUP, 3 RDN. -/
abbrev Mode := Nat

/-- Flags in the layout of FCSR[4:0] (R37). -/
def fNX : BitVec 5 := 1
def fUF : BitVec 5 := 2
def fOF : BitVec 5 := 4
def fDZ : BitVec 5 := 8
def fNV : BitVec 5 := 16

/-- An exact magnitude: m × 2^e, or, when `st`, some value strictly between m × 2^e and (m + 1) × 2^e. -/
structure Exact where
  sign : Bool
  m : Nat
  e : Int
  st : Bool := false
  deriving DecidableEq, Repr

/-- Divide m by 2^sh, rounding; `st` says that the value lies above m. The quotient, and whether it is inexact. -/
def roundShift (mode : Mode) (sign : Bool) (m sh : Nat) (st : Bool) : Nat × Bool :=
  let q := m / 2 ^ sh
  let r := m % 2 ^ sh
  let inexact := r != 0 || st
  let half := 2 ^ sh / 2
  let up :=
    if mode = 0 then decide (r > half) || (r == half && sh != 0 && (st || q % 2 == 1))
    else if mode = 1 then false
    else if mode = 2 then inexact && !sign
    else inexact && sign
  (if up then q + 1 else q, inexact)

/-- Round to the precision of a format with no bound above on the exponent: m × 2^e and whether inexact. -/
def Fmt.roundPrec (f : Fmt) (mode : Mode) (x : Exact) : Nat × Int × Bool :=
  let q : Int := max ((x.m.log2 : Int) + x.e - f.fb) (1 - (f.bias : Int) - f.fb)
  if q > x.e then
    let (m, i) := roundShift mode x.sign x.m (q - x.e).toNat x.st
    (m, q, i)
  else (x.m * 2 ^ (x.e - q).toNat, q, x.st)

/-- The exponent field and fraction of m × 2^q, where m has at most fb + 2 bits and q is no less than the least place. -/
def Fmt.fields (f : Fmt) (m : Nat) (q : Int) : Nat × Nat :=
  let (m, q) := if 2 ^ (f.fb + 1) ≤ m then (m / 2, q + 1) else (m, q)
  if m < 2 ^ f.fb then (0, m) else ((q + f.fb + f.bias).toNat, m - 2 ^ f.fb)

/-- Is the value beyond the largest finite one? -/
def Fmt.over (f : Fmt) (x fr : Nat) : Bool := decide (x > f.maxX) || (x == f.maxX && decide (fr > f.maxF))

/-- Smaller in magnitude than the smallest normal value (R36). -/
def Fmt.tiny (f : Fmt) (x : Exact) : Bool := decide ((x.m.log2 : Int) + x.e < 1 - (f.bias : Int))

/-- The result of an overflow (R36). -/
def Fmt.overflow (f : Fmt) (mode : Mode) (s : Bool) : Nat :=
  if mode = 0 ∨ (mode = 2 ∧ !s) ∨ (mode = 3 ∧ s) then f.infinity s else f.maxFinite s

/-- Round an exact value to a format with infinities: the pattern and the flags OF, UF and NX (R36; DEDUCED, assumption 43). -/
def Fmt.round (f : Fmt) (mode : Mode) (x : Exact) : Nat × BitVec 5 :=
  if x.m = 0 ∧ !x.st then (f.pack x.sign 0 0, 0)
  else
    let (m, q, i) := f.roundPrec mode x
    let (ex, fr) := f.fields m q
    if f.over ex fr then (f.overflow mode x.sign, fOF ||| fNX)
    else (f.pack x.sign ex fr, (if i then fNX else 0) ||| (if i && f.tiny x then fUF else 0))

/-- Sat of an exact finite value (R44): the pattern, the flags OF, UF and NX, and whether it is a saturation event.
Underflow is R36's, which R180 counts among the narrowing flags. -/
def Fmt.satNum (f : Fmt) (mode : Mode) (x : Exact) : Nat × BitVec 5 × Bool :=
  if x.m = 0 ∧ !x.st then (f.pack x.sign 0 0, 0, false)
  else
    let (m, q, i) := f.roundPrec mode x
    let (ex, fr) := f.fields m q
    if f.over ex fr then (f.maxFinite x.sign, fOF ||| fNX, true)
    else (f.pack x.sign ex fr, (if i then fNX else 0) ||| (if i && f.tiny x then fUF else 0), false)

/-- A NaN of FP32 as a NaN of a narrower format (R34). -/
def Fmt.narrowNaN (f : Fmt) (s : Bool) (frac : Nat) : Nat :=
  if f.sp = .e4m3 then f.pack s 15 7
  else f.pack s (2 ^ f.eb - 1) ((frac / 2 ^ (23 - f.fb)) ||| 2 ^ (f.fb - 1))

/-- Sat of an FP32 pattern (R44); a signalling NaN raises NV (R32, R34; DEDUCED, assumption 43). -/
def Fmt.sat (f : Fmt) (mode : Mode) (b : Nat) : Nat × BitVec 5 × Bool :=
  match fp32.decode b with
  | .nan s fr => (f.narrowNaN s fr, if fr < 2 ^ 22 then fNV else 0, false)
  | .inf s => if f.hasInf then (f.infinity s, 0, false) else (f.maxFinite s, fOF ||| fNX, true)
  | .num s m e => f.satNum mode ⟨s, m, e, false⟩

/-- An exact value rounded to an integer: magnitude and whether inexact. -/
def roundInt (mode : Mode) (s : Bool) (m : Nat) (e : Int) : Nat × Bool :=
  if 0 ≤ e then (m * 2 ^ e.toNat, false) else roundShift mode s m (-e).toNat false

/-- Sat of an INT32 value to an integer range (R44): the value, flags and event. -/
def satInt (lo hi v : Int) : Int × BitVec 5 × Bool :=
  if v < lo then (lo, fOF ||| fNX, true) else if v > hi then (hi, fOF ||| fNX, true) else (v, 0, false)

/-! ## FP32 operations -/

def isNaN32 (b : Word32) : Bool := match fp32.decode b.toNat with | .nan _ _ => true | _ => false
def isSNaN32 (b : Word32) : Bool := match fp32.decode b.toNat with | .nan _ fr => decide (fr < 2 ^ 22) | _ => false
def quiet32 (b : Word32) : Word32 := b ||| 0x0040_0000#32
def defaultNaN32 : Word32 := 0x7FC0_0000#32

/-- A result and its flags. -/
structure FRes where
  v : Word32
  fl : BitVec 5 := 0
  deriving DecidableEq, Repr

/-- The first NaN operand, quieted, with NV if any operand is a signalling NaN (R32). -/
def firstNaN (l : List Word32) : Option FRes :=
  match l.find? isNaN32 with
  | none => none
  | some b => some ⟨quiet32 b, if l.any isSNaN32 then fNV else 0⟩

def invalid32 : FRes := ⟨defaultNaN32, fNV⟩

def round32 (mode : Mode) (x : Exact) : FRes :=
  let (b, fl) := fp32.round mode x
  ⟨BitVec.ofNat 32 b, fl⟩

def inf32 (s : Bool) : Word32 := BitVec.ofNat 32 (fp32.infinity s)
def zero32 (s : Bool) : Word32 := if s then 0x8000_0000#32 else 0

/-- The signed integer s × m × 2^(e − lo), for e no less than lo. -/
def scaled (s : Bool) (m : Nat) (e lo : Int) : Int :=
  let v : Int := (m * 2 ^ (e - lo).toNat : Nat)
  if s then -v else v

/-- The exact sum of two signed values, rounded once; the sign of an exact zero by R108. -/
def sum32 (mode : Mode) (s1 : Bool) (m1 : Nat) (e1 : Int) (s2 : Bool) (m2 : Nat) (e2 : Int) : FRes :=
  let lo := min e1 e2
  let v := scaled s1 m1 e1 lo + scaled s2 m2 e2 lo
  if v = 0 then
    let s := if m1 = 0 ∧ m2 = 0 ∧ s1 = s2 then s1 else mode == 3
    ⟨zero32 s, 0⟩
  else round32 mode ⟨decide (v < 0), v.natAbs, lo, false⟩

/-- Addition of non-NaN values. -/
def addFV (mode : Mode) (a b : FV) : FRes :=
  match a, b with
  | .inf s, .inf t => if s = t then ⟨inf32 s, 0⟩ else invalid32
  | .inf s, _ => ⟨inf32 s, 0⟩
  | _, .inf t => ⟨inf32 t, 0⟩
  | .num s m e, .num t n g => sum32 mode s m e t n g
  | _, _ => invalid32

def FV.neg : FV → FV
  | .nan s f => .nan s f
  | .inf s => .inf (!s)
  | .num s m e => .num (!s) m e

def val32 (b : Word32) : FV := fp32.decode b.toNat

/-- FADD (R108). -/
def fAdd (mode : Mode) (a b : Word32) : FRes :=
  match firstNaN [a, b] with
  | some r => r
  | none => addFV mode (val32 a) (val32 b)

/-- FSUB (R108). -/
def fSub (mode : Mode) (a b : Word32) : FRes :=
  match firstNaN [a, b] with
  | some r => r
  | none => addFV mode (val32 a) (val32 b).neg

/-- The exact product of non-NaN values; a NaN for 0 × ∞. -/
def mulFV (a b : FV) : FV :=
  match a, b with
  | .inf s, .inf t => .inf (s != t)
  | .inf s, .num t n _ => if n = 0 then .nan false 0 else .inf (s != t)
  | .num s m _, .inf t => if m = 0 then .nan false 0 else .inf (s != t)
  | .num s m e, .num t n g => .num (s != t) (m * n) (e + g)
  | _, _ => .nan false 0

def roundFV (mode : Mode) (v : FV) : FRes :=
  match v with
  | .nan _ _ => invalid32
  | .inf s => ⟨inf32 s, 0⟩
  | .num s m e => round32 mode ⟨s, m, e, false⟩

/-- FMUL (R108). -/
def fMul (mode : Mode) (a b : Word32) : FRes :=
  match firstNaN [a, b] with
  | some r => r
  | none => roundFV mode (mulFV (val32 a) (val32 b))

/-- FDIV (R108). -/
def fDiv (mode : Mode) (a b : Word32) : FRes :=
  match firstNaN [a, b] with
  | some r => r
  | none =>
    match val32 a, val32 b with
    | .inf _, .inf _ => invalid32
    | .inf s, .num t _ _ => ⟨inf32 (s != t), 0⟩
    | .num s _ _, .inf t => ⟨zero32 (s != t), 0⟩
    | .num s m e, .num t n g =>
      if n = 0 then (if m = 0 then invalid32 else ⟨inf32 (s != t), fDZ⟩)
      else if m = 0 then ⟨zero32 (s != t), 0⟩
      else
        let q := m * 2 ^ 64 / n
        round32 mode ⟨s != t, q, e - g - 64, m * 2 ^ 64 % n != 0⟩
    | _, _ => invalid32

/-- Integer square root, bit by bit from bit `i - 1`. -/
def isqrtFrom (n : Nat) : Nat → Nat → Nat
  | 0, r => r
  | i + 1, r =>
    let c := r + 2 ^ i
    isqrtFrom n i (if c * c ≤ n then c else r)

def isqrt (n : Nat) : Nat := isqrtFrom n (n.log2 / 2 + 1) 0

/-- FSQRT (R108). -/
def fSqrt (mode : Mode) (a : Word32) : FRes :=
  match firstNaN [a] with
  | some r => r
  | none =>
    match val32 a with
    | .inf s => if s then invalid32 else ⟨inf32 false, 0⟩
    | .num s m e =>
      if m = 0 then ⟨zero32 s, 0⟩
      else if s then invalid32
      else
        let (m, e) := if e % 2 = 0 then (m, e) else (m * 2, e - 1)
        let n := m * 2 ^ 80
        let r := isqrt n
        round32 mode ⟨false, r, e / 2 - 40, r * r != n⟩
    | _ => invalid32

/-- Compare the exact values of numbers and infinities: less than. -/
def ltFV (a b : FV) : Bool :=
  match a, b with
  | .inf s, .inf t => s && !t
  | .inf s, .num _ _ _ => s
  | .num _ _ _, .inf t => !t
  | .num s m e, .num t n g => decide (scaled s m e (min e g) < scaled t n g (min e g))
  | _, _ => false

def eqFV (a b : FV) : Bool :=
  match a, b with
  | .inf s, .inf t => s == t
  | .num s m e, .num t n g => decide (scaled s m e (min e g) = scaled t n g (min e g))
  | _, _ => false

/-- −0 below +0, otherwise by value (R109). -/
def fLess (a b : Word32) : Bool :=
  let u := val32 a; let v := val32 b
  if eqFV u v then a.msb && !b.msb else ltFV u v

/-- FMIN (R109). -/
def fMin (a b : Word32) : FRes :=
  match firstNaN [a, b] with
  | some r => r
  | none => ⟨if fLess b a then b else a, 0⟩

/-- FMAX (R109). -/
def fMax (a b : Word32) : FRes :=
  match firstNaN [a, b] with
  | some r => r
  | none => ⟨if fLess a b then b else a, 0⟩

/-- FEQ (R110): NV only for a signalling NaN. -/
def fEq (a b : Word32) : Bool × BitVec 5 :=
  if isNaN32 a || isNaN32 b then (false, if isSNaN32 a || isSNaN32 b then fNV else 0)
  else (eqFV (val32 a) (val32 b), 0)

/-- FLT (R110): NV for any NaN. -/
def fLt (a b : Word32) : Bool × BitVec 5 :=
  if isNaN32 a || isNaN32 b then (false, fNV) else (ltFV (val32 a) (val32 b), 0)

/-- FLE (R110). -/
def fLe (a b : Word32) : Bool × BitVec 5 :=
  if isNaN32 a || isNaN32 b then (false, fNV) else (ltFV (val32 a) (val32 b) || eqFV (val32 a) (val32 b), 0)

/-- The class mask of FCLASS (R110). -/
def fClass (a : Word32) : Nat :=
  match val32 a with
  | .nan _ fr => if fr < 2 ^ 22 then 2 ^ 8 else 2 ^ 9
  | .inf s => if s then 1 else 2 ^ 7
  | .num s m _ =>
    if m = 0 then (if s then 2 ^ 3 else 2 ^ 4)
    else if m < 2 ^ 23 then (if s then 2 ^ 2 else 2 ^ 5)
    else (if s then 2 else 2 ^ 6)

/-- The fused forms (R113): the product negated by np, the addend by nc. -/
def fFused (mode : Mode) (np nc : Bool) (a b c : Word32) : FRes :=
  let p := mulFV (val32 a) (val32 b)
  let zi := !isNaN32 a && !isNaN32 b && (match p with | .nan _ _ => true | _ => false)
  if zi && isNaN32 c then ⟨quiet32 c, fNV⟩
  else
    match firstNaN [a, b, c] with
    | some r => r
    | none =>
      if zi then invalid32
      else addFV mode (if np then p.neg else p) (if nc then (val32 c).neg else val32 c)

def fMadd (mode : Mode) (a b c : Word32) : FRes := fFused mode false false a b c

/-! ## Conversions (R112) -/

/-- An integer to FP32. -/
def intToF (mode : Mode) (v : Int) : FRes := round32 mode ⟨decide (v < 0), v.natAbs, 0, false⟩

/-- FP32 to an integer range: saturates, NaN gives 0, NV then and no NX (R112). -/
def fToInt (mode : Mode) (lo hi : Int) (a : Word32) : Int × BitVec 5 :=
  match val32 a with
  | .nan _ _ => (0, fNV)
  | .inf s => (if s then lo else hi, fNV)
  | .num s m e =>
    let (n, i) := roundInt mode s m e
    let v : Int := if s then -(n : Int) else n
    if v < lo then (lo, fNV) else if v > hi then (hi, fNV) else (v, if i then fNX else 0)

/-- FP32 to BF16 or FP16 (R112): NaN by R34, NV for a signalling NaN; overflow by R36 (DEDUCED, assumption 43). -/
def fToNarrow (f : Fmt) (mode : Mode) (a : Word32) : Nat × BitVec 5 :=
  match val32 a with
  | .nan s fr => (f.narrowNaN s fr, if fr < 2 ^ 22 then fNV else 0)
  | .inf s => (f.infinity s, 0)
  | .num s m e => f.round mode ⟨s, m, e, false⟩

/-- A narrower pattern as FP32, exactly; a NaN keeps sign and payload and is quieted (R34). -/
def widen (f : Fmt) (b : Nat) : Word32 :=
  match f.decode b with
  | .nan s fr => BitVec.ofNat 32 (fp32.pack s 255 ((fr * 2 ^ (23 - f.fb)) ||| 2 ^ 22))
  | .inf s => inf32 s
  | .num s m e => (round32 0 ⟨s, m, e, false⟩).v

/-- Is the pattern a signalling NaN of the format? -/
def Fmt.isSNaN (f : Fmt) (b : Nat) : Bool :=
  match f.decode b with
  | .nan _ fr => f.sp == .ieee && decide (fr < 2 ^ (f.fb - 1))
  | _ => false

end Sys2Proof.Machine
end

