-- ==== Sys2Proof/Machine/Trans.lean ====
section
/-!
DEFINITION. Machine/Trans.lean: the functions of the SFU (R114, R195). The result is the exact value of the function
rounded once. e^a, ln a, tanh a and 1/(1 + e^-a) of a non-special operand are irrational, so they are computed in fixed
point with 256 fraction bits, far beyond the places where a 24-bit result can be decided, and marked inexact (assumption 8).
-/
namespace Sys2Proof.Machine

/-- Fraction bits of the fixed point. -/
def fxP : Nat := 256

/-- Sum of x^(2i+1)/(2i+1) for i from 0, in fixed point: `t` is x^(2i+1) and `z2` is x². -/
def atanhSum (z2 : Nat) : Nat → Nat → Nat → Nat
  | 0, _, _ => 0
  | n + 1, i, t => t / (2 * i + 1) + atanhSum z2 n (i + 1) (t * z2 / 2 ^ fxP)

/-- atanh of a fixed-point z no greater than 1/3 (DEDUCED, assumption 8). -/
def fxAtanh (z : Nat) : Nat := atanhSum (z * z / 2 ^ fxP) 90 0 z

/-- ln 2 in fixed point. -/
def fxLn2 : Nat := 2 * fxAtanh (2 ^ fxP / 3)

/-- Sum of r^i / i! from i, in fixed point: `t` is r^i / i!. -/
def expSum (r : Nat) : Nat → Nat → Nat → Nat
  | 0, _, _ => 0
  | n + 1, i, t => t + expSum r n (i + 1) (t * r / 2 ^ fxP / (i + 1))

/-- e^x of a non-negative fixed-point x below 2^10: mantissa in fixed point and a power of two (DEDUCED, assumption 8). -/
def fxExp (x : Nat) : Nat × Nat :=
  let l := fxLn2
  let k := x / l
  (expSum (x % l) 64 0 (2 ^ fxP), k)

/-- m × 2^e in fixed point, truncated. -/
def toFx (m : Nat) (e : Int) : Nat :=
  if 0 ≤ e + fxP then m * 2 ^ (e + fxP).toNat else m / 2 ^ (-(e + fxP)).toNat

/-- Is m × 2^e at least 2^k? -/
def atLeast (m : Nat) (e k : Int) : Bool := decide (m ≠ 0 ∧ k ≤ (m.log2 : Int) + e)

/-- FEXP of a finite operand (DEDUCED, assumption 8). -/
def expNum (mode : Mode) (s : Bool) (m : Nat) (e : Int) : FRes :=
  if m = 0 then ⟨0x3F80_0000#32, 0⟩
  else if atLeast m e 9 then
    round32 mode (if s then ⟨false, 1, -400, true⟩ else ⟨false, 1, 400, true⟩)
  else
    let (v, k) := fxExp (toFx m e)
    if s then round32 mode ⟨false, 2 ^ (2 * fxP) / v, -(fxP : Int) - k, true⟩
    else round32 mode ⟨false, v, (k : Int) - fxP, true⟩

/-- FLOG of a positive finite operand (DEDUCED, assumption 8). -/
def logNum (mode : Mode) (m : Nat) (e : Int) : FRes :=
  let k : Int := (m.log2 : Int) + e
  let f := m * 2 ^ fxP / 2 ^ m.log2
  if f = 2 ^ fxP ∧ k = 0 then ⟨0, 0⟩
  else
    let one := 2 ^ fxP
    let v : Int := k * fxLn2 + 2 * fxAtanh ((f - one) * one / (f + one))
    round32 mode ⟨decide (v < 0), v.natAbs, -(fxP : Int), true⟩

/-- FRCP of a finite non-zero operand. -/
def rcpNum (mode : Mode) (s : Bool) (m : Nat) (e : Int) : FRes :=
  round32 mode ⟨s, 2 ^ 80 / m, -e - 80, 2 ^ 80 % m != 0⟩

/-- FRSQ of a positive finite operand. -/
def rsqNum (mode : Mode) (m : Nat) (e : Int) : FRes :=
  let (m, e) := if e % 2 = 0 then (m, e) else (m * 2, e - 1)
  let r := isqrt (2 ^ 160 / m)
  round32 mode ⟨false, r, -(e / 2) - 80, r * r * m != 2 ^ 160⟩

/-- FTANH of a finite operand (DEDUCED, assumption 8). -/
def tanhNum (mode : Mode) (s : Bool) (m : Nat) (e : Int) : FRes :=
  if m = 0 then ⟨zero32 s, 0⟩
  else if !atLeast m e (-60) then round32 mode ⟨s, m * 2 ^ 60 - 1, e - 60, true⟩
  else if atLeast m e 6 then round32 mode ⟨s, 2 ^ 60 - 1, -60, true⟩
  else
    let (v, k) := fxExp (2 * toFx m e)
    let d := v * 2 ^ k
    let one := 2 ^ fxP
    round32 mode ⟨s, (d - one) * one / (d + one), -(fxP : Int), true⟩

/-- FSIGM of a finite operand (DEDUCED, assumption 8). -/
def sigmNum (mode : Mode) (s : Bool) (m : Nat) (e : Int) : FRes :=
  if m = 0 then ⟨0x3F00_0000#32, 0⟩
  else if atLeast m e 9 then
    round32 mode (if s then ⟨false, 1, -400, true⟩ else ⟨false, 2 ^ 60 - 1, -60, true⟩)
  else
    let (v, k) := fxExp (toFx m e)
    let d := v * 2 ^ k
    let one := 2 ^ fxP
    if s then round32 mode ⟨false, 2 ^ (3 * fxP) / (d + one), -(2 * fxP : Int), true⟩
    else round32 mode ⟨false, d * one / (d + one), -(fxP : Int), true⟩

/-- The functions of the SFU. -/
inductive Sfu where
  | exp | log | rcp | rsq | tanh | sigm
  deriving DecidableEq, Repr

/-- The table and rules of R114 (DEDUCED, assumption 8). -/
def sfu (f : Sfu) (mode : Mode) (a : Word32) : FRes :=
  match firstNaN [a] with
  | some r => r
  | none =>
    match f, val32 a with
    | .exp, .inf s => ⟨if s then 0 else inf32 false, 0⟩
    | .exp, .num s m e => expNum mode s m e
    | .log, .inf s => if s then invalid32 else ⟨inf32 false, 0⟩
    | .log, .num s m e =>
      if m = 0 then ⟨inf32 true, fDZ⟩ else if s then invalid32 else logNum mode m e
    | .rcp, .inf s => ⟨zero32 s, 0⟩
    | .rcp, .num s m e => if m = 0 then ⟨inf32 s, fDZ⟩ else rcpNum mode s m e
    | .rsq, .inf s => if s then invalid32 else ⟨0, 0⟩
    | .rsq, .num s m e =>
      if m = 0 then ⟨inf32 s, fDZ⟩ else if s then invalid32 else rsqNum mode m e
    | .tanh, .inf s => ⟨if s then 0xBF80_0000#32 else 0x3F80_0000#32, 0⟩
    | .tanh, .num s m e => tanhNum mode s m e
    | .sigm, .inf s => ⟨if s then 0 else 0x3F80_0000#32, 0⟩
    | .sigm, .num s m e => sigmNum mode s m e
    | _, .nan _ _ => invalid32

end Sys2Proof.Machine
end

