-- ==== Sys2Proof/Machine/Flags.lean ====
section
/-!
DEFINITION. Machine/Flags.lean: FCSR, OVFC and the bank status of a thread (R37, R38, R46, R67), and the elements of
format windows and streams with their flags and saturation events (R39, R40, R44, R45, R49, R50).
-/
namespace Sys2Proof.Machine

/-! ## FCSR, OVFC, BS -/

/-- FCSR.RM (R37). -/
def Thread.rm (t : Thread) : Nat := t.fcsr.toNat / 32 % 8

/-- OR flags into FCSR (R38). -/
def Thread.raise (t : Thread) (fl : BitVec 5) : Thread := { t with fcsr := t.fcsr ||| fl.setWidth 64 }

/-- Add saturation events to OVFC, which stops at 0xFFFF_FFFF (R45, R46). -/
def Thread.addOvf (t : Thread) (n : Nat) : Thread :=
  if n = 0 then t else { t with ovfc := BitVec.ofNat 64 (min (t.ovfc.toNat + n) 0xFFFF_FFFF) }

/-- Bank status codes (R67). -/
def bsOK : BitVec 3 := 0
def bsEMPTY : BitVec 3 := 1
def bsFULL : BitVec 3 := 2
def bsABSENT : BitVec 3 := 3
def bsRECONF : BitVec 3 := 4
def bsOVERCOUNT : BitVec 3 := 5
def bsBUSY : BitVec 3 := 6

/-- The mode an rm field selects: FCSR.RM for 7 (R35); none when FCSR.RM then holds 4 to 7. -/
def Thread.mode (t : Thread) (rm : BitVec 3) : Option Mode :=
  if rm = 7 then (if t.rm < 4 then some t.rm else none) else some rm.toNat

/-! ## Elements -/

/-- Bits of an element of a view or stream format (R48, R175). -/
def elemBits (view : Nat) : Nat :=
  match view with
  | 3 | 4 | 11 => 16
  | 5 | 6 | 9 | 10 => 8
  | 7 | 8 => 4
  | 13 => 1
  | _ => 32

/-- Does a store of the format round (R35, R50)? -/
def viewRounds (view : Nat) : Bool := view == 3 || view == 4 || view == 5 || view == 6 || view == 7

/-- The value of MXFP4 code c with scale byte sc as FP32 (R39, R49): beyond FP32 it is an infinity. -/
def mxDecode (c sc : Nat) : Word32 :=
  if sc = 255 then defaultNaN32
  else
    match e2m1.decode c with
    | .num s m e => (round32 0 ⟨s, m, e + ((sc : Int) - 127), false⟩).v
    | _ => defaultNaN32

/-- The value of a codebook entry as FP32 (R40). -/
def cbEntry (cb : List (BitVec 16)) (c : Nat) : Word32 := widen bf16 (cb.getD c 0).toNat

/-- Decode a stored element to 32 bits (R49). `sc` is the scale byte of MXFP4. -/
def decodeElem (view : Nat) (cb : List (BitVec 16)) (sc raw : Nat) : Word32 :=
  match view with
  | 3 => widen bf16 raw
  | 4 => widen fp16 raw
  | 5 => widen e4m3 raw
  | 6 => widen e5m2 raw
  | 7 => mxDecode raw sc
  | 8 => cbEntry cb raw
  | 9 => (BitVec.ofNat 8 raw).signExtend 32
  | 11 => (BitVec.ofNat 16 raw).signExtend 32
  | _ => BitVec.ofNat 32 raw

/-- An encoded element: its bits, flags, saturation events, and a new scale byte if it sets one. -/
structure Enc where
  raw : Nat
  fl : BitVec 5 := 0
  ev : Nat := 0
  scale : Option Nat := none
  deriving DecidableEq, Repr

def encSat (f : Fmt) (mode : Mode) (x : Word32) : Enc :=
  let (b, fl, ev) := f.sat mode x.toNat
  ⟨b, fl, if ev then 1 else 0, none⟩

def encInt (bits : Nat) (lo hi : Int) (x : Word32) : Enc :=
  let (v, fl, ev) := satInt lo hi x.toInt
  ⟨(v % 2 ^ bits).toNat, fl, if ev then 1 else 0, none⟩

/-- A store to the MXFP4 view under the block's scale (R50; DEDUCED, assumption 14). -/
def encMx (mode : Mode) (sc : Nat) (x : Word32) : Enc :=
  match val32 x with
  | .nan s fr => ⟨if s then 8 else 0, if fr < 2 ^ 22 then fNV else 0, 0, some 255⟩
  | .inf s => ⟨e2m1.maxFinite s, fOF ||| fNX, 1, none⟩
  | .num s m e =>
    let d : Int := if sc = 255 then 0 else (sc : Int) - 127
    let (b, fl, ev) := e2m1.satNum mode ⟨s, m, e - d, false⟩
    ⟨b, fl, if ev then 1 else 0, none⟩

/-- An exact finite value as a multiple of 2^-200. -/
def fine (v : FV) : Int := match v with | .num s m e => scaled s m e (-200) | _ => 0

/-- Less than, over the extended reals. -/
def FV.lt (a b : FV) : Bool := ltFV a b

/-- The better of two candidates (code, value) for x, the earlier winning ties: finite x. -/
def nearer (x : Int) (best : Option (Nat × FV)) (c : Nat × FV) : Option (Nat × FV) :=
  match c.2, best with
  | .num _ _ _, none => some c
  | .num _ _ _, some b => if (x - fine c.2).natAbs < (x - fine b.2).natAbs then some c else best
  | _, _ => best

def greatest (best : Option (Nat × FV)) (c : Nat × FV) : Option (Nat × FV) :=
  match best with | none => some c | some b => if b.2.lt c.2 then some c else best

def least (best : Option (Nat × FV)) (c : Nat × FV) : Option (Nat × FV) :=
  match best with | none => some c | some b => if c.2.lt b.2 then some c else best

def FV.isNaN : FV → Bool | .nan _ _ => true | _ => false
def FV.isNum : FV → Bool | .num _ _ _ => true | _ => false

/-- A CB4 store (R50): the code of the nearest entry, with the flags and events of its table. -/
def encCb (cb : List (BitVec 16)) (x : Word32) : Enc :=
  let es := (List.range 16).map (fun c => (c, val32 (cbEntry cb c)))
  let cand := es.filter (fun c => !c.2.isNaN)
  let v := val32 x
  if v.isNaN then
    match es.find? (fun c => c.2.isNaN) with
    | some c => ⟨c.1, if isSNaN32 x then fNV else 0, 0, none⟩
    | none => ⟨0, fNV, 1, none⟩
  else
    match cand.foldl greatest none, cand.foldl least none with
    | some g, some l =>
      let far := if x.msb then l else g
      let pick :=
        if v.isNum then (cand.foldl (nearer (fine v)) none).getD far
        else (cand.find? (fun c => eqFV c.2 v)).getD far
      if eqFV pick.2 v then ⟨pick.1, 0, 0, none⟩
      else if v.isNum && !(g.2.lt v) && !(v.lt l.2) then ⟨pick.1, fNX, 0, none⟩
      else ⟨pick.1, fOF ||| fNX, 1, none⟩
    | _, _ => ⟨0, fNV, 1, none⟩

/-- Encode 32 bits as an element (R50). -/
def encodeElem (view : Nat) (mode : Mode) (cb : List (BitVec 16)) (sc : Nat) (x : Word32) : Enc :=
  match view with
  | 3 => encSat bf16 mode x
  | 4 => encSat fp16 mode x
  | 5 => encSat e4m3 mode x
  | 6 => encSat e5m2 mode x
  | 7 => encMx mode sc x
  | 8 => encCb cb x
  | 9 => encInt 8 (-128) 127 x
  | 10 => encInt 8 0 255 x
  | 11 => encInt 16 (-32768) 32767 x
  | 13 => ⟨if x = 0 then 0 else 1, 0, 0, none⟩
  | _ => ⟨x.toNat, 0, 0, none⟩

/-- The 16 entries of codebook register CBKn (R42). -/
def Thread.codebook (t : Thread) (n : Nat) : List (BitVec 16) :=
  (List.range 16).map (fun c => ((t.cbk[4 * n + c / 4]?).getD 0 >>> (16 * (c % 4))).setWidth 16)

end Sys2Proof.Machine
end

