-- ==== Sys2Proof/Machine/Regs.lean ====
section
/-!
DEFINITION. Machine/Regs.lean: the registers of one thread. Every read and write of x, f and g goes through here: x0 reads
0 and discards writes (R63), and f24 to f31 are stream views while their stream is configured (R63, R179).
-/
namespace Sys2Proof.Machine

/-- Read x[r]: x0 reads 0. -/
def Thread.rx (t : Thread) (r : Reg) : Word := if r = 0 then 0 else t.x[r.toNat]'(by have := r.isLt; omega)

/-- Write x[r]: a write to x0 is discarded. -/
def Thread.wx (t : Thread) (r : Reg) (v : Word) : Thread :=
  if r = 0 then t else { t with x := t.x.set r.toNat v (by have := r.isLt; omega) }

/-- Read g[n]. -/
def Thread.rg (t : Thread) (n : Nat) : BitVec 128 := (t.g[n]?).getD 0

def Thread.wg (t : Thread) (n : Nat) (v : BitVec 128) : Thread := { t with g := t.g.setIfInBounds n v }

/-! ## Streams as registers -/

def Stream.fmt (st : Stream) : Nat := st.mode.toNat % 16
def Stream.dir (st : Stream) : Nat := st.mode.toNat / 4096 % 4
/-- Elements in all (R175). -/
def Stream.total (st : Stream) : Nat := st.count * st.rows
def Stream.remaining (st : Stream) : Nat := st.total - st.pos

def Thread.stream (t : Thread) (n : Nat) : Stream := (t.streams[n]?).getD {}

def Thread.putStream (t : Thread) (n : Nat) (st : Stream) : Thread :=
  { t with streams := t.streams.setIfInBounds n st }

/-- The stream that an f register is a view of, while it is configured. -/
def Thread.viewOf (t : Thread) (r : Reg) : Option Nat :=
  if 24 ≤ r.toNat ∧ (t.stream (r.toNat - 24)).configured then some (r.toNat - 24) else none

/-- A scalar instruction may not pop this stream (R179). -/
def Stream.noPop (st : Stream) : Bool := st.dir != 0 || st.isIndex

/-- Pop the next element of stream n (R179): its value, or the fault it carries, or nothing yet. -/
def Thread.pop (t : Thread) (n : Nat) : Option (Elem × Thread) :=
  let st := t.stream n
  match alook st.fetched st.pos with
  | none => none
  | some e => some (e, t.putStream n { st with fetched := adel st.fetched st.pos, pos := st.pos + 1 })

/-- The next element has been read. -/
def Stream.ready (st : Stream) : Bool := (alook st.fetched st.pos).isSome

/-- A stream takes back m elements and discards what it has fetched; an indexed stream that is read gives the indexes of all these back to
its index stream, which may be indexed in turn (R184). The first number bounds the chain. -/
def Thread.giveBack (t : Thread) : Nat → Nat → Nat → Thread
  | 0, _, _ => t
  | d + 1, n, m =>
    let st := t.stream n
    let t' := t.putStream n { st with pos := st.pos - m, fetched := [] }
    if st.indexed && st.dir != 1 then t'.giveBack d st.link (m + st.fetched.length) else t'

/-- Discard what a stream has fetched and not consumed (R180). -/
def Thread.unfetch (t : Thread) (n : Nat) : Thread := t.giveBack 8 n 0

/-- Address of an element of an indexed stream from its index (R184). -/
def Stream.indexedEa (st : Stream) (idx : Word32) : Word := st.base + idx.signExtend 64 * st.stride

/-- Push bits [31:0] of a value into write stream n (R179): encoded under the latched mode, its flags ORed into FCSR and
its events added to OVFC. An MXFP4 element is encoded when it is performed, since its scale is read then (R180); the
index of an indexed element is taken now (R184). A push to a full stream is dropped (assumption 12; DEDUCED, assumption 10). -/
def Thread.push (t : Thread) (n : Nat) (v : Word32) : Thread :=
  let st := t.stream n
  if st.remaining = 0 then t
  else
    let e := if st.fmt = 7 then (⟨v.toNat, 0, 0, none⟩ : Enc) else encodeElem st.fmt st.rm.toNat st.codebook 0 v
    if st.indexed then
      match t.pop st.link with
      | some (.ok i, t') =>
        (t'.putStream n { st with pos := st.pos + 1,
                                  produced := st.produced ++ [(st.pos, BitVec.ofNat 32 e.raw, some (st.indexedEa i))] }
          |>.raise e.fl).addOvf e.ev
      | some (.bad c tv, t') => t'.putStream n { st with pos := st.pos + 1, mark := some (st.mark.getD (c, tv)) }
      | none => t
    else
      (t.putStream n { st with pos := st.pos + 1, produced := st.produced ++ [(st.pos, BitVec.ofNat 32 e.raw, none)] }
        |>.raise e.fl).addOvf e.ev

/-- Write f[r], a push while its stream is configured. -/
def Thread.wf (t : Thread) (r : Reg) (v : Word) : Thread :=
  match t.viewOf r with
  | some n => t.push n (v.setWidth 32)
  | none => { t with f := t.f.set r.toNat v (by have := r.isLt; omega) }

/-- The plain f register. -/
def Thread.rf (t : Thread) (r : Reg) : Word := t.f[r.toNat]'(by have := r.isLt; omega)

/-- Write an FP32 result: bits [63:32] are 0 (R63). -/
def Thread.wf32 (t : Thread) (r : Reg) (v : Word32) : Thread := t.wf r (v.setWidth 64)

/-- A fault: its cause code and TVAL. -/
abbrev Trap := Byte × Word

/-- Cause codes (R314). -/
def cILLOP : Byte := 0x01
def cPRIV : Byte := 0x02
def cALIGN : Byte := 0x03
def cSEGLIM : Byte := 0x04
def cSEGRIGHT : Byte := 0x05
def cBADWIN : Byte := 0x06
def cPAGER : Byte := 0x08
def cPAGEW : Byte := 0x09
def cPAGEX : Byte := 0x0A
def cPAGEA : Byte := 0x0B
def cPAGEP : Byte := 0x0C
def cILLCFG : Byte := 0x10
def cSTREAM : Byte := 0x11
def cSPARSE : Byte := 0x12
def cLEASE : Byte := 0x13
def cSCOPE : Byte := 0x14
def cMCGRP : Byte := 0x15
def cPOISON : Byte := 0x18
def cBRK : Byte := 0x20
def cTRAP : Byte := 0x21
def cASLEEP : Byte := 0x22
def cLOGFULL : Byte := 0x23
def cDOUBLE : Byte := 0x24

/-- A fault at issue, and the stream whose fault mark or faulted element it raises and so clears (R181). -/
structure Fail where
  trap : Trap
  mark : Option Nat := none
  deriving DecidableEq, Repr

/-- What reading an f register gives. -/
inductive FRead where
  | ok (v : Word) (t : Thread)
  | trap (c : Fail)
  /-- the element has not arrived (R179) -/
  | wait

/-- Read f[r] as an operand: a pop while its stream is configured (R179, R181). -/
def Thread.readF (t : Thread) (r : Reg) : FRead :=
  match t.viewOf r with
  | none => .ok (t.rf r) t
  | some n =>
    let st := t.stream n
    match st.mark with
    | some (c, tv) => .trap ⟨(c, tv), some n⟩
    | none =>
      if st.noPop || st.remaining = 0 then .trap ⟨(cSTREAM, BitVec.ofNat 64 n), none⟩
      else
        match t.pop n with
        | none => .wait
        | some (.ok v, t') => .ok (v.setWidth 64) t'
        | some (.bad c tv, _) => .trap ⟨(c, tv), some n⟩

/-- Read several f registers in order. -/
def Thread.readFs (t : Thread) : List Reg → Except (Option Fail) (List Word × Thread)
  | [] => .ok ([], t)
  | r :: rs =>
    match t.readF r with
    | .trap c => .error (some c)
    | .wait => .error none
    | .ok v t' =>
      match t'.readFs rs with
      | .error e => .error e
      | .ok (vs, t'') => .ok (v :: vs, t'')

/-- A stream that will be pushed: the fault of a push at issue (R179, R181). Pushes still pending count (assumption 12). -/
def Thread.checkPush (t : Thread) (r : Reg) : Option Fail :=
  match t.viewOf r with
  | none => none
  | some n =>
    let st := t.stream n
    match st.mark with
    | some c => some ⟨c, some n⟩
    | none =>
      let pending := (t.pend.filter (fun p => (cls p.ins).fdst == some r)).length
      if st.dir != 1 || st.remaining ≤ pending then some ⟨(cSTREAM, BitVec.ofNat 64 n), none⟩ else none

/-- The index of an indexed write stream has arrived, so that a push can take it (R184). -/
def Thread.canPush (t : Thread) (r : Reg) : Bool :=
  match t.viewOf r with
  | none => true
  | some n =>
    let st := t.stream n
    !st.indexed || st.remaining = 0 || (t.stream st.link).ready

/-- The stream has raised a fault (R181): its mark is cleared, and a faulted element is read again by the restarted instruction. -/
def Thread.clearMark (t : Thread) (n : Nat) : Thread :=
  let t' := t.unfetch n
  t'.putStream n { t'.stream n with mark := none }

/-! ## TSW, CAUSE and the like -/

def bit (b : Bool) (i : Nat) : Nat := if b then 2 ^ i else 0

/-- A V-format instruction of the thread is pending (R66). -/
def Thread.vb (t : Thread) : Bool := t.pend.any (fun p => (cls p.ins).vec && p.phase != .withdrawn)

/-- TSW as software reads it (R66). -/
def Thread.tsw (t : Thread) : Word :=
  BitVec.ofNat 64 (t.bs.toNat + bit t.vb 3 + bit t.sys 4 + bit t.tm 5 + bit t.mig 6)

/-- The CAUSE layout (R70). -/
def causeWord (code : Byte) (late : Bool) (lad : Nat) : Word :=
  BitVec.ofNat 64 (code.toNat + 256 * min lad 15 + bit late 12)

/-- In rotation (R93): running, not stopped and not asleep or parked. -/
def Phase.sleeps (p : Phase) : Bool :=
  match p with | .asleep | .retry | .parked | .leaving => true | _ => false

def Thread.asleep (t : Thread) : Bool := t.pend.any (fun p => p.phase == .asleep || p.phase == .retry)
def Thread.parked (t : Thread) : Bool := t.fetchPark.isSome || t.pend.any (fun p => p.phase == .parked)
def Thread.inRotation (t : Thread) : Bool :=
  t.st == .run && t.yieldUntil.isNone && !t.frozen && t.fetchPark.isNone && !t.pend.any (fun p => p.phase.sleeps)

/-- The state of R93 as a number: 0 Idle, 1 in rotation, 2 Asleep, 3 Parked, 4 Trapped. -/
def Thread.stateCode (t : Thread) : Nat :=
  match t.st with
  | .idle => 0
  | .trapped => 4
  | .run => if t.parked then 3 else if t.inRotation || t.frozen then 1 else 2

end Sys2Proof.Machine
end

