-- ==== Sys2Proof/Machine/Ops.lean ====
section
/-!
DEFINITION. Machine/Ops.lean: the units of the package, the inbox, an instruction in flight and its completion, taking a
trap (R310, R313) and returning from one (R322).
-/
namespace Sys2Proof.Machine

abbrev Out := Host.Outcome State Fault Refusal

/-! ## Units -/

/-- A core as reset leaves it: slot 15 runs at system privilege (R66, R94; DESIGN CHOICE, assumption 4). -/
def Core.fresh : Core := { slots := (Vector.replicate 16 ({} : Thread)).set 15 { sys := true } }

/-- The segment of the system kind over a core's own registers, with P (R312): rights R and W over register numbers below
0x1000. -/
def systemSeg (c : Nat) : BitVec 128 :=
  BitVec.ofNat 128 (2 ^ 120 + 2 ^ 117 + 2 ^ 116 + 0x8000 * 2 ^ 64 + 2 ^ 51 + 4 * 2 ^ 48 + c % 64 * 2 ^ 38 + c / 64 * 2 ^ 33)

/-- The segment table that the boot firmware supplies to slot 15 of a core: g7 is the one that R312 describes, as the skeleton
there assumes (DESIGN CHOICE, assumption 18). -/
def firmwareTable (c : Nat) : Vector (BitVec 128) 8 :=
  Vector.ofFn (fun i : Fin 8 => if i.val = 7 then systemSeg c else Config.firmwareSegs i.val)

/-- The address at which the service loop takes a fault routine back: x1 of a routine holds it (R332), so that JALR can return there
(R106). -/
def returnPc : Word := Config.firmwareReturn &&& 0xFFFF_FFFF_FFFF_FFFC

/-- Slot 15 of a core asleep in the HALT of the service loop, as boot leaves it (R312, R352). -/
def haltThread (c now : Nat) : Thread :=
  { st := .run, sys := true, pc := Config.firmwarePc, g := firmwareTable c, busy := now, home := c
    homeSlot := 15, pend := [{ id := 0, pc := Config.firmwarePc, ins := .halt 10, cover := 0, phase := .asleep }] }

/-- A core as its release leaves it (R352 step 8): the service loop is resident in slot 15 (DEDUCED, assumption 26,
DESIGN CHOICE, assumption 46). -/
def Core.released (c : Nat) : Core :=
  { slots := (Vector.replicate 16 ({} : Thread)).set 15 (haltThread c 0), firmware := true }

/-- Cores of a package (R9, R13): 32 clusters of 64 cores, 8 clusters to a die, 4 cores to a quad. -/
def coreCount : Nat := 2048

/-- Application core n of the control die is held as core 2,048 + n, with its one thread in slot 0 (R6, R7; PRESUMED,
assumption 51). -/
def appCore (n : Nat) : Nat := coreCount + n % 16

def State.core (s : State) (c : Nat) : Core :=
  (alook s.cores c).getD (if s.booted && decide (c < coreCount) then Core.released c else Core.fresh)
def State.putCore (s : State) (c : Nat) (k : Core) : State := { s with cores := aset s.cores c k }
def State.modCore (s : State) (c : Nat) (f : Core → Core) : State := s.putCore c (f (s.core c))

def Core.slot (k : Core) (n : Nat) : Thread := (k.slots[n]?).getD {}
def Core.putSlot (k : Core) (n : Nat) (t : Thread) : Core := { k with slots := k.slots.setIfInBounds n t }

def State.thr (s : State) (c k : Nat) : Thread := (s.core c).slot k
def State.putThr (s : State) (c k : Nat) (t : Thread) : State := s.putCore c ((s.core c).putSlot k t)
def State.modThr (s : State) (c k : Nat) (f : Thread → Thread) : State := s.putThr c k (f (s.thr c k))

/-- EPC, CAUSE and TVAL belong to the slot (R65, R70): a thread that takes one finds those it had. -/
def Thread.inSlotOf (t old : Thread) : Thread := { t with epc := old.epc, cause := old.cause, tval := old.tval }

/-- A thread takes a slot, or the slot becomes Idle or held. -/
def State.seat (s : State) (c k : Nat) (t : Thread) : State := s.modThr c k (fun u => t.inSlotOf u)
def Core.seat (x : Core) (k : Nat) (t : Thread) : Core := x.putSlot k (t.inSlotOf (x.slot k))

/-- The thread that is executing. -/
def State.me (s : State) : Thread := s.thr s.curCore s.curSlot
def State.putMe (s : State) (t : Thread) : State := s.putThr s.curCore s.curSlot t

def State.cluster (s : State) (n : Nat) : Cluster := (alook s.clusters n).getD {}
def State.putCluster (s : State) (n : Nat) (k : Cluster) : State := { s with clusters := aset s.clusters n k }
def State.modCluster (s : State) (n : Nat) (f : Cluster → Cluster) : State := s.putCluster n (f (s.cluster n))

def State.die (s : State) (n : Nat) : Die := (alook s.dies n).getD {}
def State.putDie (s : State) (n : Nat) (d : Die) : State := { s with dies := aset s.dies n d }

def State.vf (s : State) (n : Nat) : VF := (alook s.vfs n).getD {}
def State.putVf (s : State) (n : Nat) (v : VF) : State := { s with vfs := aset s.vfs n v }
def State.modVf (s : State) (n : Nat) (f : VF → VF) : State := s.putVf n (f (s.vf n))

def clusterOf (c : Nat) : Nat := c / 64
def dieOf (c : Nat) : Nat := c / 512
def quadOf (c : Nat) : Nat := c / 4

/-- The virtual function that owns a quad (R333); function 0 owns a quad that was never reassigned. -/
def State.quadOwner (s : State) (q : Nat) : Nat := (alook s.quads q).getD 0
/-- Number under which the control die's own page tables stand: its application cores belong to no virtual function (R333;
PRESUMED, assumption 51). -/
def controlDie : Nat := 512
def State.owner (s : State) (c : Nat) : Nat := if c < coreCount then s.quadOwner (quadOf c) else controlDie

/-- The cluster of a core is out of service (R355). -/
def State.coreOut (s : State) (c : Nat) : Bool := (s.cluster (clusterOf c)).out

/-- The quad of a core is being reset, so accesses from others are held (R350). -/
def State.quadDown (s : State) (c : Nat) : Bool := (s.cluster (clusterOf c)).resetting.contains (quadOf c)

/-- The rotation of this cycle is gated (R354; DEDUCED, assumption 28). -/
def State.gated (s : State) : Bool := decide (s.cycle / 16 % 16 < s.gates.headD 0)

/-- An error that is not corrected is logged to the control die (R349). -/
def State.logError (s : State) (e : ErrClass) (unit : Nat) : State := { s with errors := s.errors ++ [(e, unit)] }

/-- COREID[15:0] of a core (R68). -/
def State.coreId (s : State) (c : Nat) : Nat := s.pkg.toNat * 2048 + c

/-- A core of this package that belongs to a virtual function. -/
def State.isCoreOf (s : State) (c vf : Nat) : Bool := decide (c < coreCount) && s.owner c == vf

/-! ## Instructions in flight -/

/-- Result of an outcome alone. -/
def Result.status (b : BitVec 3) : Result := { bs := some b }

def Thread.pending (t : Thread) (id : Nat) : Option Pending := t.pend.find? (fun p => p.id == id)

def Thread.modPend (t : Thread) (id : Nat) (f : Pending → Pending) : Thread :=
  { t with pend := t.pend.map (fun p => if p.id = id then f p else p) }

def Thread.dropPend (t : Thread) (id : Nat) : Thread := { t with pend := t.pend.filter (fun p => p.id != id) }

def State.pending (s : State) (r : Ref) : Option Pending := (s.thr r.core r.slot).pending r.id

/-- A thread that was out of rotation and no longer is comes back in the next cycle (R93). -/
def Thread.backFrom (t old : Thread) (now : Nat) : Thread :=
  if t.inRotation && !old.inRotation then { t with back := now + 1 } else t

/-- Change an instruction in flight; its thread may wake by it. -/
def State.modPend (s : State) (r : Ref) (f : Pending → Pending) : State :=
  s.modThr r.core r.slot (fun t => (t.modPend r.id f).backFrom t s.cycle)

def State.setPhase (s : State) (r : Ref) (ph : Phase) : State := s.modPend r (fun p => { p with phase := ph })

/-- The instruction has been performed with this result. -/
def State.finish (s : State) (r : Ref) (res : Result) : State := s.setPhase r (.done res)

/-- The instruction has raised a late fault (R61; DEDUCED, assumption 11). -/
def State.lateFail (s : State) (r : Ref) (code : Byte) (tval : Word) : State := s.setPhase r (.fault code tval)

/-- Write what an instruction writes when it completes (R38, R59, R67). -/
def Thread.apply (t : Thread) (r : Result) : Thread :=
  let t := r.x.foldl (fun t p => t.wx p.1 p.2) t
  let t := r.f.foldl (fun t p => t.wf p.1 p.2) t
  let t := match r.g with | some (n, v) => t.wg n v | none => t
  let t := match r.bs with | some b => { t with bs := b } | none => t
  (t.raise r.flags).addOvf r.ovf

/-- Complete an instruction: write its result and leave the list of those in flight. -/
def State.completePend (s : State) (r : Ref) (res : Result) : State :=
  s.modThr r.core r.slot (fun t => (t.dropPend r.id).apply res)

/-- Put an instruction in flight; its number is the state's next. -/
def State.addPend (s : State) (c k : Nat) (p : Pending) : State :=
  { s.modThr c k (fun t => { t with pend := t.pend ++ [{ p with id := s.nextId }] }) with nextId := s.nextId + 1 }

/-! ## Program order (R161) -/

/-- The access is over: performed, or a late fault. -/
def Phase.over (p : Phase) : Bool := match p with | .done _ | .fault _ _ => true | _ => false

/-- Bytes that an access covers for the order of R161. A BANKJOIN whose descriptor is still to be read covers the longest: a
doubleword and 16 members (R153). -/
def Pending.span (p : Pending) : Nat := match p.ins with | .bankjoin _ _ => 136 | _ => p.ops.n

/-- Tenant byte ranges of two accesses overlap. -/
def overlaps (p q : Pending) : Bool :=
  decide (0 < p.span ∧ 0 < q.span ∧ p.ops.ta < q.ops.ta + q.span ∧ q.ops.ta < p.ops.ta + p.span)

/-- An access may be performed: no earlier access of its thread that overlaps it is outstanding. -/
def Thread.mayPerform (t : Thread) (p : Pending) : Bool :=
  !t.pend.any (fun q => decide (q.id < p.id) && q.mem && !q.phase.over && overlaps p q)

/-! ## Token buckets (R335, R337) -/

/-- A bucket whose RATE is all ones neither holds nor spends tokens (R335). -/
def unlimited (q : Word) : Bool := q.toNat % 2 ^ 32 == 2 ^ 32 - 1

/-- The value of a bucket register that governs now (R337), and the tokens that the bucket holds. -/
def Core.bucketNow (x : Core) (res : Nat) : Word := if res = 0 then x.qhbmNow else x.qnetNow
def Core.tokens (x : Core) (res : Nat) : Nat := if res = 0 then x.hbmTok else x.netTok

/-- A line may leave the core's port: the bucket is unlimited or holds a token. -/
def Core.hasToken (x : Core) (res : Nat) : Bool :=
  if res = 0 then unlimited x.qhbmNow || decide (0 < x.hbmTok) else unlimited x.qnetNow || decide (0 < x.netTok)

/-- The launch a handle names, while its entry has that generation (R231). -/
def handleDie (h : BitVec 32) : Nat := h.toNat / 2 ^ 30
def handleEntry (h : BitVec 32) : Nat := h.toNat / 2 ^ 22 % 256

def State.launchOf (s : State) (h : BitVec 32) : Option Launch :=
  match alook (s.die (handleDie h)).launches (handleEntry h) with
  | some l => if l.handle = h then some l else none
  | none => none

/-! ## The inbox (R140) -/

def Core.inboxRoom (k : Core) : Bool := decide (k.inbox.length < 1024)

def Msg.words (m : Msg) : List Entry := [m.d0, m.d1, m.d2, m.d3]

def Msg.ofEntries (l : List Entry) : Msg := ⟨l.getD 0 ⟨0, false⟩, l.getD 1 ⟨0, false⟩, l.getD 2 ⟨0, false⟩, l.getD 3 ⟨0, false⟩⟩

def Msg.ofWords (a b c d : Word) : Msg := ⟨⟨a, false⟩, ⟨b, false⟩, ⟨c, false⟩, ⟨d, false⟩⟩

/-- A DQ has its message (R155): with ra = 0 it is done or consumes poison, otherwise its record is still to be written. TVAL of
POISON with ra = 0 is 0, since an inbox message has no ea (DEDUCED, assumption 52). -/
def dqGot (p : Pending) (m : Msg) : Pending :=
  let p := { p with ops := { p.ops with got := m.words, stage := 1 }, phase := .flight }
  match p.ins with
  | .dq d a _ _ =>
    if a ≠ 0 then p
    else if m.d0.poison then { p with phase := .fault cPOISON p.ops.ea }
    else { p with phase := .done { x := [(d, m.d0.d)], bs := some bsOK } }
  | _ => p

/-- Serve the oldest thread asleep in DQ.W while there is a message (R155). `n` bounds the number served. -/
def State.serveInbox (s : State) (c : Nat) : Nat → State
  | 0 => s
  | n + 1 =>
    let k := s.core c
    match k.inbox, k.dqWaiters with
    | m :: ms, r :: rs =>
      ((s.putCore c { k with inbox := ms, dqWaiters := rs }).modPend r (fun p => dqGot p m)).serveInbox c n
    | _, _ => s

/-- Put a message into an inbox that has room. -/
def State.enqueue (s : State) (c : Nat) (m : Msg) : State :=
  (s.modCore c (fun k => { k with inbox := k.inbox ++ [m] })).serveInbox c 1

/-- A message of the hardware: held by its source while the inbox is full or its quad is being reset, never lost (R140,
R350). -/
def State.hwPost (s : State) (c : Nat) (m : Msg) : State :=
  let k := s.core c
  if k.inboxRoom && k.hwHeld.isEmpty && !s.quadDown c then s.enqueue c m else s.putCore c { k with hwHeld := k.hwHeld ++ [m] }

/-- The package cycle counter as a doubleword (R23). -/
def State.stamp (s : State) : Word := BitVec.ofNat 64 s.cycle

/-- An array message (R205). -/
def State.arrayMsg (s : State) (c : Nat) (kind func seq status : Nat) (addr : Word) (events : Nat) : State :=
  s.hwPost c (.ofWords (BitVec.ofNat 64 (kind + 256 * func + 2 ^ 16 * seq + 2 ^ 32 * status)) addr
    (BitVec.ofNat 64 (events % 2 ^ 32)) s.stamp)

/-! ## Taking a trap and returning from it -/

/-- Withdraw a slot's requests from the SFU queue; the instructions stay with the thread (R198; DEDUCED, assumption 19). -/
def State.withdrawSfu (s : State) (c k : Nat) : State :=
  let ids := ((s.core c).sfu.filter (fun q => q.slot == k)).map (·.id)
  (s.modCore c (fun x => { x with sfu := x.sfu.filter (fun q => q.slot != k) })).modThr c k
    (fun t => { t with pend := t.pend.map (fun p => if ids.contains p.id then { p with phase := .withdrawn } else p) })

/-- Report to the control die (R313, R316, R358). -/
def State.report (s : State) (r : Report) : State := { s with reports := s.reports ++ [r] }

/-- A double trap: slot 15 has no handler (R313). -/
def State.doubleTrap (s : State) (c : Nat) (epc cause : Word) : State :=
  ((s.modCore c (fun k => { k with depc := epc, dcause := cause, stopped := true })).modThr c 15
    (fun t => { t with stop := none })).report ⟨c, 15, BitVec.ofNat 64 cDOUBLE.toNat, epc, cause⟩

/-- Take a trap (R310): EPC, CAUSE and TVAL of the slot are written and the thread becomes Trapped; its request to slot 15
is that it is Trapped and HALT has not returned it (R311). `xw` is the XEC word to execute again (R325; DEDUCED,
assumption 19). -/
def State.takeTrap (s : State) (c k : Nat) (code : Byte) (tval epc : Word) (late : Bool) (lad : Nat) (xw : Option Word32) :
    State :=
  let cause := causeWord code late lad
  if k = 15 then s.doubleTrap c epc cause
  else
    (s.withdrawSfu c k).modThr c k (fun t =>
      { t with st := .trapped, returned := false, told := false, epc := epc, cause := cause, tval := tval, pc := epc, stop := none,
               xw := xw, yieldUntil := none, fetchPark := none, passed := none })

/-- Nothing of the thread is in flight but requests withdrawn from the SFU, or still in its queue (R198). -/
def Thread.settled (t : Thread) : Bool := t.pend.all (fun p => p.phase == .withdrawn || (cls p.ins).sfu)

/-- A fault at issue (R310): at once when nothing is in flight, otherwise once every earlier access has been performed
(DEDUCED, assumption 19). -/
def State.faultNow (s : State) (c k : Nat) (code : Byte) (tval : Word) : State :=
  let t := s.thr c k
  if t.settled then s.takeTrap c k code tval t.pc false 0 t.xw
  else s.putThr c k { t with stop := some { code := code, tval := tval, epc := t.pc, xw := t.xw.isSome } }

/-- Join the SFU queue (R197): a request of n elements; its elements begin after those of the request ahead of it. -/
def State.joinSfu (s : State) (c k id n : Nat) : State :=
  s.modCore c (fun x =>
    let start := match x.sfu.getLast? with
      | some q => max s.cycle (q.begins + (q.n + 15) / 16)
      | none => s.cycle
    { x with sfu := x.sfu ++ [⟨k, id, n, start⟩] })

/-- A slot's withdrawn requests join the tail of the SFU queue; what had been read of the sources of a vector request is read again
(R198). -/
def State.rejoinSfu (s : State) (c k : Nat) : State :=
  let back := (s.thr c k).pend.filter (fun p => p.phase == .withdrawn && (cls p.ins).sfu)
  let s := s.modThr c k (fun t => (back.flatMap (fun p => p.names.drop 1)).foldl Thread.unfetch t)
  back.foldl (fun s p => (s.joinSfu c k p.id p.elems).setPhase ⟨c, k, p.id⟩ .queued) s

/-- A stop that was asked for while another waited comes due (R319). -/
def Thread.nextStop (t : Thread) : Thread :=
  match t.later with
  | (code, tval) :: r => { t with later := r, stop := some { code := code, tval := tval, epc := t.pc, xw := t.xw.isSome, asked := true } }
  | [] => t

/-- Leave Trapped and resume at EPC (R322). -/
def State.resume (s : State) (c k : Nat) : State :=
  (s.modThr c k (fun t => ({ t with st := .run, pc := t.epc, returned := false, back := s.cycle + 1 } : Thread).nextStop)).rejoinSfu c k

end Sys2Proof.Machine
end

