-- ==== Sys2Proof/Machine/Operands.lean ====
section
/-!
DEFINITION. Machine/Operands.lean: effective addresses, the segment checks of R115, the fields of a tenant address (R116),
and what each kind and view accepts (R117, R118, R120 to R122, R48): steps 3 to 6 of R119, made at issue.
-/
namespace Sys2Proof.Machine

/-! ## Segment descriptors (R64) -/

def segBase (g : BitVec 128) : Nat := g.toNat % 2 ^ 52
def segLimit (g : BitVec 128) : Nat := g.toNat / 2 ^ 64 % 2 ^ 52
def segR (g : BitVec 128) : Bool := g.getLsbD 116
def segW (g : BitVec 128) : Bool := g.getLsbD 117
def segX (g : BitVec 128) : Bool := g.getLsbD 118
def segA (g : BitVec 128) : Bool := g.getLsbD 119
def segP (g : BitVec 128) : Bool := g.getLsbD 120
def segT (g : BitVec 128) : Bool := g.getLsbD 121
def segF (g : BitVec 128) : Bool := g.getLsbD 122

/-- A reserved field of a descriptor is non-zero. -/
def segReserved (g : BitVec 128) : Bool := g.toNat / 2 ^ 52 % 2 ^ 12 != 0 || g.toNat / 2 ^ 123 != 0

/-- The segment an address selects (R115). -/
def Thread.segOf (t : Thread) (ea : Word) : BitVec 128 := t.rg (ea.toNat / 2 ^ 61)
def eaOffset (ea : Word) : Nat := ea.toNat % 2 ^ 61

/-! ## Fields of a tenant address (R116) -/

def taOnChip (ta : Nat) : Bool := ta / 2 ^ 51 % 2 == 1
def taKind (ta : Nat) : Nat := ta / 2 ^ 48 % 8
def taView (ta : Nat) : Nat := ta / 2 ^ 44 % 16
def taCore (ta : Nat) : Nat := ta / 2 ^ 38 % 64
def taCluster (ta : Nat) : Nat := ta / 2 ^ 33 % 32
def taReserved (ta : Nat) : Nat := ta / 2 ^ 32 % 2
def taOffset (ta : Nat) : Nat := ta % 2 ^ 32

/-- A format window (R116). -/
def isWindow (view : Nat) : Bool := decide (2 ≤ view ∧ view ≤ 13)

/-- The sorts of access that differ in what they may name. -/
inductive AccSort where
  /-- LD, ST, LDF, STF -/
  | plain
  | atomic
  /-- a full/empty instruction -/
  | fullEmpty
  /-- SEGLD, the record read by SEND, SPAWN and TSEND, a descriptor read by BANKJOIN: raw or paged -/
  | record
  /-- the record written by DQ and TNEXT: raw view only -/
  | rawRecord
  /-- BANKCFG, BANKQ: an address in a bank -/
  | bank
  deriving DecidableEq, Repr

/-- What an access needs (R115, R119). -/
structure Need where
  ea : Word
  /-- bytes covered, and the multiple its address must be of -/
  n : Nat
  align : Nat
  sort : AccSort := .plain
  r : Bool := false
  w : Bool := false
  a : Bool := false
  f : Bool := false
  /-- the access writes memory, so the timed thread needs T (R115) -/
  needT : Bool := false
  /-- an extent of the engines: of a striped one, the first and the last byte alone are checked (R262) -/
  ends : Bool := false
  /-- LD.W, LD.WU, ST.W, LDF.W or STF.W: allowed through a format window (R48) -/
  win : Bool := false
  /-- LD.D, ST.D, LDF.D or STF.D: allowed through the structured view (R147) -/
  dbl : Bool := false
  /-- LD.D or ST.D: allowed through the system kind (R117) -/
  sysOk : Bool := false
  deriving DecidableEq, Repr

/-- Step 3 of R119: rights, P, and the P that a system-kind address needs. -/
def rightsOk (t : Thread) (g : BitVec 128) (nd : Need) (ta : Nat) : Bool :=
  (!nd.r || segR g) && (!nd.w || segW g) && (!nd.a || segA g) && (!nd.f || segF g) &&
  (!(nd.needT && t.tm) || segT g) && (!segP g || t.sys) &&
  (!(taOnChip ta && taKind ta == 4 && decide (ta < 2 ^ 52)) || segP g)

/-- Step 5 of R119: the multiple, the sizes a view allows (R147), the instructions a format window allows (R48). -/
def alignOk (nd : Need) (ta : Nat) : Bool :=
  ta % nd.align == 0 &&
  (if !taOnChip ta then true
   else if taKind ta = 4 && nd.sort == .plain && !nd.sysOk then false
   else if taView ta = 1 then nd.sort != .plain || nd.dbl
   else if isWindow (taView ta) then nd.win
   else true)

/-- Number of per-core system registers (R65, R117): readable through the system kind. -/
def perCoreReg (n : Nat) : Bool :=
  n == 0x30 || n == 0x38 || (decide (0x100 ≤ n ∧ n < 0x140) && n % 4 != 3) || n == 0x140 || n == 0x141 || n == 0x200 ||
  decide (0x210 ≤ n ∧ n ≤ 0x213) || n == 0x220 || decide (0x240 ≤ n ∧ n ≤ 0x243)

/-- Last byte of element e of a window, counted from raw offset 0 of its space (R48). -/
def elemEnd (view e : Nat) : Nat := (e * elemBits view + elemBits view + 7) / 8

/-- The target of a core's scratchpad through a view (R48, R120, R121). `size` is the space the kind reaches (DEDUCED,
assumption 42). -/
def coreTarget (s : State) (vf core size ta : Nat) (nd : Need) : Option Target :=
  let off := taOffset ta
  let view := taView ta
  if !s.isCoreOf core vf then none
  else if view = 0 then (if off + nd.n ≤ size then some (.raw core off) else none)
  else if view = 1 then
    if (nd.sort == .plain || nd.sort == .bank) && decide (off / 2 ^ 28 < 8)
    then some (.structured core (off / 2 ^ 28) (off / 2 ^ 6 % 2 ^ 22) (off / 8 % 8))
    else none
  else if isWindow view then
    let e := off / 4 % 2 ^ 28
    let cb := off / 2 ^ 30
    if (view ≠ 8 ∧ cb ≠ 0) ∨ size < elemEnd view e then none else some (.window view core false e cb)
  else none

/-- Bytes of a cluster's striped window (R18). -/
def stripedSize : Nat := 0xA00000

/-- Every line of n bytes at an offset of a striped window lies on a core of the tenant (R118, R122); `ends` asks it of the first
and the last alone (R262). -/
def State.stripedOwn (s : State) (vf cl off n : Nat) (ends : Bool) : Bool :=
  let own := fun (line : Nat) => s.isCoreOf (64 * cl + line % 64) vf
  let lines := (off + max n 1 - 1) / 128 + 1 - off / 128
  if ends then own (off / 128) && own (off / 128 + lines - 1) else (List.range (min 64 lines)).all (fun i => own (off / 128 + i))

/-- The target of a striped address (R117, R118, R122). -/
def stripedTarget (s : State) (vf cl ta : Nat) (nd : Need) : Option Target :=
  let off := taOffset ta
  let view := taView ta
  if nd.sort == .bank then none
  else if view = 0 then
    let (k, o) := stripedAt off
    if off + nd.n ≤ stripedSize ∧ s.stripedOwn vf cl off nd.n nd.ends then some (.raw (64 * cl + k) o) else none
  else if isWindow view then
    let e := off / 4 % 2 ^ 28
    let cb := off / 2 ^ 30
    let k := (stripedAt (e * elemBits view / 8)).1
    if (view ≠ 8 ∧ cb ≠ 0) ∨ stripedSize < elemEnd view e ∨ !s.isCoreOf (64 * cl + k) vf then none
    else some (.window view cl true e cb)
  else none

/-- Step 6 of R119 for a thread that runs on `core`: fields, kind, view, offset range and ownership (DEDUCED, assumption 42). -/
def targetOf (s : State) (core ta : Nat) (nd : Need) : Option Target :=
  let vf := s.owner core
  let cl := clusterOf core
  if !taOnChip ta then
    (if nd.sort == .fullEmpty || nd.sort == .bank || nd.sort == .rawRecord then none else some (.paged ta))
  else if taReserved ta ≠ 0 ∨ (nd.sort == .rawRecord && taView ta != 0) ∨ (nd.sort == .record && taView ta != 0) then none
  else
    match taKind ta with
    | 0 => if taCore ta = 0 ∧ taCluster ta = 0 then coreTarget s vf core scratchSize ta nd else none
    | 1 => if taCluster ta = 0 then coreTarget s vf (64 * cl + taCore ta) 0x40000 ta nd else none
    | 2 => if taCore ta = 0 ∧ taCluster ta = 0 then stripedTarget s vf cl ta nd else none
    | 3 =>
      let tc := 64 * taCluster ta + taCore ta
      if taCluster ta = cl then coreTarget s vf tc 0x40000 ta nd
      else (coreTarget s vf tc scratchSize ta nd).map (fun _ => .foreign tc ta)
    | 4 =>
      let tc := 64 * taCluster ta + taCore ta
      let off := taOffset ta
      if taView ta = 0 ∧ nd.sysOk ∧ off / 2 ^ 15 = 0 ∧ off % 8 = 0 ∧ perCoreReg (off / 8) ∧
          (s.isCoreOf tc vf ∨ (coreCount ≤ core ∧ tc < coreCount))
      then some (.sysreg tc (off / 8)) else none
    | _ => none

/-- Steps 3 to 6 of R119: the tenant address and what it names, or the fault with TVAL ea. -/
def resolve (s : State) (core : Nat) (t : Thread) (nd : Need) : Except Trap (Nat × Target) :=
  let g := t.segOf nd.ea
  let ta := segBase g + eaOffset nd.ea
  if !rightsOk t g nd ta then .error (cSEGRIGHT, nd.ea)
  else if segLimit g < eaOffset nd.ea + nd.n ∨ 2 ^ 52 ≤ ta then .error (cSEGLIM, nd.ea)
  else if !alignOk nd ta then .error (cALIGN, nd.ea)
  else
    match targetOf s core ta nd with
    | none => .error (cBADWIN, nd.ea)
    | some tgt => .ok (ta, tgt)

/-- Which bank of a core a target lies in, if it lies in one. -/
def Target.bank (t : Target) : Option (Nat × Nat) :=
  match t with
  | .raw c off => some (c, off / bankSize)
  | .structured c b _ _ => some (c, b)
  | _ => Option.none

/-! ## Migration (R125) -/

/-- The thread holds its cluster's array lease. One that has lost its thread (R201) is held by nobody, whoever takes the slot. -/
def State.holdsLease (s : State) (c k : Nat) : Bool :=
  match (s.cluster (clusterOf c)).lease with
  | some l => l.core == c && l.slot == k && !l.orphan
  | none => false

/-- The first configured stream. -/
def Thread.firstStream (t : Thread) : Option Nat := (List.range 8).find? (fun n => (t.stream n).configured)

/-- Why the thread may not leave its core (R125); TVAL of BADWIN is `tv`. -/
def State.mayLeave (s : State) (c k : Nat) (tv : Word) : Option Trap :=
  let t := s.thr c k
  if t.tm then some (cBADWIN, tv)
  else
    match t.firstStream with
    | some n => some (cSTREAM, BitVec.ofNat 64 n)
    | none => if s.holdsLease c k then some (cLEASE, 0) else none

/-! ## Sign extension (R56) -/

def sext8 (i : BitVec 8) : Word := i.signExtend 64
def sext16 (i : BitVec 16) : Word := i.signExtend 64

/-- Effective address of the M and S formats (R56, R147). -/
def eaDisp (base : Word) (i : BitVec 8) (n : Nat) : Word := base + sext8 i * BitVec.ofNat 64 n

/-- Relative targets (R56). -/
def relTarget (pc : Word) (i : BitVec 16) : Word := pc + sext16 i * 4
def relTarget21 (pc : Word) (i : BitVec 21) : Word := pc + i.signExtend 64 * 4

end Sys2Proof.Machine
end

