-- ==== Sys2Proof/Machine/Issue.lean ====
section
/-!
DEFINITION. Machine/Issue.lean: what holds an instruction back, and its issue: the checks common to all (R76, R290), the
fault at issue (R310), the advance of the PC, the occupancy (R97), and the windows of lookahead (R59).
-/
namespace Sys2Proof.Machine

/-! ## What each memory instruction needs -/

/-- Bytes of a load by its size field (R71). -/
def loadSize (s : BitVec 3) : Nat := if s.toNat < 2 then 1 else if s.toNat < 4 then 2 else if s.toNat < 6 then 4 else 8

/-- Bytes of a store by its size field (R71). -/
def storeSize (s : BitVec 3) : Nat := 2 ^ s.toNat

/-- Bytes of an atomic (R149). -/
def amoSize (z : BitVec 1) : Nat := if z = 1 then 8 else 4

def needLoad (t : Thread) (a : Reg) (s : BitVec 3) (i : BitVec 8) : Need :=
  let n := loadSize s
  { ea := eaDisp (t.rx a) i n, n := n, align := n, r := true, win := n == 4, dbl := n == 8, sysOk := n == 8 }

def needStore (t : Thread) (a : Reg) (s : BitVec 3) (i : BitVec 8) : Need :=
  let n := storeSize s
  { ea := eaDisp (t.rx a) i n, n := n, align := n, w := true, needT := true, win := n == 4, dbl := n == 8, sysOk := n == 8 }

def needAmo (t : Thread) (a : Reg) (z : BitVec 1) : Need :=
  { ea := t.rx a, n := amoSize z, align := amoSize z, sort := .atomic, r := true, w := true, a := true, needT := true }

/-- Full/empty instructions (R115, R148). -/
def needFe (t : Thread) (a : Reg) (i : BitVec 8) (n : Nat) (r w : Bool) : Need :=
  { ea := eaDisp (t.rx a) i 8, n := n, align := 8, sort := .fullEmpty, r := r, w := w, f := true, needT := w }

/-- A 32-byte record read by SEND, SPAWN or TSEND, or a descriptor (R115). -/
def needRecord (ea : Word) (n align : Nat) : Need := { ea := ea, n := n, align := align, sort := .record, r := true }

/-- A 32-byte record written by DQ or TNEXT (R155, R307). -/
def needRawRecord (ea : Word) (needT : Bool) : Need :=
  { ea := ea, n := 32, align := 32, sort := .rawRecord, w := true, needT := needT }

def needBank (ea : Word) (w : Bool) : Need :=
  { ea := ea, n := 8, align := 8, sort := .bank, r := !w, w := w, needT := w }

/-- The access of an instruction, if it makes one through a segment. -/
def needOf (i : Instr) (t : Thread) : Option Need :=
  match i with
  | .ld _ a _ _ s i => some (needLoad t a s i)
  | .st _ a _ _ s i => some (needStore t a s i)
  | .ldf _ a _ _ s i => some { needLoad t a s i with sysOk := false }
  | .stf _ a _ _ s i => some { needStore t a s i with sysOk := false }
  | .ldfe _ a _ i => some (needFe t a i 8 true true)
  | .ldff _ a _ i => some (needFe t a i 8 true false)
  | .stef _ a _ i => some (needFe t a i 8 false true)
  | .stff _ a _ i => some (needFe t a i 8 false true)
  | .sete c a _ i => some (needFe t a i (8 * (t.rx c).toNat) false true)
  | .setf c a _ i => some (needFe t a i (8 * (t.rx c).toNat) false true)
  | .amoadd _ a _ _ z => some (needAmo t a z)
  | .amoand _ a _ _ z => some (needAmo t a z)
  | .amoor _ a _ _ z => some (needAmo t a z)
  | .amoxor _ a _ _ z => some (needAmo t a z)
  | .amomin _ a _ _ z => some (needAmo t a z)
  | .amomax _ a _ _ z => some (needAmo t a z)
  | .amoswap _ a _ _ z => some (needAmo t a z)
  | .cas _ a _ _ z => some (needAmo t a z)
  | .segld _ a _ => some (needRecord (t.rx a) 16 16)
  | .bankcfg _ a _ _ _ => some (needBank (t.rx a) true)
  | .bankq _ a _ => some (needBank (t.rx a) false)
  | .bankjoin a _ => some (needRecord (t.rx a) 8 8)
  | .send _ a _ => some (needRecord (t.rx a) 32 32)
  | .dq _ a _ _ => if a = 0 then none else some (needRawRecord (t.rx a) true)
  | .spawn _ a _ => some (needRecord (t.rx a) 32 32)
  | .tsend _ a _ _ => some (needRecord (t.rx a) 32 32)
  | .tnext _ a => if a = 0 then none else some (needRawRecord (t.rx a) false)
  | _ => none

/-- Does the access name a core of another cluster, so that it moves the thread (R123)? -/
def leavesCore (i : Instr) (s : State) : Bool :=
  match needOf i s.me with
  | none => false
  | some nd => match resolve s s.curCore s.me nd with | .ok (_, .foreign _ _) => true | _ => false

/-! ## Held back -/

/-- A thread on the core, other than slot k, that carries a block tag, in a slot or saved, or a slot held for one (R241). -/
def Core.othersOf (x : Core) (k : Nat) (g : Tag) : Bool :=
  (List.range 16).any (fun n => n != k && ((x.slot n).st != .idle || (x.slot n).held) && (x.slot n).tag == g) ||
  x.tcc.any (fun e => e.2.th.tag == g)

/-- A RELAUNCH has been accepted and its patch is not written yet (R240, R241). A request that is pending until its poster's own launch
or run ends is none: the end would wait for itself (DESIGN CHOICE, assumption 37). -/
def State.patchDue (s : State) (f : Run → Bool) : Bool :=
  s.traces.any (fun t =>
    (match t.2.run with | some r => !r.decided && f r | none => false) ||
    (match t.2.queued with
     | some r => f r && (s.launchOf r.tag.handle).bind (fun l => l.trace) != some t.1
     | none => false))

/-- Engine posts and array commands that a block issued on a core and that have not finished writing (R241). -/
def State.postsOf (s : State) (c : Nat) (g : Tag) : Bool :=
  let k := s.cluster (clusterOf c)
  (k.engineQ ++ k.engineRun).any (fun p => p.core == c && p.tag == g) || k.xfers.any (fun x => x.core == c && x.tag == g) ||
    k.cmds.any (fun x => x.ref.core == c && x.tag == g) || s.patchDue (fun r => r.core == c && r.tag == g)

/-- The gang that a core is part of, if its slot 0 has not given its part up. -/
def State.gangOf (s : State) (c : Nat) : Option Gang :=
  (s.cluster (clusterOf c)).gangs.find? (fun g => g.out.isNone && g.quads.contains (quadOf c) && !g.gone.contains c)

/-- Nothing that a stream has produced is still to be performed. -/
def Thread.streamsDry (t : Thread) : Bool := t.streams.toList.all (fun st => st.produced.isEmpty)

/-- The conditions of TMODE.off, leaving aside the sleep in TNEXT (R289, R305). -/
def VTime.idle (v : VTime) : Bool := v.inbox.isEmpty && v.log.isEmpty && v.out.isEmpty

/-- The counted commands of R201. -/
def counted (i : Instr) : Bool :=
  match i with
  | .mloadb _ _ _ _ | .mcb _ _ _ | .mzero _ _ _ _ | .mma _ _ _ _ _ _ | .mmas _ _ _ _ _ _ | .mepi _ _ _ _ _ | .mprog _ _
  | .mrec _ _ _ _ _ | .mocmp _ _ _ _ _ | .btld _ _ _ | .btst _ _ _ | .btand _ _ _ _ | .btor _ _ _ _ | .btxor _ _ _ _
  | .btnot _ _ _ | .bttrn _ _ _ | .btcomp _ _ _ _ | .btclo _ _ _ _ | .btrc _ _ _ _ => true
  | _ => false

/-- Counted commands of the thread that have not completed (R201). -/
def Thread.arrayBusy (t : Thread) : Bool :=
  t.pend.any (fun p => counted p.ins && (match p.phase with | .done _ => false | .fault _ _ => false | _ => true))

/-- An array command is queued, or its transfer runs on (R210). -/
def State.arrayLive (s : State) (id : Nat) : Bool :=
  s.clusters.any (fun k => k.2.xfers.any (fun x => x.id == id) || k.2.cmds.any (fun c => c.ref.id == id))

/-- Waits that only some instructions have. -/
def extraHeld (i : Instr) (s : State) : Bool :=
  let t := s.me
  let x := s.core s.curCore
  match i with
  | .exit => !t.streamsDry
  | .fence sc => sc == 4 && s.posted.any (fun q => q.of t)
  | .vfence => !t.streamsDry
  | .srel n _ _ =>
    let st := t.stream n.toNat
    st.configured && (!st.produced.isEmpty || t.pend.any (fun p => p.names.contains n.toNat))
  | .tmodeOn _ =>
    x.vt.isNone && (x.slot 14).st == .idle && !(x.slot 14).held &&
      (t.pend.any (fun p => p.mem && (match p.phase with | .done _ => false | _ => true)) ||
        (s.vf (s.owner s.curCore)).round || x.gvtCopy != (s.vf (s.owner s.curCore)).gvt)
  | .mfree _ => t.arrayBusy
  | .cred _ _ _ p => decide (2 ≤ p.w1.toNat ∧ 2 ≤ fldN p.w2 4 3) && !x.hasToken 1
  | .cbcast _ _ _ _ p => decide (2 ≤ p.w1.toNat ∧ 2 ≤ fldN p.w2 4 3) && !x.hasToken 1
  | .mwait _ =>
    t.arrayBusy || t.arrayIds.any s.arrayLive
  | _ => false

/-- The elements that the instruction pops have arrived, and so has the index of one that it pushes (R179, R184). -/
def Thread.streamsReady (t : Thread) (k : Cls) : Bool :=
  (match t.readFs k.fsrc with | .error none => false | _ => true) &&
  (match k.fdst with | some d => t.canPush d | none => true)

/-- A pending V-format instruction names a stream that the scalar instruction reads or writes (R60). -/
def Thread.vConflict (t : Thread) (k : Cls) : Bool :=
  (k.fsrc ++ k.fdst.toList).any (fun r => 24 ≤ r.toNat && t.pend.any (fun p => p.names.contains (r.toNat - 24)))

/-- A scope that SCOPEPOL allows (R163). -/
def State.scopeOk (s : State) (scope : Nat) : Bool :=
  let pol := (s.vf (s.owner s.curCore)).scopepol
  match scope with
  | 0 | 1 => true
  | 2 => pol.getLsbD 2
  | 3 => pol.getLsbD 3
  | 4 => pol.getLsbD 4
  | _ => false

/-- Slot 0 at home: the control thread (R232, R245). -/
def State.control (s : State) : Bool := s.curSlot == 0 && !s.me.mig

/-- Extent check of an access that the instruction has checked before it waits. -/
def State.extent (s : State) (nd : Need) : Option Fail :=
  match resolve s s.curCore s.me nd with
  | .error tr => some ⟨tr, none⟩
  | .ok _ => none

/-- Control word of CRED: OP, TYP, scope (R347). -/
def credCtlOk (w2 : Word32) : Bool := fldN w2 0 2 != 3 && fldN w2 3 1 == 0 && fldN w2 7 25 == 0 && decide (fldN w2 4 3 < 5)

/-- Control word of CBCAST: ROOT, scope (R348). -/
def cbcastCtlOk (w2 w3 : Word32) : Bool :=
  fldN w2 0 3 == 0 && fldN w2 7 25 == 0 && decide (fldN w2 4 3 < 5) && w3.toNat % 8 == 0 && decide (w3.toNat ≤ 4096)

/-- The buffer of CBCAST (R348): the root reads it, every other participant writes it. -/
def needCbcast (t : Thread) (b : Reg) (p : Params) : Need :=
  let root := fldN p.w2 3 1 == 1
  { ea := t.rx b, n := p.w3.toNat, align := 8, sort := .record, r := root, w := !root, needT := !root }

/-- The line whose fetches ICINV invalidates: a checked address with right X (R326, R119 steps 3 to 6). It is no access of an
instruction that a format window allows (R48). -/
def State.needX (s : State) (t : Thread) (ea : Word) : Option Fail :=
  let g := t.segOf ea
  let ta := segBase g + eaOffset ea
  if !segX g || (segP g && !t.sys) || (taOnChip ta && taKind ta == 4 && decide (ta < 2 ^ 52) && !segP g) then
    some ⟨(cSEGRIGHT, ea), none⟩
  else if segLimit g ≤ eaOffset ea ∨ 2 ^ 52 ≤ ta then some ⟨(cSEGLIM, ea), none⟩
  else if taOnChip ta && isWindow (taView ta) then some ⟨(cALIGN, ea), none⟩
  else if (targetOf s s.curCore ta { ea := ea, n := 1, align := 1, sort := .record }).isNone then some ⟨(cBADWIN, ea), none⟩
  else none

/-- Checks that an instruction makes before it waits for earlier accesses. -/
def earlyCheck (i : Instr) (s : State) : Option Fail :=
  let t := s.me
  let word : Word := i.word.setWidth 64
  let bad := fun (c : Byte) (v : Word) => some (⟨(c, v), none⟩ : Fail)
  match i with
  | .fence sc => if t.passed.isSome || s.scopeOk sc.toNat then none else bad cSCOPE word
  | .start _ _ => if s.control then none else bad cPRIV word
  | .bar a _ =>
    let n := (t.rx a).toNat
    match (if t.member then (s.cluster (clusterOf t.home)).gangs.find? (fun g => g.handle == t.tag.handle && g.block == t.tag.block)
           else none) with
    | none => bad cILLCFG word
    | some g => if n < 1 ∨ 16 * (4 * g.quads.length) < n then bad cILLCFG (t.rx a) else none
  | .cred _ _ _ p =>
    if t.passed.isSome then none else
    if !credCtlOk p.w2 then bad cILLOP word else if s.scopeOk (fldN p.w2 4 3) then none else bad cSCOPE word
  | .cbcast _ _ b _ p =>
    if t.passed.isSome then none else
    if !cbcastCtlOk p.w2 p.w3 then bad cILLOP word
    else if !s.scopeOk (fldN p.w2 4 3) then bad cSCOPE word
    else s.extent (needCbcast t b p)
  | .spawn r _ _ => if (t.rx r).toNat < 2 ^ 16 then none else bad cBADWIN (t.rx r)
  | .icinv a => if a = 0 then none else s.needX t (t.rx a)
  | .tlbinv _ => if t.sys then none else bad cPRIV word
  | .tmodeOn a =>
    if !s.control then bad cPRIV word else if (t.rx a).toNat % 4 ≠ 0 then bad cALIGN (t.rx a) else none
  | .swapctx _ _ => if s.curSlot = 15 then none else bad cPRIV word
  | .swapctxOut _ _ => if s.curSlot = 15 then none else bad cPRIV word
  | .swapctxIn _ _ => if s.curSlot = 15 then none else bad cPRIV word
  | .srel n _ _ => if (t.stream n.toNat).isIndex then bad cSTREAM (n.setWidth 64) else none
  | _ => none

/-- The instruction cannot issue yet: a window of lookahead is exhausted (R59), an earlier non-relaxed access is outstanding
(R158, R168, R233), a V-format instruction is pending (R60), an element has not arrived (R179), the SFU queue is full
(R197), or the timed thread must roll back first (R295; DEDUCED, assumption 24). -/
def blocked (i : Instr) (s : State) : Bool :=
  let t := s.me
  let k := cls i
  let ordered := t.pend.any (fun p => p.mem && !p.relaxed)
  t.pend.any (fun p => p.cover == 0) ||
  (t.tm && (match (s.core s.curCore).vt with | some v => v.straggler.isSome | none => false)) ||
  ((k.mem == .ordered || k.waits == .ordered) && ordered) ||
  (k.vec && t.vb) ||
  t.vConflict k ||
  !t.streamsReady k ||
  (k.sfu && decide (16 ≤ (s.core s.curCore).sfu.length))

/-- The instruction waits for earlier accesses or instructions of its thread, or for a condition of its own. -/
def waiting (i : Instr) (s : State) : Bool :=
  let t := s.me
  (match (cls i).waits with
   | .nothing => false
   | .ordered => false
   | .accesses => t.pend.any (fun p => p.mem && (match p.phase with | .done _ => false | _ => true))
   | .everything => !t.pend.isEmpty) ||
  (leavesCore i s && !t.pend.isEmpty) ||
  extraHeld i s

/-- A word that may not be executed at all: ill-formed (R76), or barred to the timed thread (R290). -/
def barred (i : Instr) (s : State) : Bool := !i.wf || (s.me.tm && !(cls i).timed)

/-- The thread stays where it is: it is Waiting (R93). -/
def held (i : Instr) (s : State) : Bool :=
  blocked i s || (!barred i s && (earlyCheck i s).isNone && waiting i s)

/-- It checks its scope at issue and waits only then (R163, R346). -/
def checksScope (i : Instr) : Bool := match i with | .fence _ | .cred _ _ _ _ | .cbcast _ _ _ _ _ => true | _ => false

/-- It issues, passes the check of its scope, and is to wait (R163). -/
def passes (i : Instr) (s : State) : Bool := checksScope i && s.me.passed.isNone && !blocked i s && held i s

/-! ## Issue -/

/-- What the meaning of an instruction of a thread gives at issue. -/
inductive Act where
  /-- done, or in flight: the thread goes on at the next sequential PC -/
  | ok (s : State)
  /-- a taken control transfer -/
  | jump (s : State) (target : Word)
  /-- the thread has left its slot, or the meaning has set its PC itself -/
  | gone (s : State)
  | trap (f : Fail)

/-- A fault without a stream. -/
def Act.fail (code : Byte) (tval : Word) : Act := .trap ⟨(code, tval), none⟩

/-- TVAL of ILLOP and PRIV: the instruction word (R70). -/
def wordVal (i : Instr) : Word := i.word.setWidth 64

def Act.illop (i : Instr) : Act := .fail cILLOP (wordVal i)
def Act.priv (i : Instr) : Act := .fail cPRIV (wordVal i)

/-- How an instruction older than `old` ages when another issues: its window shrinks, or closes at a taken branch (R59). -/
def Pending.age (old : Nat) (jump : Bool) (p : Pending) : Pending :=
  if p.id < old then { p with cover := if jump then 0 else p.cover - 1, issued := p.issued + 1 } else p

/-- The thread has issued: its PC, its occupancy (R97) and its windows. XB is cleared (R325). -/
def Thread.issued (t : Thread) (now old occ : Nat) (jump : Bool) (pc : Word) : Thread :=
  { t with pc := pc, busy := now + occ, xw := none, passed := none, pend := t.pend.map (Pending.age old jump) }

/-- A fault at issue, with the fault mark it raises cleared (R181). -/
def State.failNow (s : State) (f : Fail) : State :=
  let s := match f.mark with
    | some n => s.putMe (s.me.clearMark n)
    | none => s
  s.faultNow s.curCore s.curSlot f.trap.1 f.trap.2

/-- The sequential PC after an instruction (R54). -/
def nextPc (i : Instr) (pc : Word) : Word := pc + BitVec.ofNat 64 i.bytes

/-- The outcome of an issue. -/
def settle (i : Instr) (s : State) (a : Act) : Out :=
  let c := s.curCore
  let k := s.curSlot
  match a with
  | .ok s' => .next (s'.modThr c k (fun u => u.issued s.cycle s.nextId (cls i).occ false (nextPc i s.me.pc)))
  | .jump s' tgt => .next (s'.modThr c k (fun u => u.issued s.cycle s.nextId (cls i).occ true tgt))
  | .gone s' => .next s'
  | .trap f => .next (s.failNow f)

/-- Issue an instruction of the executing thread. An instruction that is held back changes nothing. -/
def issue (i : Instr) (s : State) (body : Thread → State → Act) : Out :=
  if held i s then .next s
  else if !i.wf then settle i s (Act.illop i)
  else if s.me.tm && !(cls i).timed then settle i s (Act.priv i)
  else
    match earlyCheck i s with
    | some f => settle i s (.trap f)
    | none => settle i s (body s.me s)

/-- Write x[d] at issue. -/
def writeX (d : Reg) (v : Word) (t : Thread) (s : State) : Act := .ok (s.putMe (t.wx d v))

/-! ## Putting an access in flight -/

/-- The operands every access carries. -/
def baseOps (s : State) (t : Thread) (nd : Need) (ta : Nat) (tgt : Target) : Operands :=
  let g := t.segOf nd.ea
  { ea := nd.ea, n := nd.n, tgt := tgt, ta := ta, core := s.curCore, wRight := segW g, tRight := segT g, sys := t.sys, tm := t.tm }

/-- An instruction of a thread, about to be put in flight. -/
def Thread.flying (t : Thread) (i : Instr) (ops : Operands) (cover : Nat) (mem relaxed : Bool) (ph : Phase) : Pending :=
  { id := 0, pc := t.pc, xw := t.xw.isSome, ins := i, cover := cover, mem := mem, relaxed := relaxed, ops := ops, phase := ph }

/-- Put an instruction of the executing thread in flight. -/
def State.fly (s : State) (i : Instr) (ops : Operands) (mem relaxed : Bool) (ph : Phase) : State :=
  s.addPend s.curCore s.curSlot (s.me.flying i ops (cls i).la mem relaxed ph)

/-- Put an instruction in flight that takes its thread to another core (R123): nothing issues under its cover. -/
def State.flyAway (s : State) (i : Instr) (ops : Operands) (mem relaxed : Bool) (dst : Nat) : State :=
  let s' := s.addPend s.curCore s.curSlot (s.me.flying i ops 0 mem relaxed .leaving)
  { s' with packets := s'.packets ++ [⟨s.curCore, s.curSlot, dst⟩] }

/-- Issue an access: its checks (R119 steps 3 to 7), then in flight, or on its way with its thread (R123, R125). -/
def access (i : Instr) (nd : Need) (fill : Operands → Operands) (t : Thread) (s : State) : Act :=
  match resolve s s.curCore t nd with
  | .error tr => .trap ⟨tr, none⟩
  | .ok (ta, tgt) =>
    let ops := fill (baseOps s t nd ta tgt)
    match tgt with
    | .foreign dst _ =>
      match s.mayLeave s.curCore s.curSlot nd.ea with
      | some tr => .trap ⟨tr, none⟩
      | none =>
        .ok (s.flyAway i ops true ((cls i).mem == .relaxed) dst)
    | _ => .ok (s.fly i ops true ((cls i).mem == .relaxed) .flight)

end Sys2Proof.Machine
end

