-- ==== Sys2Proof/Machine/Int.lean ====
section
/-!
DEFINITION. Machine/Int.lean: the integer instructions (R99 to R104). They set no flag.
-/
namespace Sys2Proof.Machine

/-! ## Values (R27, R28, R99 to R103) -/

/-- The shift count: the low six bits. -/
def shiftCount (b : Word) : Nat := b.toNat % 64

/-- 1 if a condition holds, else 0. -/
def flagWord (p : Bool) : Word := if p then 1 else 0

/-- High half of the signed product (R100). -/
def mulHigh (a b : Word) : Word := BitVec.ofInt 64 (a.toInt * b.toInt / 2 ^ 64)

/-- High half of the unsigned product (R100). -/
def mulHighU (a b : Word) : Word := BitVec.ofNat 64 (a.toNat * b.toNat / 2 ^ 64)

/-- Signed quotient by the cases of R28. -/
def divS (a b : Word) : Word := if b = 0 then BitVec.allOnes 64 else BitVec.ofInt 64 (a.toInt.tdiv b.toInt)

/-- Unsigned quotient by the cases of R28. -/
def divU (a b : Word) : Word := if b = 0 then BitVec.allOnes 64 else BitVec.ofNat 64 (a.toNat / b.toNat)

/-- Signed remainder by the cases of R28. -/
def remS (a b : Word) : Word := if b = 0 then a else BitVec.ofInt 64 (a.toInt.tmod b.toInt)

/-- Unsigned remainder by the cases of R28. -/
def remU (a b : Word) : Word := if b = 0 then a else BitVec.ofNat 64 (a.toNat % b.toNat)

/-- Zero bits above the highest one bit among the low n bits. -/
def clzFrom (a : Word) : Nat → Nat
  | 0 => 0
  | n + 1 => if a.getLsbD n then 0 else 1 + clzFrom a n

/-- Zero bits below the lowest one bit, from bit 64 - n. -/
def ctzFrom (a : Word) : Nat → Nat
  | 0 => 0
  | n + 1 => if a.getLsbD (63 - n) then 0 else 1 + ctzFrom a n

/-- One bits among the low n bits. -/
def popFrom (a : Word) : Nat → Nat
  | 0 => 0
  | n + 1 => (if a.getLsbD n then 1 else 0) + popFrom a n

/-- The field of w bits at p (R103). -/
def extract (a : Word) (p w : Nat) : Word := BitVec.ofNat 64 (a.toNat / 2 ^ p % 2 ^ w)

/-- v with the field of w bits at p replaced by the low bits of a (R103). -/
def insert (v a : Word) (p w : Nat) : Word :=
  BitVec.ofNat 64 (v.toNat % 2 ^ p + 2 ^ p * (a.toNat % 2 ^ w) + 2 ^ (p + w) * (v.toNat / 2 ^ (p + w)))

/-- Width and position of EXTR and INSR: beyond 64 bits they raise ILLOP (R103). -/
def fieldOk (w p : BitVec 6) : Bool := decide (p.toNat + (w.toNat + 1) ≤ 64)

/-- R99. x[ra] + x[rb]. -/
def execAdd (d : Reg) (a : Reg) (b : Reg) (s : State) : Out :=
  issue (.add d a b) s (fun t s => writeX d (t.rx a + t.rx b) t s)

/-- R99. x[ra] − x[rb]. -/
def execSub (d : Reg) (a : Reg) (b : Reg) (s : State) : Out :=
  issue (.sub d a b) s (fun t s => writeX d (t.rx a - t.rx b) t s)

/-- R99. Bitwise AND. -/
def execAnd (d : Reg) (a : Reg) (b : Reg) (s : State) : Out :=
  issue (.and d a b) s (fun t s => writeX d (t.rx a &&& t.rx b) t s)

/-- R99. Bitwise OR. -/
def execOr (d : Reg) (a : Reg) (b : Reg) (s : State) : Out :=
  issue (.or d a b) s (fun t s => writeX d (t.rx a ||| t.rx b) t s)

/-- R99. Bitwise XOR. -/
def execXor (d : Reg) (a : Reg) (b : Reg) (s : State) : Out :=
  issue (.xor d a b) s (fun t s => writeX d (t.rx a ^^^ t.rx b) t s)

/-- R99. Shift left by x[rb][5:0]. -/
def execSll (d : Reg) (a : Reg) (b : Reg) (s : State) : Out :=
  issue (.sll d a b) s (fun t s => writeX d (t.rx a <<< shiftCount (t.rx b)) t s)

/-- R99. Logical shift right. -/
def execSrl (d : Reg) (a : Reg) (b : Reg) (s : State) : Out :=
  issue (.srl d a b) s (fun t s => writeX d (t.rx a >>> shiftCount (t.rx b)) t s)

/-- R99. Arithmetic shift right. -/
def execSra (d : Reg) (a : Reg) (b : Reg) (s : State) : Out :=
  issue (.sra d a b) s (fun t s => writeX d ((t.rx a).sshiftRight (shiftCount (t.rx b))) t s)

/-- R99. Signed less than. -/
def execSlt (d : Reg) (a : Reg) (b : Reg) (s : State) : Out :=
  issue (.slt d a b) s (fun t s => writeX d (flagWord ((t.rx a).slt (t.rx b))) t s)

/-- R99. Unsigned less than. -/
def execSltu (d : Reg) (a : Reg) (b : Reg) (s : State) : Out :=
  issue (.sltu d a b) s (fun t s => writeX d (flagWord ((t.rx a).ult (t.rx b))) t s)

/-- R99. Signed lesser. -/
def execMin (d : Reg) (a : Reg) (b : Reg) (s : State) : Out :=
  issue (.min d a b) s (fun t s => writeX d (if (t.rx b).slt (t.rx a) then t.rx b else t.rx a) t s)

/-- R99. Signed greater. -/
def execMax (d : Reg) (a : Reg) (b : Reg) (s : State) : Out :=
  issue (.max d a b) s (fun t s => writeX d (if (t.rx a).slt (t.rx b) then t.rx b else t.rx a) t s)

/-- R99. Unsigned lesser. -/
def execMinu (d : Reg) (a : Reg) (b : Reg) (s : State) : Out :=
  issue (.minu d a b) s (fun t s => writeX d (if (t.rx b).ult (t.rx a) then t.rx b else t.rx a) t s)

/-- R99. Unsigned greater. -/
def execMaxu (d : Reg) (a : Reg) (b : Reg) (s : State) : Out :=
  issue (.maxu d a b) s (fun t s => writeX d (if (t.rx a).ult (t.rx b) then t.rx b else t.rx a) t s)

/-- R100. Low half of the product. -/
def execMul (d : Reg) (a : Reg) (b : Reg) (s : State) : Out :=
  issue (.mul d a b) s (fun t s => writeX d (t.rx a * t.rx b) t s)

/-- R100. High half, signed. -/
def execMulh (d : Reg) (a : Reg) (b : Reg) (s : State) : Out :=
  issue (.mulh d a b) s (fun t s => writeX d (mulHigh (t.rx a) (t.rx b)) t s)

/-- R100. High half, unsigned. -/
def execMulhu (d : Reg) (a : Reg) (b : Reg) (s : State) : Out :=
  issue (.mulhu d a b) s (fun t s => writeX d (mulHighU (t.rx a) (t.rx b)) t s)

/-- R100. Signed quotient. -/
def execDiv (d : Reg) (a : Reg) (b : Reg) (s : State) : Out :=
  issue (.div d a b) s (fun t s => writeX d (divS (t.rx a) (t.rx b)) t s)

/-- R100. Unsigned quotient. -/
def execDivu (d : Reg) (a : Reg) (b : Reg) (s : State) : Out :=
  issue (.divu d a b) s (fun t s => writeX d (divU (t.rx a) (t.rx b)) t s)

/-- R100. Signed remainder. -/
def execRem (d : Reg) (a : Reg) (b : Reg) (s : State) : Out :=
  issue (.rem d a b) s (fun t s => writeX d (remS (t.rx a) (t.rx b)) t s)

/-- R100. Unsigned remainder. -/
def execRemu (d : Reg) (a : Reg) (b : Reg) (s : State) : Out :=
  issue (.remu d a b) s (fun t s => writeX d (remU (t.rx a) (t.rx b)) t s)

/-- R101. Leading zeros. -/
def execClz (d : Reg) (a : Reg) (s : State) : Out :=
  issue (.clz d a) s (fun t s => writeX d (BitVec.ofNat 64 (clzFrom (t.rx a) 64)) t s)

/-- R101. Trailing zeros. -/
def execCtz (d : Reg) (a : Reg) (s : State) : Out :=
  issue (.ctz d a) s (fun t s => writeX d (BitVec.ofNat 64 (ctzFrom (t.rx a) 64)) t s)

/-- R101. Population count. -/
def execPopc (d : Reg) (a : Reg) (s : State) : Out :=
  issue (.popc d a) s (fun t s => writeX d (BitVec.ofNat 64 (popFrom (t.rx a) 64)) t s)

/-- R101. x[ra] if x[rc] is not 0, else x[rb]. -/
def execSel (d : Reg) (a : Reg) (b : Reg) (c : Reg) (s : State) : Out :=
  issue (.sel d a b c) s (fun t s => writeX d (if t.rx c ≠ 0 then t.rx a else t.rx b) t s)

/-- R102. As ADD. -/
def execAddi (d : Reg) (a : Reg) (i : BitVec 16) (s : State) : Out :=
  issue (.addi d a i) s (fun t s => writeX d (t.rx a + sext16 i) t s)

/-- R102. As AND. -/
def execAndi (d : Reg) (a : Reg) (i : BitVec 16) (s : State) : Out :=
  issue (.andi d a i) s (fun t s => writeX d (t.rx a &&& sext16 i) t s)

/-- R102. As OR. -/
def execOri (d : Reg) (a : Reg) (i : BitVec 16) (s : State) : Out :=
  issue (.ori d a i) s (fun t s => writeX d (t.rx a ||| sext16 i) t s)

/-- R102. As XOR. -/
def execXori (d : Reg) (a : Reg) (i : BitVec 16) (s : State) : Out :=
  issue (.xori d a i) s (fun t s => writeX d (t.rx a ^^^ sext16 i) t s)

/-- R102. As SLT. -/
def execSlti (d : Reg) (a : Reg) (i : BitVec 16) (s : State) : Out :=
  issue (.slti d a i) s (fun t s => writeX d (flagWord ((t.rx a).slt (sext16 i))) t s)

/-- R102. As SLTU: the sign-extended immediate is compared unsigned. -/
def execSltiu (d : Reg) (a : Reg) (i : BitVec 16) (s : State) : Out :=
  issue (.sltiu d a i) s (fun t s => writeX d (flagWord ((t.rx a).ult (sext16 i))) t s)

/-- R103. Shift left by n. -/
def execSlli (d : Reg) (a : Reg) (n : BitVec 6) (s : State) : Out :=
  issue (.slli d a n) s (fun t s => writeX d (t.rx a <<< n.toNat) t s)

/-- R103. Logical shift right by n. -/
def execSrli (d : Reg) (a : Reg) (n : BitVec 6) (s : State) : Out :=
  issue (.srli d a n) s (fun t s => writeX d (t.rx a >>> n.toNat) t s)

/-- R103. Arithmetic shift right by n. -/
def execSrai (d : Reg) (a : Reg) (n : BitVec 6) (s : State) : Out :=
  issue (.srai d a n) s (fun t s => writeX d ((t.rx a).sshiftRight n.toNat) t s)

/-- R103. The field of width w + 1 at p; ILLOP beyond bit 63. -/
def execExtr (d : Reg) (a : Reg) (w : BitVec 6) (p : BitVec 6) (s : State) : Out :=
  issue (.extr d a w p) s (fun t s => if fieldOk w p then writeX d (extract (t.rx a) p.toNat (w.toNat + 1)) t s else .illop (.extr d a w p))

/-- R103. Insert the low w + 1 bits of x[ra] at p of x[rd]; ILLOP beyond bit 63. -/
def execInsr (d : Reg) (a : Reg) (w : BitVec 6) (p : BitVec 6) (s : State) : Out :=
  issue (.insr d a w p) s (fun t s => if fieldOk w p then writeX d (insert (t.rx d) (t.rx a) p.toNat (w.toNat + 1)) t s else .illop (.insr d a w p))

/-- R104. imm16 sign-extended, times 2^16. -/
def execLui (d : Reg) (i : BitVec 16) (s : State) : Out :=
  issue (.lui d i) s (fun t s => writeX d (sext16 i <<< 16) t s)

/-- R104. PC plus imm16 × 4. -/
def execAddpc (d : Reg) (i : BitVec 16) (s : State) : Out :=
  issue (.addpc d i) s (fun t s => writeX d (relTarget t.pc i) t s)

end Sys2Proof.Machine
end

