-- ==== Sys2Proof/Machine/Control.lean ====
section
/-!
DEFINITION. Machine/Control.lean: control transfer (R105 to R107).
-/
namespace Sys2Proof.Machine

/-- A conditional branch (R105): taken to `PC + disp16 × 4`, or on to the next word. -/
def branch (p : Bool) (i : BitVec 16) (t : Thread) (s : State) : Act :=
  if p then .jump s (relTarget t.pc i) else .ok s

/-- JAL and JALR (R106): ALIGN for a target that is no multiple of 4, with rd unchanged; else the link and the jump. -/
def jumpLink (d : Reg) (target : Word) (t : Thread) (s : State) : Act :=
  if target.toNat % 4 ≠ 0 then .fail cALIGN target else .jump (s.putMe (t.wx d (t.pc + 4))) target

/-- R105. Taken when equal. -/
def execBeq (a : Reg) (b : Reg) (i : BitVec 16) (s : State) : Out :=
  issue (.beq a b i) s (fun t s => branch (t.rx a == t.rx b) i t s)

/-- R105. Taken when not equal. -/
def execBne (a : Reg) (b : Reg) (i : BitVec 16) (s : State) : Out :=
  issue (.bne a b i) s (fun t s => branch (t.rx a != t.rx b) i t s)

/-- R105. Taken when less, signed. -/
def execBlt (a : Reg) (b : Reg) (i : BitVec 16) (s : State) : Out :=
  issue (.blt a b i) s (fun t s => branch ((t.rx a).slt (t.rx b)) i t s)

/-- R105. Taken when not less, signed. -/
def execBge (a : Reg) (b : Reg) (i : BitVec 16) (s : State) : Out :=
  issue (.bge a b i) s (fun t s => branch (!(t.rx a).slt (t.rx b)) i t s)

/-- R105. Taken when less, unsigned. -/
def execBltu (a : Reg) (b : Reg) (i : BitVec 16) (s : State) : Out :=
  issue (.bltu a b i) s (fun t s => branch ((t.rx a).ult (t.rx b)) i t s)

/-- R105. Taken when not less, unsigned. -/
def execBgeu (a : Reg) (b : Reg) (i : BitVec 16) (s : State) : Out :=
  issue (.bgeu a b i) s (fun t s => branch (!(t.rx a).ult (t.rx b)) i t s)

/-- R106. To PC + disp21 × 4. -/
def execJal (d : Reg) (i : BitVec 21) (s : State) : Out :=
  issue (.jal d i) s (fun t s => jumpLink d (relTarget21 t.pc i) t s)

/-- R106. To x[ra] + imm16, read before rd is written. -/
def execJalr (d : Reg) (a : Reg) (i : BitVec 16) (s : State) : Out :=
  issue (.jalr d a i) s (fun t s => jumpLink d (t.rx a + sext16 i) t s)

/-- R107. Taken when BS is the code. -/
def execBst (c : BitVec 3) (i : BitVec 16) (s : State) : Out :=
  issue (.bst c i) s (fun t s => branch (t.bs == c) i t s)

/-- R107. Taken when BS is not the code. -/
def execBstN (c : BitVec 3) (i : BitVec 16) (s : State) : Out :=
  issue (.bstN c i) s (fun t s => branch (t.bs != c) i t s)

end Sys2Proof.Machine
end

