-- ==== Sys2Proof/Machine/Fp.lean ====
section
/-!
DEFINITION. Machine/Fp.lean: scalar floating point (R108 to R113) and the scalar SFU instructions (R114).
-/
namespace Sys2Proof.Machine

/-- Operands of an FP instruction: the f registers it reads, popped in order (R179), their low 32 bits, and the check of a
push to its destination. -/
def fpOperands (i : Instr) (t : Thread) (k : List Word → Thread → Act) : Act :=
  match t.readFs (cls i).fsrc with
  | .error (some f) => .trap f
  | .error none => .trap ⟨(cSTREAM, 0), none⟩
  | .ok (vs, t') =>
    match (cls i).fdst with
    | none => k vs t'
    | some d => match t.checkPush d with | some f => .trap f | none => k vs t'

/-- The n-th operand as FP32. -/
def op32 (vs : List Word) (n : Nat) : Word32 := (vs.getD n 0).setWidth 32

/-- A rounding instruction whose mode is not one of 0 to 3 raises ILLOP (R35). -/
def withMode (i : Instr) (rm : BitVec 3) (t : Thread) (k : Mode → Act) : Act :=
  match t.mode rm with
  | none => .illop i
  | some m => k m

/-- Write an FP32 result and its flags. -/
def writeF (d : Reg) (r : FRes) (t : Thread) (s : State) : Act := .ok (s.putMe ((t.wf32 d r.v).raise r.fl))

/-- Write an x result and flags. -/
def writeXF (d : Reg) (v : Word) (fl : BitVec 5) (t : Thread) (s : State) : Act := .ok (s.putMe ((t.wx d v).raise fl))

/-- An FP32 operation that rounds. -/
def fpRound (i : Instr) (d : Reg) (rm : BitVec 3) (f : Mode → List Word → FRes) (t : Thread) (s : State) : Act :=
  withMode i rm t (fun m => fpOperands i t (fun vs t' => writeF d (f m vs) t' s))

/-- An FP32 operation that does not round. -/
def fpPlain (i : Instr) (d : Reg) (f : List Word → FRes) (t : Thread) (s : State) : Act :=
  fpOperands i t (fun vs t' => writeF d (f vs) t' s)

/-- A comparison (R110). -/
def fpCompare (i : Instr) (d : Reg) (f : Word32 → Word32 → Bool × BitVec 5) (t : Thread) (s : State) : Act :=
  fpOperands i t (fun vs t' =>
    let r := f (op32 vs 0) (op32 vs 1)
    writeXF d (flagWord r.1) r.2 t' s)

/-- FSGN (R111): the sign of b, its opposite, or the exclusive or of both signs, over the magnitude of a. -/
def signInject (k : Nat) (a b : Word32) : Word32 :=
  let s := if k = 0 then b.msb else if k = 1 then !b.msb else a.msb != b.msb
  (a &&& 0x7FFF_FFFF#32) ||| (if s then 0x8000_0000#32 else 0)

/-- FCVT by sub (R75, R112). -/
def convert (i : Instr) (d a : Reg) (m s : BitVec 3) (t : Thread) (st : State) : Act :=
  match s.toNat with
  | 0 => fpRound i d m (fun md _ => intToF md (t.rx a).toInt) t st
  | 1 => fpRound i d m (fun md _ => intToF md (t.rx a).toNat) t st
  | 2 => withMode i m t (fun md => fpOperands i t (fun vs t' =>
      let r := fToInt md (-(2 ^ 63)) (2 ^ 63 - 1) (op32 vs 0)
      writeXF d (BitVec.ofInt 64 r.1) r.2 t' st))
  | 3 => withMode i m t (fun md => fpOperands i t (fun vs t' =>
      let r := fToInt md 0 (2 ^ 64 - 1) (op32 vs 0)
      writeXF d (BitVec.ofInt 64 r.1) r.2 t' st))
  | 4 => fpRound i d m (fun md vs => let r := fToNarrow bf16 md (op32 vs 0); ⟨BitVec.ofNat 32 r.1, r.2⟩) t st
  | 5 => fpRound i d m (fun md vs => let r := fToNarrow fp16 md (op32 vs 0); ⟨BitVec.ofNat 32 r.1, r.2⟩) t st
  | 6 => fpPlain i d (fun vs =>
      let b := (vs.getD 0 0).toNat % 2 ^ 16
      ⟨widen bf16 b, if bf16.isSNaN b then fNV else 0⟩) t st
  | _ => fpPlain i d (fun vs =>
      let b := (vs.getD 0 0).toNat % 2 ^ 16
      ⟨widen fp16 b, if fp16.isSNaN b then fNV else 0⟩) t st

/-- A scalar SFU instruction (R114): its operand is read and its request joins the queue; the result comes later. -/
def sfuIssue (i : Instr) (rm : BitVec 3) (t : Thread) (s : State) : Act :=
  withMode i rm t (fun m => fpOperands i t (fun vs t' =>
    let ops : Operands := { core := s.curCore, a := vs.getD 0 0, rm := BitVec.ofNat 3 m }
    let s' := (s.putMe t').fly i ops false false .queued
    .ok ((s'.modPend ⟨s.curCore, s.curSlot, s.nextId⟩ (fun p => { p with elems := 1 })).joinSfu s.curCore s.curSlot s.nextId 1)))

/-- R108. -/
def execFadd (d : Reg) (a : Reg) (b : Reg) (m : BitVec 3) (s : State) : Out :=
  issue (.fadd d a b m) s (fun t s => fpRound (.fadd d a b m) d m (fun md vs => fAdd md (op32 vs 0) (op32 vs 1)) t s)

/-- R108. -/
def execFsub (d : Reg) (a : Reg) (b : Reg) (m : BitVec 3) (s : State) : Out :=
  issue (.fsub d a b m) s (fun t s => fpRound (.fsub d a b m) d m (fun md vs => fSub md (op32 vs 0) (op32 vs 1)) t s)

/-- R108. -/
def execFmul (d : Reg) (a : Reg) (b : Reg) (m : BitVec 3) (s : State) : Out :=
  issue (.fmul d a b m) s (fun t s => fpRound (.fmul d a b m) d m (fun md vs => fMul md (op32 vs 0) (op32 vs 1)) t s)

/-- R108. -/
def execFdiv (d : Reg) (a : Reg) (b : Reg) (m : BitVec 3) (s : State) : Out :=
  issue (.fdiv d a b m) s (fun t s => fpRound (.fdiv d a b m) d m (fun md vs => fDiv md (op32 vs 0) (op32 vs 1)) t s)

/-- R108. -/
def execFsqrt (d : Reg) (a : Reg) (m : BitVec 3) (s : State) : Out :=
  issue (.fsqrt d a m) s (fun t s => fpRound (.fsqrt d a m) d m (fun md vs => fSqrt md (op32 vs 0)) t s)

/-- R109. -/
def execFmin (d : Reg) (a : Reg) (b : Reg) (s : State) : Out :=
  issue (.fmin d a b) s (fun t s => fpPlain (.fmin d a b) d (fun vs => fMin (op32 vs 0) (op32 vs 1)) t s)

/-- R109. -/
def execFmax (d : Reg) (a : Reg) (b : Reg) (s : State) : Out :=
  issue (.fmax d a b) s (fun t s => fpPlain (.fmax d a b) d (fun vs => fMax (op32 vs 0) (op32 vs 1)) t s)

/-- R110. -/
def execFeq (d : Reg) (a : Reg) (b : Reg) (s : State) : Out :=
  issue (.feq d a b) s (fun t s => fpCompare (.feq d a b) d fEq t s)

/-- R110. -/
def execFlt (d : Reg) (a : Reg) (b : Reg) (s : State) : Out :=
  issue (.flt d a b) s (fun t s => fpCompare (.flt d a b) d fLt t s)

/-- R110. -/
def execFle (d : Reg) (a : Reg) (b : Reg) (s : State) : Out :=
  issue (.fle d a b) s (fun t s => fpCompare (.fle d a b) d fLe t s)

/-- R110. The class mask. -/
def execFclass (d : Reg) (a : Reg) (s : State) : Out :=
  issue (.fclass d a) s (fun t s => fpOperands (.fclass d a) t (fun vs t' => writeXF d (BitVec.ofNat 64 (fClass (op32 vs 0))) 0 t' s))

/-- R111. Moves bits; raises no flag. -/
def execFsgn (d : Reg) (a : Reg) (b : Reg) (k : BitVec 3) (s : State) : Out :=
  issue (.fsgn d a b k) s (fun t s => fpPlain (.fsgn d a b k) d (fun vs => ⟨signInject k.toNat (op32 vs 0) (op32 vs 1), 0⟩) t s)

/-- R112. -/
def execFcvt (d : Reg) (a : Reg) (m : BitVec 3) (k : BitVec 3) (s : State) : Out :=
  issue (.fcvt d a m k) s (fun t s => convert (.fcvt d a m k) d a m k t s)

/-- R111. All 64 bits of f[ra] to x[rd]. -/
def execFmvxf (d : Reg) (a : Reg) (s : State) : Out :=
  issue (.fmvxf d a) s (fun t s => fpOperands (.fmvxf d a) t (fun vs t' => writeXF d (vs.getD 0 0) 0 t' s))

/-- R111. All 64 bits of x[ra] to f[rd]. -/
def execFmvfx (d : Reg) (a : Reg) (s : State) : Out :=
  issue (.fmvfx d a) s (fun t s => fpOperands (.fmvfx d a) t (fun _ t' => .ok (s.putMe (t'.wf d (t.rx a)))))

/-- R113. -/
def execFma (d : Reg) (a : Reg) (b : Reg) (c : Reg) (m : BitVec 3) (s : State) : Out :=
  issue (.fma d a b c m) s (fun t s => fpRound (.fma d a b c m) d m (fun md vs => fFused md false false (op32 vs 0) (op32 vs 1) (op32 vs 2)) t s)

/-- R113. -/
def execFms (d : Reg) (a : Reg) (b : Reg) (c : Reg) (m : BitVec 3) (s : State) : Out :=
  issue (.fms d a b c m) s (fun t s => fpRound (.fms d a b c m) d m (fun md vs => fFused md false true (op32 vs 0) (op32 vs 1) (op32 vs 2)) t s)

/-- R113. -/
def execFnma (d : Reg) (a : Reg) (b : Reg) (c : Reg) (m : BitVec 3) (s : State) : Out :=
  issue (.fnma d a b c m) s (fun t s => fpRound (.fnma d a b c m) d m (fun md vs => fFused md true true (op32 vs 0) (op32 vs 1) (op32 vs 2)) t s)

/-- R113. -/
def execFnms (d : Reg) (a : Reg) (b : Reg) (c : Reg) (m : BitVec 3) (s : State) : Out :=
  issue (.fnms d a b c m) s (fun t s => fpRound (.fnms d a b c m) d m (fun md vs => fFused md true false (op32 vs 0) (op32 vs 1) (op32 vs 2)) t s)

/-- R114. Makes its request of the SFU. -/
def execFexp (d : Reg) (a : Reg) (l : BitVec 4) (m : BitVec 3) (s : State) : Out :=
  issue (.fexp d a l m) s (fun t s => sfuIssue (.fexp d a l m) m t s)

/-- R114. Makes its request of the SFU. -/
def execFlog (d : Reg) (a : Reg) (l : BitVec 4) (m : BitVec 3) (s : State) : Out :=
  issue (.flog d a l m) s (fun t s => sfuIssue (.flog d a l m) m t s)

/-- R114. Makes its request of the SFU. -/
def execFrcp (d : Reg) (a : Reg) (l : BitVec 4) (m : BitVec 3) (s : State) : Out :=
  issue (.frcp d a l m) s (fun t s => sfuIssue (.frcp d a l m) m t s)

/-- R114. Makes its request of the SFU. -/
def execFrsq (d : Reg) (a : Reg) (l : BitVec 4) (m : BitVec 3) (s : State) : Out :=
  issue (.frsq d a l m) s (fun t s => sfuIssue (.frsq d a l m) m t s)

/-- R114. Makes its request of the SFU. -/
def execFtanh (d : Reg) (a : Reg) (l : BitVec 4) (m : BitVec 3) (s : State) : Out :=
  issue (.ftanh d a l m) s (fun t s => sfuIssue (.ftanh d a l m) m t s)

/-- R114. Makes its request of the SFU. -/
def execFsigm (d : Reg) (a : Reg) (l : BitVec 4) (m : BitVec 3) (s : State) : Out :=
  issue (.fsigm d a l m) s (fun t s => sfuIssue (.fsigm d a l m) m t s)

end Sys2Proof.Machine
end

