-- ==== Sys2Proof/Machine/SysReg.lean ====
section
/-!
DEFINITION. Machine/SysReg.lean: the system registers by number (R65 to R70, R37, R41, R42, R46, R163, R254, R287, R337,
R351), as SYSRD and SYSWR and the system kind of tenant address (R117) read and write them.
-/
namespace Sys2Proof.Machine

/-- Why an access to a system register faults. -/
inductive RegErr where
  | illop
  | priv
  deriving DecidableEq, Repr

/-- Bits [hi:lo] of a word are all 0. -/
def zeroBits (v : Word) (hi lo : Nat) : Bool := v.toNat / 2 ^ lo % 2 ^ (hi + 1 - lo) == 0

/-! ## TCC registers (R254) -/

/-- TCCCTL.LEN, DFIRST and DCOUNT. -/
def tccLen (v : Word) : Nat := v.toNat / 2 ^ 16 % 2 ^ 13
def tccFirst (v : Word) : Nat := v.toNat / 2 ^ 32 % 2 ^ 13
def tccCount (v : Word) : Nat := v.toNat % 2 ^ 7
/-- Entries of the cache: N. -/
def tccN (v : Word) : Nat := if tccLen v = 0 then 64 else tccLen v

/-- A value SYSWR may write to TCCCTL. -/
def tccCtlOk (v : Word) : Bool :=
  zeroBits v 63 45 && zeroBits v 31 29 && zeroBits v 15 7 &&
  (tccLen v == 0 || (decide (64 ≤ tccLen v) && decide (tccLen v ≤ 4096))) &&
  decide (tccCount v ≤ 64) && decide (tccFirst v + tccCount v ≤ tccN v)

def Core.tccStat (x : Core) : Word := BitVec.ofNat 64 (x.tcc.length * 2 ^ 16 + x.resident.length)

/-! ## Per-core registers -/

/-- Read a per-core register (R65): none when the number is not a per-core register. -/
def State.readCoreReg (s : State) (c n : Nat) : Option Word :=
  let x := s.core c
  if n = 0x030 then some (BitVec.ofNat 64 (s.coreId c))
  else if n = 0x038 then some x.lvt
  else if 0x100 ≤ n ∧ n < 0x140 then
    let t := x.slot ((n - 0x100) / 4)
    match n % 4 with
    | 0 => some t.epc
    | 1 => some t.cause
    | 2 => some t.tval
    | _ => none
  else if n = 0x140 then some x.depc
  else if n = 0x141 then some x.dcause
  else if n = 0x200 then some (s.vf (s.owner c)).scopepol
  else if n = 0x210 then some x.tccBase
  else if n = 0x211 then some x.tccCtl
  else if n = 0x212 then some x.tccStat
  else if n = 0x213 then some x.tccErr
  else if n = 0x220 then some x.snapCtl
  else if n = 0x240 then some x.qhbm
  else if n = 0x241 then some x.qnet
  else if n = 0x242 then some x.qwgt
  else if n = 0x243 then some (BitVec.ofNat 64 (x.netTok * 2 ^ 32 + x.hbmTok))
  else none

/-- TCCBASE and TCCCTL are written only while no entry holds a context (R254). -/
def Core.writeTcc (x : Core) (n : Nat) (v : Word) : Option Core :=
  if !x.tcc.isEmpty then none
  else if n = 0x210 then (if zeroBits v 63 51 && zeroBits v 9 0 then some { x with tccBase := v } else none)
  else if tccCtlOk v then some { x with tccCtl := v } else none

/-- QHBM and QNET: a CAP of 0 is refused (R337); QWGT has reserved bits. -/
def Core.writeQos (x : Core) (n : Nat) (v : Word) : Option Core :=
  if n = 0x240 then (if zeroBits v 63 32 then none else some { x with qhbm := v })
  else if n = 0x241 then (if zeroBits v 63 32 then none else some { x with qnet := v })
  else if n = 0x242 then (if zeroBits v 63 16 then some { x with qwgt := v } else none)
  else none

/-- SNAPCTL: EN and PIN are written, writing 1 clears FROZEN, STAMP is read-only (R351). -/
def Core.writeSnapctl (x : Core) (v : Word) : Option Core :=
  if zeroBits v 15 3 then
    let frozen := x.snapCtl.getLsbD 2 && !v.getLsbD 2
    some { x with
      snapCtl := BitVec.ofNat 64 (x.snapCtl.toNat / 2 ^ 16 * 2 ^ 16 + bit frozen 2 + bit (v.getLsbD 1) 1 + bit (v.getLsbD 0) 0)
      snap := if frozen then x.snap else none }
  else none

/-- TCCERR: only the hardware sets V; a write keeps it at most (R254). -/
def Core.writeTccErr (x : Core) (v : Word) : Option Core :=
  if zeroBits v 62 60 then
    some { x with tccErr := BitVec.ofNat 64 (v.toNat % 2 ^ 60 + bit (x.tccErr.getLsbD 63 && v.getLsbD 63) 63) }
  else none

/-- Write a per-core register: refused with ILLOP for a read-only register or a value its map does not allow (R65). -/
def State.writeCoreReg (s : State) (c n : Nat) (v : Word) : Except RegErr State :=
  let x := s.core c
  let put := fun (o : Option Core) => match o with
    | some x' => Except.ok (s.putCore c x')
    | none => Except.error RegErr.illop
  let slot := (n - 0x100) / 4
  if n = 0x200 then .error .priv
  else if 0x100 ≤ n ∧ n < 0x140 then
    match n % 4 with
    | 0 => .ok (s.modThr c slot (fun t => { t with epc := v }))
    | 1 => if zeroBits v 63 13 then .ok (s.modThr c slot (fun t => { t with cause := v })) else .error .illop
    | 2 => .ok (s.modThr c slot (fun t => { t with tval := v }))
    | _ => .error .illop
  else if n = 0x140 then put (some { x with depc := v })
  else if n = 0x141 then put (if zeroBits v 63 13 then some { x with dcause := v } else none)
  else if n = 0x210 ∨ n = 0x211 then put (x.writeTcc n v)
  else if n = 0x213 then put (x.writeTccErr v)
  else if n = 0x220 then put (x.writeSnapctl v)
  else if 0x240 ≤ n ∧ n ≤ 0x242 then put (x.writeQos n v)
  else .error .illop

/-- A new value of SCOPEPOL: its reserved bits stay 0 (R163); none otherwise. -/
def scopepolOk (v : Word) : Bool := zeroBits v 31 5 && zeroBits v 1 0

/-! ## TSW (R66) -/

/-- A write of TSW by slot k: PRIV if a user would change SYS, before the limits of the value (R76, R320); ILLOP if a read-only field
or a reserved bit would change or BS would be 7, or if slot 15 would lose SYS (R94). -/
def Thread.writeTsw (t : Thread) (k : Nat) (v : Word) : Except RegErr Thread :=
  let cur := t.tsw
  if !t.sys && v.getLsbD 4 then .error .priv
  else if !zeroBits v 63 7 || v.getLsbD 6 != cur.getLsbD 6 || v.getLsbD 5 != cur.getLsbD 5 || v.getLsbD 3 != cur.getLsbD 3 then
    .error .illop
  else if v.toNat % 8 = 7 ∨ (k = 15 ∧ !v.getLsbD 4) then .error .illop
  else .ok { t with sys := v.getLsbD 4, bs := v.setWidth 3 }

/-! ## All registers -/

/-- Per-thread registers other than TSW: read. -/
def Thread.readReg (t : Thread) (n : Nat) : Option Word :=
  if n = 0x010 then some t.fcsr
  else if n = 0x011 then some t.ovfc
  else if n = 0x012 then some t.mxsb
  else if n = 0x013 then some t.live
  else if 0x014 ≤ n ∧ n < 0x024 then t.cbk[n - 0x014]?
  else none

/-- Per-thread registers other than TSW: write, unless a reserved bit is 1. -/
def Thread.writeReg (t : Thread) (n : Nat) (v : Word) : Option Thread :=
  if n = 0x010 then (if zeroBits v 63 8 then some { t with fcsr := v } else none)
  else if n = 0x011 then (if zeroBits v 63 32 then some { t with ovfc := v } else none)
  else if n = 0x012 then (if zeroBits v 63 52 then some { t with mxsb := v } else none)
  else if n = 0x013 then (if zeroBits v 0 0 then some { t with live := v } else none)
  else if 0x014 ≤ n ∧ n < 0x024 then some { t with cbk := t.cbk.setIfInBounds (n - 0x014) v }
  else none

/-- Registers that only system privilege may access (R65). -/
def sysOnly (n : Nat) : Bool := decide (0x100 ≤ n)

/-- Is there a register of this number (R65, R337)? -/
def regExists (n : Nat) : Bool :=
  n == 0 || decide (0x010 ≤ n ∧ n < 0x024) || n == 0x030 || n == 0x031 || n == 0x038 || n == 0x039 ||
  (decide (0x100 ≤ n ∧ n < 0x140) && n % 4 != 3) || n == 0x140 || n == 0x141 || n == 0x200 ||
  decide (0x210 ≤ n ∧ n ≤ 0x213) || n == 0x220 || decide (0x240 ≤ n ∧ n ≤ 0x243)

/-- SYSRD (R65, R323; DESIGN CHOICE, assumption 4). -/
def State.readReg (s : State) (c k n : Nat) : Except RegErr Word :=
  let t := s.thr c k
  if !regExists n then .error .illop
  else if sysOnly n && !t.sys then .error .priv
  else if n = 0 then .ok t.tsw
  else if n = 0x031 then .ok (BitVec.ofNat 64 k)
  else if n = 0x039 then .ok (s.core c).gvtCopy
  else
    match t.readReg n with
    | some v => .ok v
    | none => .ok ((s.readCoreReg c n).getD 0)

/-- SYSWR (R65, R66, R323). -/
def State.writeReg (s : State) (c k n : Nat) (v : Word) : Except RegErr State :=
  let t := s.thr c k
  if !regExists n then .error .illop
  else if sysOnly n && !t.sys then .error .priv
  else if n = 0 then
    match t.writeTsw k v with
    | .ok t' => .ok (s.putThr c k t')
    | .error e => .error e
  else if n < 0x030 then
    match t.writeReg n v with
    | some t' => .ok (s.putThr c k t')
    | none => .error .illop
  else s.writeCoreReg c n v

end Sys2Proof.Machine
end

