-- ==== Sys2Proof/Machine/Bank.lean ====
section
/-!
DEFINITION. Machine/Bank.lean: the personalities of banks 0 to 7 (R127 to R129), groups of banks (R131, R132), the inverse
operations of the save log (R293), and conversions (R135), on the contents of a bank or a group as one value.
-/
namespace Sys2Proof.Machine

/-! ## Banks of the state -/

def Core.bank (x : Core) (b : Nat) : Bank := (x.banks[b]?).getD {}
def Core.putBank (x : Core) (b : Nat) (k : Bank) : Core := { x with banks := x.banks.setIfInBounds b k }
def State.bank (s : State) (c b : Nat) : Bank := (s.core c).bank b
def State.modBank (s : State) (c b : Nat) (f : Bank → Bank) : State :=
  s.modCore c (fun x => x.putBank b (f (x.bank b)))

/-- Personality code of R127: 0 PLAIN, 1 FIFO, 2 STACK, 3 HEAP, 4 MAP, 5 HIST. -/
def Pers.code (p : Pers) : Nat :=
  match p with
  | .plain => 0
  | .fifo _ => 1
  | .stack _ => 2
  | .heap _ => 3
  | .map _ => 4
  | .hist _ => 5

/-- Is the bank PLAIN (R17, R120)? Bank 15 never is, and 13 and 14 are not while virtual time is enabled. -/
def State.plainBank (s : State) (c b : Nat) : Bool :=
  if b = 15 then false
  else if b = 13 ∨ b = 14 then (s.core c).vt.isNone
  else if b < 8 then (s.bank c b).pers == .plain
  else true

/-! ## The contents of a bank or a group -/

/-- FIFO and STACK: one sequence, FIFO oldest first and STACK top first; HEAP and MAP: for each member its CAP and its
entries by rank or key; HIST: the bins of the members one after another. -/
structure Store where
  kind : Nat
  cap : Nat
  seq : List Entry := []
  start : Nat := 0
  parts : List (Nat × List (Nat × Entry)) := []
  bins : List Entry := []
  rank : Nat := 0
  deriving DecidableEq, Repr

/-- Outcome of a structured operation: BS, the datum, the new contents if they change, and the inverse (R293). -/
structure SRes where
  bs : BitVec 3 := bsOK
  datum : Option Entry := none
  st : Option Store := none
  undo : Option BankUndo := none
  deriving DecidableEq, Repr

def Store.partCount (st : Store) : Nat := st.parts.foldl (fun n p => n + p.2.length) 0

/-- Number of entries, keys or non-zero bins (R128). -/
def Store.count (st : Store) : Nat :=
  match st.kind with
  | 1 | 2 => st.seq.length
  | 3 | 4 => st.partCount
  | _ => (st.bins.filter (fun e => e.d != 0)).length

/-- The count as a datum. -/
def SRes.countOf (st : Store) : SRes := { datum := some ⟨BitVec.ofNat 64 st.count, false⟩ }

/-- HEAP key (R128). -/
def heapKey (e : Entry) : Nat := e.d.toNat / 2 ^ 32

/-- The least entry of a list: least key, then least rank. -/
def leastOf (l : List (Nat × Entry)) : Option (Nat × Entry) :=
  l.foldl (fun best p =>
    match best with
    | none => some p
    | some b => if heapKey p.2 < heapKey b.2 ∨ (heapKey p.2 = heapKey b.2 ∧ p.1 < b.1) then some p else best) none

/-- The least entry over all members, ties to the lowest member (R132): member, rank, entry. -/
def Store.least (st : Store) : Option (Nat × Nat × Entry) :=
  (List.range st.parts.length).foldl (fun best m =>
    match leastOf ((st.parts.getD m (0, [])).2), best with
    | none, _ => best
    | some p, none => some (m, p.1, p.2)
    | some p, some (_, _, e) => if heapKey p.2 < heapKey e then some (m, p.1, p.2) else best) none

/-- Change the entries of member m. -/
def Store.modPart (st : Store) (m : Nat) (f : List (Nat × Entry) → List (Nat × Entry)) : Store :=
  { st with parts := st.parts.zipIdx.map (fun p => if p.2 = m then (p.1.1, f p.1.2) else p.1) }

/-- The member with the fewest entries among those with room, ties to the lowest (R132; among those with room: DESIGN CHOICE,
assumption 53). -/
def Store.heapMember (st : Store) : Nat :=
  let room := st.parts.zipIdx.filter (fun p => decide (p.1.2.length < p.1.1))
  match room.foldl (fun best p =>
      match best with
      | none => some (p.1.2.length, p.2)
      | some b => if p.1.2.length < b.1 then some (p.1.2.length, p.2) else best) (none : Option (Nat × Nat)) with
  | some b => b.2
  | none => 0

/-- Insert by rank or key, keeping the list sorted. -/
def putSorted (l : List (Nat × Entry)) (k : Nat) (e : Entry) : List (Nat × Entry) := aset l k e

/-- The member a MAP key belongs to (R132). -/
def mapHome (k n : Nat) : Nat := k * 0x9E37 % 2 ^ 16 % n

/-- Members in ring order from a key's home. -/
def Store.ringFrom (st : Store) (k : Nat) : List Nat :=
  let n := st.parts.length
  (List.range n).map (fun i => (mapHome k n + i) % n)

/-- Where a MAP key is: member and entry. -/
def Store.find (st : Store) (k : Nat) : Option (Nat × Entry) :=
  (st.ringFrom k).findSome? (fun m => (alook (st.parts.getD m (0, [])).2 k).map (fun e => (m, e)))

/-- Put a key that is absent: at its home, or the next member in ring order that has room (R132). -/
def Store.place (st : Store) (k : Nat) (e : Entry) : Store :=
  match (st.ringFrom k).find? (fun m => decide ((st.parts.getD m (0, [])).2.length < (st.parts.getD m (0, [])).1)) with
  | some m => st.modPart m (fun l => putSorted l k e)
  | none => st

def Store.setBin (st : Store) (k : Nat) (e : Entry) : Store := { st with bins := st.bins.set k e }

/-- A structured load (R128): none for a code that the personality lacks. -/
def Store.load (st : Store) (key code : Nat) : Option SRes :=
  match st.kind, code with
  | 1, 0 =>
    match st.seq with
    | [] => some { bs := bsEMPTY }
    | e :: r => some { datum := some e, st := some { st with seq := r, start := (st.start + 1) % max st.cap 1 },
                       undo := some (.fifoPutOldest e) }
  | 1, 1 => match st.seq with | [] => some { bs := bsEMPTY } | e :: _ => some { datum := some e }
  | 2, 0 =>
    match st.seq with
    | [] => some { bs := bsEMPTY }
    | e :: r => some { datum := some e, st := some { st with seq := r }, undo := some (.stackPutTop e) }
  | 2, 1 =>
    match st.seq.getLast? with
    | none => some { bs := bsEMPTY }
    | some e => some { datum := some e, st := some { st with seq := st.seq.dropLast, start := (st.start + 1) % max st.cap 1 },
                       undo := some (.stackPutFar e) }
  | 2, 3 => match st.seq with | [] => some { bs := bsEMPTY } | e :: _ => some { datum := some e }
  | 3, 0 =>
    match st.least with
    | none => some { bs := bsEMPTY }
    | some (m, r, e) => some { datum := some e, st := some (st.modPart m (fun l => adel l r)), undo := some (.heapReinsert r e) }
  | 3, 1 => match st.least with | none => some { bs := bsEMPTY } | some (_, _, e) => some { datum := some e }
  | 4, 0 => match st.find key with | none => some { bs := bsABSENT } | some (_, e) => some { datum := some e }
  | 4, 1 =>
    match st.find key with
    | none => some { bs := bsABSENT }
    | some (m, e) => some { datum := some e, st := some (st.modPart m (fun l => adel l key)), undo := some (.mapRestore key (some e)) }
  | 5, 0 => match st.bins[key]? with | none => some { bs := bsABSENT } | some e => some { datum := some e }
  | 5, 1 =>
    match st.bins[key]? with
    | none => some { bs := bsABSENT }
    | some e => some { datum := some e, st := some (st.setBin key ⟨0, false⟩), undo := some (.histPut key e) }
  | _, 2 => if 1 ≤ st.kind ∧ st.kind ≤ 5 then some (SRes.countOf st) else none
  | _, _ => none

/-- A HIST store: the bin's new value; add and max read the bin and so consume its poison (assumption 15). -/
def Store.histStore (st : Store) (key : Nat) (reads : Bool) (f : Word → Word) (undo : Entry → BankUndo) : SRes :=
  match st.bins[key]? with
  | none => { bs := bsABSENT }
  | some e =>
    if reads && e.poison then { datum := some e }
    else { st := some (st.setBin key ⟨f e.d, false⟩), undo := some (undo e) }

/-- A structured store (R128). -/
def Store.store (st : Store) (key code : Nat) (v : Word) : Option SRes :=
  let e : Entry := ⟨v, false⟩
  match st.kind, code with
  | 1, 0 =>
    if st.cap ≤ st.seq.length then some { bs := bsFULL }
    else some { st := some { st with seq := st.seq ++ [e] }, undo := some .fifoDropNewest }
  | 2, 0 =>
    if st.cap ≤ st.seq.length then some { bs := bsFULL }
    else some { st := some { st with seq := e :: st.seq }, undo := some .stackDropTop }
  | 2, 1 =>
    if st.cap ≤ st.seq.length then some { bs := bsFULL }
    else some { st := some { st with seq := st.seq ++ [e], start := (st.start + st.cap - 1) % max st.cap 1 },
                undo := some .stackDropFar }
  | 3, 0 =>
    if st.cap ≤ st.partCount then some { bs := bsFULL }
    else some { st := some { st.modPart st.heapMember (fun l => putSorted l st.rank e) with rank := st.rank + 1 },
                undo := some (.heapRemove st.rank) }
  | 4, 0 =>
    match st.find key with
    | some (m, old) => some { st := some (st.modPart m (fun l => putSorted l key e)), undo := some (.mapRestore key (some old)) }
    | none =>
      if st.cap ≤ st.partCount then some { bs := bsFULL }
      else some { st := some (st.place key e), undo := some (.mapRestore key none) }
  | 4, 1 =>
    match st.find key with
    | some _ => some {}
    | none =>
      if st.cap ≤ st.partCount then some { bs := bsFULL }
      else some { st := some (st.place key e), undo := some (.mapRestore key none) }
  | 5, 0 => some (st.histStore key true (fun d => d + v) (fun _ => .histSub key v))
  | 5, 1 => some (st.histStore key false (fun _ => v) (fun e => .histPut key e))
  | 5, 2 => some (st.histStore key true (fun d => if d.ult v then v else d) (fun e => .histPut key e))
  | _, _ => none

/-- A structured load that needs W as well (R115). -/
def loadNeedsW (kind code : Nat) : Bool :=
  (decide (1 ≤ kind ∧ kind ≤ 4) && decide (code ≤ 1)) || (kind == 5 && code == 1)

/-- KEY must be 0 (R121). -/
def keyMustBeZero (kind code : Nat) (load : Bool) : Bool := decide (kind ≤ 3) || (load && code == 2)

/-- Perform an inverse (R293): what it gives at that moment if another agent has changed the structure. -/
def Store.invert (st : Store) (u : BankUndo) : Store :=
  match u with
  | .fifoDropNewest => if st.kind = 1 then { st with seq := st.seq.dropLast } else st
  | .fifoPutOldest e =>
    if st.kind = 1 ∧ st.seq.length < st.cap then
      { st with seq := e :: st.seq, start := (st.start + st.cap - 1) % max st.cap 1 }
    else st
  | .stackDropTop => if st.kind = 2 then { st with seq := st.seq.drop 1 } else st
  | .stackPutTop e => if st.kind = 2 ∧ st.seq.length < st.cap then { st with seq := e :: st.seq } else st
  | .stackPutFar e =>
    if st.kind = 2 ∧ st.seq.length < st.cap then
      { st with seq := st.seq ++ [e], start := (st.start + st.cap - 1) % max st.cap 1 }
    else st
  | .stackDropFar =>
    if st.kind = 2 then { st with seq := st.seq.dropLast, start := (st.start + 1) % max st.cap 1 } else st
  | .heapRemove r => if st.kind = 3 then { st with parts := st.parts.map (fun p => (p.1, adel p.2 r)) } else st
  | .heapReinsert r e =>
    if st.kind = 3 ∧ st.partCount < st.cap then st.modPart st.heapMember (fun l => putSorted l r e) else st
  | .mapRestore k old =>
    if st.kind = 4 then
      match old, st.find k with
      | some e, some (m, _) => st.modPart m (fun l => putSorted l k e)
      | some e, none => if st.partCount < st.cap then st.place k e else st
      | none, some (m, _) => st.modPart m (fun l => adel l k)
      | none, none => st
    else st
  | .histSub b v =>
    match st.bins[b]? with
    | some e => st.setBin b ⟨e.d - v, e.poison⟩
    | none => st
  | .histPut b e => if st.kind = 5 then st.setBin b e else st

/-! ## Gathering and scattering -/

/-- The contents of one bank's own. -/
def Bank.own (k : Bank) : Store :=
  match k.pers with
  | .plain => { kind := 0, cap := 0 }
  | .fifo l => { kind := 1, cap := k.cap, seq := l, rank := k.rank }
  | .stack l => { kind := 2, cap := k.cap, seq := l, rank := k.rank }
  | .heap l => { kind := 3, cap := k.cap, parts := [(k.cap, l)], rank := k.rank }
  | .map l => { kind := 4, cap := k.cap, parts := [(k.cap, l)], rank := k.rank }
  | .hist l => { kind := 5, cap := k.cap, bins := l, rank := k.rank }

/-- Put contents back into one bank. -/
def Bank.withOwn (k : Bank) (st : Store) : Bank :=
  let k := { k with rank := st.rank }
  match k.pers with
  | .plain => k
  | .fifo _ => { k with pers := .fifo st.seq }
  | .stack _ => { k with pers := .stack st.seq }
  | .heap _ => { k with pers := .heap (st.parts.getD 0 (0, [])).2 }
  | .map _ => { k with pers := .map (st.parts.getD 0 (0, [])).2 }
  | .hist _ => { k with pers := .hist st.bins }

/-- The group a bank belongs to, with its number. -/
def State.groupOf (s : State) (c b : Nat) : Option (Nat × Group) :=
  match (s.bank c b).group with
  | none => none
  | some g => (alook (s.cluster (clusterOf c)).groups g).map (fun x => (g, x))

/-- The contents that a structured access to a bank works on: the bank's or its group's (R131). -/
def State.gather (s : State) (c b : Nat) : Store :=
  match s.groupOf c b with
  | none => (s.bank c b).own
  | some (_, g) =>
    let own := g.members.map (fun m => (s.bank m.1 m.2).own)
    { kind := (own.headD { kind := 0, cap := 0 }).kind
      cap := own.foldl (fun n o => n + o.cap) 0
      seq := g.seq
      start := g.start
      parts := own.flatMap (fun o => o.parts)
      bins := own.flatMap (fun o => o.bins)
      rank := g.rank }

/-- Put part m of the contents into each member, HIST bins by the members' CAPs. -/
def State.scatterInto (s : State) (st : Store) : List (Nat × Nat) → Nat → Nat → State
  | [], _, _ => s
  | (c, b) :: ms, m, bin =>
    let k := s.bank c b
    let own := k.own
    let k' := k.withOwn { own with parts := [st.parts.getD m (0, [])], bins := (st.bins.drop bin).take k.cap }
    let k' := if st.kind = 1 ∨ st.kind = 2 then k else k'
    (s.modBank c b (fun _ => k')).scatterInto st ms (m + 1) (bin + k.cap)

def State.scatter (s : State) (c b : Nat) (st : Store) : State :=
  match s.groupOf c b with
  | none => s.modBank c b (fun k => k.withOwn st)
  | some (n, g) =>
    let s := s.modCluster (clusterOf c) (fun k =>
      { k with groups := aset k.groups n { g with seq := st.seq, start := st.start, rank := st.rank } })
    s.scatterInto st g.members 0 0

/-- Entries of a FIFO or STACK group that stand in the ring places of one member (R132). -/
def ringCount (start len cap lo n : Nat) : Nat :=
  ((List.range len).filter (fun i => let p := (start + i) % max cap 1; decide (lo ≤ p ∧ p < lo + n))).length

/-- BANKQ's COUNT (R152). -/
def State.bankCount (s : State) (c b : Nat) : Nat :=
  match s.groupOf c b with
  | none => (s.bank c b).own.count
  | some (_, g) =>
    let st := s.gather c b
    if st.kind = 1 ∨ st.kind = 2 then
      let lo := (g.members.takeWhile (fun m => m != (c, b))).foldl (fun n m => n + (s.bank m.1 m.2).cap) 0
      ringCount g.start g.seq.length st.cap lo (s.bank c b).cap
    else (s.bank c b).own.count

/-! ## Configurations (R127, R134, R135) -/

def cfgPers (v : Word) : Nat := v.toNat / 2 ^ 16 % 8
def cfgCap (v : Word) : Nat := v.toNat % 2 ^ 16

/-- A valid configuration word (R127, R152; DEDUCED, assumption 41). -/
def cfgOk (v : Word) : Bool :=
  zeroBits v 63 19 &&
  (match cfgPers v with
   | 0 => cfgCap v == 0
   | 4 => decide (1 ≤ cfgCap v ∧ cfgCap v ≤ 2048)
   | 1 | 2 | 3 | 5 => decide (1 ≤ cfgCap v ∧ cfgCap v ≤ 4096)
   | _ => false)

/-- The configuration word of a bank: BANKCFG's previous word (R152). -/
def Bank.word (k : Bank) : Word := BitVec.ofNat 64 (k.pers.code * 2 ^ 16 + k.cap)

/-- An empty personality. -/
def Pers.empty (kind cap : Nat) : Pers :=
  match kind with
  | 1 => .fifo []
  | 2 => .stack []
  | 3 => .heap []
  | 4 => .map []
  | 5 => .hist (List.replicate cap ⟨0, false⟩)
  | _ => .plain

/-- Number entries from 0. -/
def ranked (l : List Entry) : List (Nat × Entry) := l.zipIdx.map (fun p => (p.2, p.1))

/-- Entries of a HEAP in ascending key, equal keys in insertion order: `n` bounds their number. -/
def heapSorted : Nat → List (Nat × Entry) → List Entry
  | 0, _ => []
  | n + 1, l =>
    match leastOf l with
    | none => []
    | some (r, e) => e :: heapSorted n (adel l r)

/-- The key and value doublewords of a MAP in ascending key order. -/
def mapPairs (l : List (Nat × Entry)) : List Entry := l.flatMap (fun p => [⟨BitVec.ofNat 64 p.1, false⟩, p.2])

/-- What a .K conversion of a bank gives (R135). -/
inductive Conv where
  /-- new personality contents -/
  | pers (p : Pers) (rank : Nat)
  /-- a PLAIN image: the first doublewords of the bank, the rest zero -/
  | image (l : List Entry)
  | illcfg
  /-- a poisoned count or key: index of its doubleword -/
  | poison (dw : Nat)

def withCount (l n : List Entry) : List Entry := ⟨BitVec.ofNat 64 l.length, false⟩ :: n

/-- Pairs of a PLAIN image as MAP entries: fails on a poisoned key, a key beyond 22 bits or a repeated one, whichever comes first
in offset order (DEDUCED, assumption 53). -/
def pairsFrom (dws : List Entry) : Nat → Nat → List (Nat × Entry) → Except Conv (List (Nat × Entry))
  | 0, _, acc => .ok acc
  | n + 1, i, acc =>
    let k := dws.getD i ⟨0, false⟩
    if k.poison then .error (.poison i)
    else if 2 ^ 22 ≤ k.d.toNat ∨ (alook acc k.d.toNat).isSome then .error .illcfg
    else pairsFrom dws n (i + 2) (putSorted acc k.d.toNat (dws.getD (i + 1) ⟨0, false⟩))

/-- BANKCFG.K (R135). `dws` are the 4,096 doublewords of a PLAIN bank: a count of 4,096 is more than its image can hold and does
not fit (DEDUCED, assumption 53). -/
def convertTo (k : Bank) (dws : List Entry) (kind cap : Nat) : Conv :=
  let n := (dws.getD 0 ⟨0, false⟩).d.toNat
  let cnt := dws.getD 0 ⟨0, false⟩
  match k.pers, kind with
  | .fifo l, 2 => if l.length ≤ cap then .pers (.stack l.reverse) 0 else .illcfg
  | .stack l, 1 => if l.length ≤ cap then .pers (.fifo l.reverse) 0 else .illcfg
  | .fifo l, 0 => if l.length ≤ 4095 then .image (withCount l l) else .illcfg
  | .stack l, 0 => if l.length ≤ 4095 then .image (withCount l l.reverse) else .illcfg
  | .heap l, 0 =>
    if l.length ≤ 4095 then .image (withCount (heapSorted l.length l) (heapSorted l.length l)) else .illcfg
  | .heap l, 1 => if l.length ≤ cap then .pers (.fifo (heapSorted l.length l)) 0 else .illcfg
  | .map l, 0 => if l.length ≤ 2047 then .image (⟨BitVec.ofNat 64 l.length, false⟩ :: mapPairs l) else .illcfg
  | .hist l, 0 => .image l
  | .plain, 5 => .pers (.hist ((dws.take cap) ++ List.replicate (cap - dws.length) ⟨0, false⟩)) 0
  | .plain, 4 =>
    if cnt.poison then .poison 0
    else if n ≤ cap ∧ n ≤ 2047 then
      match pairsFrom dws n 1 [] with
      | .ok l => .pers (.map l) 0
      | .error e => e
    else .illcfg
  | .plain, 1 =>
    if cnt.poison then .poison 0 else if n ≤ cap ∧ n ≤ 4095 then .pers (.fifo ((dws.drop 1).take n)) 0 else .illcfg
  | .plain, 2 =>
    if cnt.poison then .poison 0
    else if n ≤ cap ∧ n ≤ 4095 then .pers (.stack ((dws.drop 1).take n).reverse) 0 else .illcfg
  | .plain, 3 =>
    if cnt.poison then .poison 0
    else if n ≤ cap ∧ n ≤ 4095 then .pers (.heap (ranked ((dws.drop 1).take n))) n else .illcfg
  | _, _ => .illcfg

/-- The doublewords of a bank in PLAIN form. -/
def State.bankWords (s : State) (c b : Nat) : List Entry :=
  (List.range 4096).map (fun i => s.entryAt (bankLoc c b (8 * i)))

/-- Write a list of doublewords from a place. -/
def State.putEntries (s : State) (a : Nat) : List Entry → State
  | [] => s
  | e :: r => (s.putEntry a e).putEntries (a + 8) r

/-- Make a bank PLAIN with an image: the rest zero, every bit full (R134, R135). -/
def State.plainImage (s : State) (c b : Nat) (l : List Entry) : State :=
  ((s.clear (bankLoc c b 0) bankSize).putEntries (bankLoc c b 0) l).modBank c b
    (fun k => { k with pers := .plain, cap := 0, rank := 0, conf := s.nextId })

end Sys2Proof.Machine
end

