-- ==== Sys2Proof/Machine/Port.lean ====
section
/-!
DEFINITION. Machine/Port.lean: the memory port: page walks and page rights (R143 to R146), the system physical map (R338),
routes over the links (R7, R344), write stamps, writer tags and block records of tracked tiles (R276, R280).
-/
namespace Sys2Proof.Machine

/-! ## Page walks (R143, R144) -/

def pteV (e : Word) : Bool := e.getLsbD 0
def pteL (e : Word) : Bool := e.getLsbD 1
def pteR (e : Word) : Bool := e.getLsbD 2
def pteW (e : Word) : Bool := e.getLsbD 3
def pteX (e : Word) : Bool := e.getLsbD 4
def pteA (e : Word) : Bool := e.getLsbD 5
def pteP (e : Word) : Bool := e.getLsbD 6
/-- The physical address FRAME names. -/
def pteFrame (e : Word) : Nat := e.toNat / 2 ^ 16 % 2 ^ 40 * 2 ^ 16

/-- Reserved fields are 0, and a leaf of 2^k bytes is aligned (R144). -/
def pteSound (e : Word) (k : Nat) : Bool :=
  zeroBits e 63 56 && zeroBits e 15 7 && (!pteL e || pteFrame e % 2 ^ k == 0)

/-- What a walk gives. -/
inductive Walk where
  /-- V = 0 at some level, or an entry treated so -/
  | absent
  /-- the leaf and the physical address -/
  | leaf (e : Word) (pa : Nat)
  deriving DecidableEq, Repr

/-- One level of a walk: (index shift, index width) of this level and those below. -/
def walkFrom (s : State) (ta : Nat) : List (Nat × Nat) → Nat → Walk
  | [], _ => .absent
  | (sh, w) :: below, table =>
    let e := s.readW (table + 8 * (ta / 2 ^ sh % 2 ^ w))
    if !pteV e || !pteSound e sh then .absent
    else if pteL e then .leaf e (pteFrame e + ta % 2 ^ sh)
    else walkFrom s ta below (pteFrame e)

/-- Walk the page tables of a virtual function for a tenant address (R143). One whose root has not been set finds V = 0 (DESIGN CHOICE,
assumption 38). -/
def State.walk (s : State) (vf ta : Nat) : Walk :=
  match (s.vf vf).root with
  | none => .absent
  | some root => walkFrom s ta [(30, 21), (21, 9), (16, 5)] root

/-- Does a translation-cache entry map a tenant address of a virtual function? -/
def Tlb.maps (e : Tlb) (vf ta : Nat) : Bool := e.vf == vf && ta / 2 ^ e.shift == e.page

/-- Translation at a cluster's memory port (R143): by its translation cache, else by a walk (DESIGN CHOICE, assumption 9). -/
def State.walkAt (s : State) (cl vf ta : Nat) : Walk :=
  match (s.cluster cl).tlb.find? (fun e => e.maps vf ta) with
  | some e => .leaf e.leaf (pteFrame e.leaf + ta % 2 ^ e.shift)
  | none => s.walk vf ta

/-- The leaf that a walk ends at, with the shift of its page's size. -/
def leafOf (s : State) (ta : Nat) : List (Nat × Nat) → Nat → Option (Nat × Word)
  | [], _ => none
  | (sh, w) :: below, table =>
    let e := s.readW (table + 8 * (ta / 2 ^ sh % 2 ^ w))
    if !pteV e || !pteSound e sh then none
    else if pteL e then some (sh, e)
    else leafOf s ta below (pteFrame e)

/-- A port's translation cache of 4,096 entries takes the entry of a page that a walk finds; a full one loses its
oldest (DESIGN CHOICE, assumption 9). -/
def State.fillTlb (s : State) (cl vf ta : Nat) : State :=
  match (s.vf vf).root with
  | none => s
  | some root =>
    match leafOf s ta [(30, 21), (21, 9), (16, 5)] root with
    | none => s
    | some (sh, e) =>
      s.modCluster cl (fun k =>
        let l := k.tlb.filter (fun x => !x.maps vf ta)
        { k with tlb := (if 4096 ≤ l.length then l.drop 1 else l) ++ [⟨vf, ta / 2 ^ sh, sh, e⟩] })

/-- Remove entries from every translation cache of the package (R327). -/
def State.dropTlb (s : State) (f : Tlb → Bool) : State :=
  { s with clusters := s.clusters.map (fun (k : Nat × Cluster) => (k.1, { k.2 with tlb := k.2.tlb.filter (fun e => !f e) })) }

/-- What an access asks of a leaf. -/
structure Ask where
  r : Bool := false
  w : Bool := false
  x : Bool := false
  a : Bool := false
  sys : Bool := false
  deriving DecidableEq, Repr

/-- The first missing right of a leaf, in the order P, X, A, R, W (R145). -/
def leafFault (e : Word) (k : Ask) : Option Byte :=
  if pteP e && !k.sys then some cPAGEP
  else if k.x && !pteX e then some cPAGEX
  else if k.a && !pteA e then some cPAGEA
  else if k.r && !pteR e then some cPAGER
  else if k.w && !pteW e then some cPAGEW
  else none

/-! ## The system physical map (R338) -/

inductive PaSpace where
  | hbm (pkg : Nat)
  | host
  | root
  | bad
  deriving DecidableEq, Repr

/-- Backed bytes of one package's HBM. -/
def hbmBytes : Nat := 640000000000

def paSpace (pa : Nat) : PaSpace :=
  match pa / 2 ^ 45 with
  | 0 => if pa % 2 ^ 40 < hbmBytes then .hbm (pa / 2 ^ 40 % 32) else .bad
  | 1 => .host
  | 2 => .root
  | _ => .bad

/-- Turwell links of a package (R21), and the compute die whose mesh a link port connects to (R7). -/
def linkCount : Nat := 16
def linkDie (n : Nat) : Nat := n / 4

/-- The package at the far end of a link. The manual gives no wiring: State.wiring says it, and a link that it does not list leads
to package 0 (DESIGN CHOICE, assumption 49). -/
def State.linkPeer (s : State) (n : Nat) : Nat := (alook s.wiring n).getD 0

/-- A route to a package exists (R344): it is this one, or a Turwell link toward it is up; a path by way of a third package
is none (DESIGN CHOICE, assumption 49). -/
def State.routed (s : State) (pkg : Nat) : Bool :=
  pkg == s.pkg.toNat || s.links.any (fun l => decide (l.1 < linkCount) && l.2.up && s.linkPeer l.1 == pkg)

/-- What translation gives an access of an agent. -/
inductive Xlate where
  /-- V = 0: the access waits for the pager (R146) -/
  | absent
  | fault (code : Byte)
  | ok (pa : Nat)
  deriving DecidableEq, Repr

/-- Check a leaf (R145, R338). Root-port space is reached like any other: what its device answers is free (assumption 20). `hostAtomicOk` says that the endpoint performs the atomic (R145; DESIGN CHOICE,
assumption 20). -/
def State.check (s : State) (w : Walk) (k : Ask) (hostAtomicOk : Bool) : Xlate :=
  match w with
  | .absent => .absent
  | .leaf e pa =>
    match leafFault e k with
    | some c => .fault c
    | none =>
      match paSpace pa with
      | .hbm pkg => if s.routed pkg then .ok pa else .fault cBADWIN
      | .host => if k.a && !hostAtomicOk then .fault cPAGEA else .ok pa
      | .root => .ok pa
      | .bad => .fault (if k.x then cPAGEX else if k.w then cPAGEW else cPAGER)

/-- Translate at a cluster's memory port. -/
def State.translate (s : State) (cl vf ta : Nat) (k : Ask) (hostAtomicOk : Bool) : Xlate :=
  s.check (s.walkAt cl vf ta) k hostAtomicOk

/-! ## Token buckets (R335, R337) -/

/-- The bucket a transfer uses: 0 HBM, 1 network. -/
def bucketOf (pa : Nat) : Nat := match paSpace pa with | .hbm _ => 0 | _ => 1

/-- A line leaves. -/
def State.spend (s : State) (c res : Nat) : State :=
  s.modCore c (fun x =>
    if res = 0 then (if unlimited x.qhbmNow then x else { x with hbmTok := x.hbmTok - 1 })
    else if unlimited x.qnetNow then x else { x with netTok := x.netTok - 1 })

/-- The weight of a virtual function in a cluster, from the QWGT of its lowest-numbered core there (R337); 0 counts as 1. -/
def State.weightOf (s : State) (cl vf sh : Nat) : Nat :=
  match (List.range 64).find? (fun k => s.owner (64 * cl + k) == vf) with
  | none => 1
  | some k => max 1 ((s.core (64 * cl + k)).qwgt.toNat / 2 ^ sh % 256)

/-- Weighted round robin over the virtual functions with requests: whose turn it is and what is left of it, given whose
turn it was and what was left (R199, R257). `vfs` are those with requests waiting. -/
def turnOf (vfs : List Nat) (vf left : Nat) (weight : Nat → Nat) : Option (Nat × Nat) :=
  if 0 < left ∧ vfs.contains vf then some (vf, left - 1)
  else
    let above := vfs.filter (fun v => decide (vf < v))
    match (if above.isEmpty then vfs else above).min? with
    | none => none
    | some v => some (v, weight v - 1)

/-! ## Contrail (R276, R280) -/

/-- The trace object that records a block. -/
def State.traceOf (s : State) (g : Tag) : Option Nat := (s.launchOf g.handle).bind (fun l => l.trace)

/-- The writer tag of an agent working for a block (R276). -/
def State.writerTag (s : State) (g : Tag) : Word32 :=
  match s.traceOf g with
  | some o => BitVec.ofNat 32 (o * 2 ^ 24 + g.block.toNat % 2 ^ 24)
  | none => 0

/-- Add a tile to a set of merged ranges (first, count) in rising order. -/
def addTile : List (Nat × Nat) → Nat → List (Nat × Nat)
  | [], t => [(t, 1)]
  | (f, n) :: r, t =>
    if t + 1 < f then (t, 1) :: (f, n) :: r
    else if t + 1 = f then (t, n + 1) :: r
    else if t < f + n then (f, n) :: r
    else if t = f + n then
      match r with
      | (g, m) :: r' => if g = t + 1 then (f, n + 1 + m) :: r' else (f, n + 1) :: r
      | [] => [(f, n + 1)]
    else (f, n) :: addTile r t

/-- Is a tenant tile in a tracked region of the virtual function? -/
def VF.tracks (v : VF) (tile : Nat) : Bool :=
  v.regions.any (fun r => decide (r.2.1 / 4096 ≤ tile) && decide (tile < (r.2.1 + r.2.2) / 4096))

def State.modRec (s : State) (obj blk : Nat) (f : BlockRec → BlockRec) : State :=
  match alook s.traces obj with
  | none => s
  | some t =>
    { s with traces := aset s.traces obj { t with recs := aset t.recs blk (f ((alook t.recs blk).getD {})) } }

/-- Enter a tile into a block's read or write set; a set that would need a 65th range is dropped and the block marked ALL. The
other set goes on. -/
def BlockRec.enter (b : BlockRec) (tile : Nat) (write : Bool) : BlockRec :=
  if write then
    let l := addTile b.writes tile
    if b.wOut then b
    else if 64 < l.length then { b with all := true, wOut := true, writes := [] }
    else { b with writes := l }
  else
    let l := addTile b.reads tile
    if b.rOut then b
    else if 64 < l.length then { b with all := true, rOut := true, reads := [] }
    else { b with reads := l }

/-- The stamp and writer tag of a physical tile. -/
def State.stampOf (s : State) (pa : Nat) : Nat × Word32 := (alook s.stamps (pa / 4096)).getD (0, 0)

/-- A place of HBM: only HBM has stamps and enters block records (R276, R280). -/
def isHbm (pa : Nat) : Bool := match paSpace pa with | .hbm _ => true | _ => false

/-- A read at the port by an agent that works for a block (R280). -/
def State.trackRead (s : State) (vf : Nat) (g : Tag) (ta pa : Nat) : State :=
  match s.traceOf g with
  | none => s
  | some o =>
    if isHbm pa && (s.vf vf).tracks (ta / 4096) then
      let (st, w) := s.stampOf pa
      let mine := s.writerTag g
      s.modRec o (g.block.toNat % 2 ^ 24) (fun b =>
        let b := b.enter (ta / 4096) false
        if decide (b.s < st) && w != mine then { b with unstable := true } else b)
    else s

/-- A write at the port: the tile's stamp and tag, and the writer's block (R276, R280). Only HBM has stamps. -/
def State.trackWrite (s : State) (vf : Nat) (g : Tag) (ta pa : Nat) : State :=
  match paSpace pa with
  | .hbm _ =>
    let s' := { s with stamps := aset s.stamps (pa / 4096) (s.cycle, s.writerTag g) }
    match s.traceOf g with
    | none => s'
    | some o =>
      if (s.vf vf).tracks (ta / 4096) then s'.modRec o (g.block.toNat % 2 ^ 24) (fun b => b.enter (ta / 4096) true) else s'
  | _ => s

end Sys2Proof.Machine
end

