-- ==== Sys2Proof/Machine/Access.lean ====
section
/-!
DEFINITION. Machine/Access.lean: how an access that is in flight is performed at its bank or port (R157): loads and stores,
format windows, full/empty instructions, atomics, SEGLD, structured operations, BANKQ, the records of SEND and DQ; the
waiter tables of banks (R130, R137, R139) and the save log of the timed thread (R292, R294).
-/
namespace Sys2Proof.Machine

/-! ## The save log (R292, R294) -/

/-- Log entries reserved by TSENDs of the timed thread that have issued (R294). -/
def Core.reserved (x : Core) : Nat :=
  ((x.slot 14).pend.filter (fun p => match p.ins, p.phase with
    | .tsend _ _ _ _, .asleep | .tsend _ _ _ _, .done _ | .tsend _ _ _ _, .fault _ _ => false
    | .tsend _ _ _ _, _ => true
    | _, _ => false)).length

/-- The log has room for n more entries. -/
def Core.logRoom (x : Core) (n : Nat) : Bool :=
  match x.vt with
  | some v => decide (v.log.length + x.reserved + n ≤ 1024)
  | none => true

/-- An action of the timed thread that appends n entries may go on. -/
def State.logRoom (s : State) (p : Pending) (n : Nat) : Bool :=
  !p.ops.tm || (s.core p.ops.core).logRoom n

/-- Append an entry tagged with the current key. -/
def State.addLog (s : State) (c : Nat) (u : Undo) (also : List Undo := []) : State :=
  s.modCore c (fun x => { x with vt := x.vt.map (fun v => { v with log := v.log ++ [⟨v.cur, u, also⟩] }) })

/-- Stage of an action that sleeps because the log is full (R294). -/
def stageLog : Nat := 9

/-- It sleeps for a log or output-queue entry. -/
def Pending.forLog (p : Pending) : Bool := p.phase == .asleep && p.ops.stage == stageLog

/-- The timed thread falls asleep for an entry: the publications that free none are counted from then on (R294), if it did not sleep
for one before. -/
def State.startStarving (s : State) (c : Nat) : State :=
  s.modCore c (fun x =>
    if (x.slot 14).pend.any Pending.forLog then x else { x with vt := x.vt.map (fun v => { v with starved := 0 }) })

/-- The action is not performed, and the thread is Asleep until a publication frees an entry. -/
def State.sleepLog (s : State) (r : Ref) (p : Pending) : State :=
  (s.startStarving p.ops.core).modPend r (fun p => { p with phase := .asleep, ops := { p.ops with stage := stageLog } })

/-- The old value of a doubleword, as the log records it: of the tenant address and the place. -/
def State.undoWord (s : State) (ta loc : Nat) : Undo := .word (dword ta) (dword loc) (s.readW (dword loc)) (s.isFull loc) (s.poisoned loc)

/-- Log the doublewords of n bytes that an action of the timed thread is about to change, in one entry (R292): their values are
those of `seen`. -/
def State.logSeen (s seen : State) (p : Pending) (loc n : Nat) : State :=
  if !p.ops.tm then s
  else s.addLog p.ops.core (seen.undoWord p.ops.ta loc) (if n ≤ 8 then [] else [seen.undoWord (p.ops.ta + 8) (loc + 8)])

def State.logBytes (s : State) (p : Pending) (loc n : Nat) : State := s.logSeen s p loc n

/-! ## Loads, stores and atomics on bytes (R147, R149) -/

/-- TVAL of POISON: the ea of the poisoned doubleword (R314). -/
def poisonEa (ea : Word) (loc pl : Nat) : Word := ea + BitVec.ofNat 64 pl - BitVec.ofNat 64 loc

/-- Perform a read that consumes: POISON if a doubleword of it is poisoned (R138). -/
def State.consume (s : State) (r : Ref) (p : Pending) (loc n : Nat) (k : State → State) : State :=
  match s.poisonIn loc n with
  | some pl => s.lateFail r cPOISON (poisonEa p.ops.ea loc pl)
  | none => k s

/-- The value of a load by its size field (R147). -/
def loadValue (sz : BitVec 3) (v : Nat) : Word :=
  match sz.toNat with
  | 0 => (BitVec.ofNat 8 v).signExtend 64
  | 2 => (BitVec.ofNat 16 v).signExtend 64
  | 4 => (BitVec.ofNat 32 v).signExtend 64
  | _ => BitVec.ofNat 64 v

/-- A store of n bytes by an instruction in flight. -/
def State.storeFor (s : State) (r : Ref) (p : Pending) (loc n v : Nat) : State :=
  if !s.logRoom p 1 then s.sleepLog r p
  else ((s.logBytes p loc n).store loc n v).finish r {}

/-- Sign-extend the low n bytes. -/
def sextBytes (n : Nat) (v : Nat) : Word := if n = 4 then (BitVec.ofNat 32 v).signExtend 64 else BitVec.ofNat 64 v

/-- Signed value of n bytes. -/
def signedBytes (n : Nat) (v : Nat) : Int := if n = 4 then (BitVec.ofNat 32 v).toInt else (BitVec.ofNat 64 v).toInt

/-- The functions of R149. -/
inductive Amo where
  | add | and | or | xor | min | max | swap | cas
  deriving DecidableEq, Repr

/-- The new value of an atomic of n bytes (R149). `d` is x[rd], read by CAS. -/
def amoNew (f : Amo) (n old b d : Nat) : Nat :=
  match f with
  | .add => (old + b) % 2 ^ (8 * n)
  | .and => old &&& b
  | .or => old ||| b
  | .xor => old ^^^ b
  | .min => if signedBytes n b < signedBytes n old then b else old
  | .max => if signedBytes n old < signedBytes n b then b else old
  | .swap => b
  | .cas => if old = d then b else old

/-- Perform an atomic: the read and the write as one action. -/
def State.amoAt (s : State) (r : Ref) (p : Pending) (f : Amo) (rd : Reg) (n loc : Nat) : State :=
  s.consume r p loc n (fun s =>
    if !s.logRoom p 1 then s.sleepLog r p
    else
      let old := s.read loc n
      let m := 2 ^ (8 * n)
      ((s.logBytes p loc n).store loc n (amoNew f n old (p.ops.b.toNat % m) (p.ops.a.toNat % m))).finish r
        { x := [(rd, sextBytes n old)] })

/-- SEGLD's 16 bytes (R151): ILLOP for a reserved field, PRIV for P at user privilege. -/
def State.segldAt (s : State) (r : Ref) (p : Pending) (g : Nat) (loc : Nat) : State :=
  s.consume r p loc 16 (fun s =>
    let d := BitVec.ofNat 128 (s.read loc 16)
    if segReserved d then s.lateFail r cILLOP (wordVal p.ins)
    else if segP d && !p.ops.sys then s.lateFail r cPRIV (wordVal p.ins)
    else s.finish r { g := some (g, d) })

/-- n doublewords from a place, with their poison bits. -/
def State.entriesAt (s : State) (loc n : Nat) : List Entry := (List.range n).map (fun i => s.entryAt (loc + 8 * i))

/-- The 32-byte read of a record: its poison travels (R138); the instruction goes on to its target. -/
def State.recordRead (s : State) (r : Ref) (loc : Nat) : State :=
  let es := s.entriesAt loc 4
  s.modPend r (fun p => { p with ops := { p.ops with got := es, stage := 1 }, phase := .flight })

/-- The 32-byte write of a record, poison kept, full/empty bits unchanged (R155, R307). -/
def State.recordWrite (s : State) (p : Pending) (loc : Nat) : State := s.putEntries loc p.ops.got

/-- DQ after its record has been written: the first doubleword to x[rd], consuming its poison (R155). -/
def State.dqDone (s : State) (r : Ref) (p : Pending) (d : Reg) : State :=
  let e := p.ops.got.headD ⟨0, false⟩
  if e.poison then s.lateFail r cPOISON p.ops.ea else s.finish r { x := [(d, e.d)], bs := some bsOK }

/-! ## Full/empty instructions (R136, R137, R148) -/

/-- The condition a full/empty instruction waits for: 0 LDFE, 1 LDFF full; 2 STEF empty. -/
def feReady (s : State) (loc : Nat) (i : Instr) : Bool :=
  match i with
  | .ldfe _ _ _ _ => s.isFull loc
  | .ldff _ _ _ _ => s.isFull loc
  | .stef _ _ _ _ => !s.isFull loc
  | _ => true

/-- SETE and SETF change one word at a time, in ascending order: each word is an action of its own (R148, R292). `c` of the
operands counts the words that have been changed. -/
def State.setOne (s : State) (r : Ref) (p : Pending) (loc : Nat) (full : Bool) : State :=
  let k := p.ops.c.toNat
  let at_ := loc + 8 * k
  if p.ops.n / 8 ≤ k then s.finish r (Result.status bsOK)
  else if !s.logRoom p 1 then s.sleepLog r p
  else
    let s1 := (s.logBytes p at_ 8).setFull at_ full
    if p.ops.n / 8 ≤ k + 1 then s1.finish r (Result.status bsOK)
    else s1.modPend r (fun p => { p with phase := .flight, ops := { p.ops with c := BitVec.ofNat 64 (k + 1) } })

/-- Perform a full/empty instruction whose condition holds. -/
def State.feAt (s : State) (r : Ref) (p : Pending) (loc : Nat) : State :=
  let ok : Result := Result.status bsOK
  match p.ins with
  | .ldfe d _ _ _ =>
    s.consume r p loc 8 (fun s =>
      if !s.logRoom p 1 then s.sleepLog r p
      else ((s.logBytes p loc 8).setFull loc false).finish r { ok with x := [(d, s.readW loc)] })
  | .ldff d _ _ _ => s.consume r p loc 8 (fun s => s.finish r { ok with x := [(d, s.readW loc)] })
  | .stef _ _ _ _ =>
    if !s.logRoom p 1 then s.sleepLog r p
    else (((s.logBytes p loc 8).store loc 8 p.ops.a.toNat).setFull loc true).finish r ok
  | .stff _ _ _ _ =>
    if !s.logRoom p 1 then s.sleepLog r p
    else (((s.logBytes p loc 8).store loc 8 p.ops.a.toNat).setFull loc true).finish r ok
  | .sete _ _ _ _ => s.setOne r p loc false
  | .setf _ _ _ _ => s.setOne r p loc true
  | _ => s

/-! ## Doublewords reached by tenant address while an access is performed -/

/-- A doubleword of raw on-chip space: its core and raw offset; none where R117 and R118 refuse it. -/
def State.rawPlace (s : State) (core ta : Nat) (n : Nat) : Option (Nat × Nat) :=
  if !taOnChip ta || taView ta != 0 then none
  else
    match targetOf s core ta { ea := 0, n := n, align := 1, sort := .record } with
    | some (.raw c off) => some (c, off)
    | _ => none

/-- What comes from a core is held before a bank: another quad's, under reset, or locked by BANKCFG (R134, R350). -/
def State.bankShut (s : State) (core c b : Nat) : Bool :=
  (s.quadDown c && decide (quadOf c ≠ quadOf core)) || (s.bank c b).locked.isSome

/-- Where a doubleword of raw or paged space stands for an agent of a core. -/
inductive Place where
  | at (loc : Nat)
  | fault (code : Byte)
  /-- it waits: for the pager (R146), for a token (R335), or before a bank that is shut (R134, R350) -/
  | absent
  deriving DecidableEq, Repr

/-- A place of raw on-chip space: in a PLAIN bank of a core that is the tenant's and in service. -/
def State.rawAt (s : State) (core c off : Nat) : Place :=
  if s.coreOut c || s.owner c != s.owner core then .fault cBADWIN
  else if s.bankShut core c (off / bankSize) then .absent
  else if s.plainBank c (off / bankSize) then .at (scratchLoc c off)
  else .fault cBADWIN

def State.dwPlace (s : State) (core ta : Nat) (k : Ask) : Place :=
  if taOnChip ta then
    match s.rawPlace core ta 8 with
    | none => .fault cBADWIN
    | some (c, off) => s.rawAt core c off
  else
    match s.translate (clusterOf core) (s.owner core) ta k false with
    | .absent => .absent
    | .fault c => .fault c
    | .ok pa => .at pa

/-- A doubleword at which a line of a transfer begins: of the line, or of the transfer (R335). -/
def lineStart (lo ta : Nat) : Bool := ta % 128 == 0 || ta == lo

/-- The place of an agent's doubleword access, which also waits while its core's bucket holds no token, if it pays for a line
(R335). -/
def State.linePlace (s : State) (core : Nat) (pays : Bool) (ta : Nat) (k : Ask) : Place :=
  match s.dwPlace core ta k with
  | .at loc => if decide (loc < 2 ^ 56) && pays && !(s.core core).hasToken (bucketOf loc) then .absent else .at loc
  | p => p

/-- The block records of Contrail for an agent's access at a place. -/
def State.track (s : State) (vf : Nat) (g : Tag) (ta loc : Nat) (write : Bool) : State :=
  if loc < 2 ^ 56 then (if write then s.trackWrite vf g ta loc else s.trackRead vf g ta loc) else s

/-- What an agent's access at a place does besides its data: the token its line costs, and the block records. -/
def State.lineNote (s : State) (core vf : Nat) (g : Tag) (pays : Bool) (ta loc : Nat) (write : Bool) : State :=
  (if decide (loc < 2 ^ 56) && pays then s.spend core (bucketOf loc) else s).track vf g ta loc write

/-- A line is paid for with the doubleword at which it begins; `lo` is where the transfer begins (DESIGN CHOICE, assumption 20). -/
def State.agentPlace (s : State) (core lo ta : Nat) (k : Ask) : Place := s.linePlace core (lineStart lo ta) ta k
def State.agentNote (s : State) (core vf : Nat) (g : Tag) (lo ta loc : Nat) (write : Bool) : State :=
  s.lineNote core vf g (lineStart lo ta) ta loc write

/-- Lines of n doublewords from a tenant address, and the address of line i. -/
def lineCount (ta n : Nat) : Nat := if n = 0 then 0 else (ta + 8 * n - 1) / 128 + 1 - ta / 128
def lineTa (ta i : Nat) : Nat := if i = 0 then ta else (ta / 128 + i) * 128

/-- Pay for lines of a range from line i on, as far as the bucket's tokens go and up to one whose page is not there: how many of the
range are paid then. A fault is met by the access itself. -/
def State.payFrom (s : State) (core ta : Nat) (k : Ask) : Nat → Nat → State × Nat
  | 0, i => (s, i)
  | m + 1, i =>
    match s.dwPlace core (lineTa ta i) k with
    | .at loc =>
      if (s.core core).hasToken (bucketOf loc) then (s.spend core (bucketOf loc)).payFrom core ta k m (i + 1) else (s, i)
    | .fault _ => s.payFrom core ta k m (i + 1)
    | .absent => (s, i)

/-- A range of n doublewords that is read or written whole leaves once every line of it is paid (R335): the state, and whether
that is so, or the access would meet a page that is not there (R146). -/
def State.payRange (s : State) (r : Ref) (core ta n : Nat) (k : Ask) : State × Bool :=
  if taOnChip ta then (s, true)
  else
    match s.pending r with
    | none => (s, true)
    | some p =>
      let (s1, i) := s.payFrom core ta k (lineCount ta n - p.ops.paid) p.ops.paid
      (s1.modPend r (fun p => { p with ops := { p.ops with paid := i } }),
       decide (lineCount ta n ≤ i) || (match s.dwPlace core (lineTa ta i) k with | .absent => true | _ => false))

/-- The line of doubleword i of a range has been paid for. -/
def State.linePaid (s : State) (r : Ref) (ta i : Nat) : Bool :=
  taOnChip ta || (match s.pending r with | some p => decide ((ta + 8 * i) / 128 - ta / 128 < p.ops.paid) | none => true)

/-! ## Accesses held (R134, R350) -/

/-- Hold an access at a locked bank (R134). -/
def State.holdAtBank (s : State) (r : Ref) (c b : Nat) : State :=
  (s.modBank c b (fun k => { k with held := k.held ++ [r] })).setPhase r .held

/-- Hold an access to a quad under reset (R350). -/
def State.holdAtQuad (s : State) (r : Ref) (c : Nat) : State :=
  (s.modCluster (clusterOf c) (fun k => { k with heldAcc := k.heldAcc ++ [r] })).setPhase r .held

/-- Hold an access before a bank that is shut. -/
def State.holdBefore (s : State) (r : Ref) (core c b : Nat) : State :=
  if s.quadDown c && decide (quadOf c ≠ quadOf core) then s.holdAtQuad r c else s.holdAtBank r c b

/-! ## Format windows (R48 to R51) -/

/-- Core and raw offset of the first byte of a window element. -/
def windowByte (view unit : Nat) (striped : Bool) (e : Nat) : Nat × Nat :=
  let b := e * elemBits view / 8
  if striped then let (k, off) := stripedAt b; (64 * unit + k, off) else (unit, b)

/-- Shift of an element within its byte (R39, R43). -/
def elemShift (view e : Nat) : Nat := if view = 7 ∨ view = 8 then e % 2 * 4 else if view = 13 then e % 8 else 0

/-- The stored bits of an element. -/
def State.elemBitsAt (s : State) (view e loc : Nat) : Nat :=
  let w := elemBits view
  if w < 8 then s.read loc 1 / 2 ^ elemShift view e % 2 ^ w else s.read loc (w / 8)

/-- Write the stored bits of an element; a narrow element is a read-modify-write of its doubleword (R51). -/
def State.putElem (s : State) (view e loc raw : Nat) : State :=
  let w := elemBits view
  if w < 8 then
    let old := s.read loc 1
    let sh := 2 ^ elemShift view e
    s.store loc 1 (old - old / sh % 2 ^ w * sh + raw % 2 ^ w * sh)
  else s.store loc (w / 8) raw

/-- The scale byte of an element (R41): its core and raw offset, or none for BADWIN (DEDUCED, assumption 14). -/
def State.scalePlace (s : State) (core : Nat) (mxsb : Word) (e : Nat) : Option (Nat × Nat) :=
  s.rawPlace core (mxsb.toNat + e / 32) 1

/-- A window load or store of element e at its bank. It is held while the bank of its scale byte is shut, as before its own (R41,
R134). `store` is the FP32 or integer word to encode. TVAL of POISON of a scale
byte, which has no ea, is the element's ea (DEDUCED, assumptions 14 and 52). -/
def State.windowAt (s : State) (r : Ref) (p : Pending) (view unit : Nat) (striped : Bool) (e : Nat)
    (store : Option Word32) (load : Word32 → Result) : State :=
  let (c, off) := windowByte view unit striped e
  let loc := scratchLoc c off
  if !s.plainBank c (off / bankSize) then s.lateFail r cBADWIN p.ops.ea
  else
    match (if view = 7 then (s.scalePlace p.ops.core p.ops.mxsb e).map some else some none) with
    | none => s.lateFail r cBADWIN p.ops.ea
    | some sp =>
      let sloc := match sp with | some (sc, so) => scratchLoc sc so | none => loc
      let plain := match sp with | some (sc, so) => s.plainBank sc (so / bankSize) | none => true
      let scale := if view = 7 then s.read sloc 1 else 0
      let (sc, sb) := match sp with | some (sc, so) => (sc, so / bankSize) | none => (c, off / bankSize)
      if view = 7 && s.bankShut p.ops.core sc sb then s.holdBefore r p.ops.core sc sb
      else if !plain then s.lateFail r cBADWIN p.ops.ea
      else if view = 7 && s.poisoned sloc then s.lateFail r cPOISON p.ops.ea
      else
        match store with
        | none =>
          if s.poisoned loc then s.lateFail r cPOISON p.ops.ea
          else s.finish r (load (decodeElem view p.ops.cb scale (s.elemBitsAt view e loc)))
        | some x =>
          let enc := encodeElem view p.ops.rm.toNat p.ops.cb scale x
          if !s.logRoom p 1 then s.sleepLog r p
          else
            let scale := if view = 7 then [s.undoWord (p.ops.mxsb.toNat + e / 32) sloc] else []
            let s1 := if p.ops.tm then s.addLog p.ops.core (s.undoWord p.ops.ta loc) scale else s
            let s1 := s1.putElem view e loc enc.raw
            let s1 := match enc.scale with | some b => s1.store sloc 1 b | none => s1
            s1.finish r { flags := enc.fl, ovf := enc.ev }

/-! ## Structured operations at a bank (R119 step 8, R121, R128 to R131) -/

/-- A member of the group of a bank lies on a quad that is being reset (R133). -/
def State.groupDown (s : State) (c b : Nat) : Bool :=
  match s.groupOf c b with
  | none => false
  | some (_, g) => g.members.any (fun m => (s.cluster (clusterOf m.1)).resetting.contains (quadOf m.1))

/-- The result of a structured load or store that ends with an outcome and a datum. -/
def structResult (i : Instr) (bs : BitVec 3) (d : Word) : Result :=
  match i with
  | .ld rd _ _ _ _ _ => { x := [(rd, d)], bs := some bs }
  | .ldf fd _ _ _ _ _ => { f := [(fd, d)], bs := some bs }
  | _ => { bs := some bs }

def isLoad (i : Instr) : Bool := match i with | .ld _ _ _ _ _ _ | .ldf _ _ _ _ _ _ => true | _ => false

/-- Try a structured operation at its bank: none when it must wait (R130). -/
def State.tryStruct (s : State) (r : Ref) (p : Pending) (c b key op : Nat) : Option State :=
  let code := op % 4
  let load := isLoad p.ins
  let st := s.gather c b
  if s.groupDown c b then some (s.finish r (structResult p.ins bsBUSY 0))
  else if st.kind = 0 then some (s.lateFail r cBADWIN p.ops.ea)
  else
    match (if load then st.load key code else st.store key code p.ops.a) with
    | none => some (s.lateFail r cILLOP (wordVal p.ins))
    | some x =>
      if keyMustBeZero st.kind code load && key != 0 then some (s.lateFail r cBADWIN p.ops.ea)
      else if load && loadNeedsW st.kind code && (!p.ops.wRight || (p.ops.tm && !p.ops.tRight)) then
        some (s.lateFail r cSEGRIGHT p.ops.ea)
      else if decide (4 ≤ op) && (x.bs == bsEMPTY || x.bs == bsFULL) then none
      else if x.undo.isSome && !s.logRoom p 1 then some (s.sleepLog r p)
      else
        let s1 := match x.undo with
          | some u => if p.ops.tm then s.addLog p.ops.core (.bank c b (s.bank c b).conf u) else s
          | none => s
        let s1 := match x.st with | some st' => s1.scatter c b st' | none => s1
        match x.datum with
        | some e =>
          if e.poison then some (s1.lateFail r cPOISON p.ops.ea)
          else some (s1.finish r (structResult p.ins x.bs e.d))
        | none => some (s1.finish r (structResult p.ins x.bs 0))

/-! ## Waiter tables (R130, R137, R139) -/

/-- Enter a sleeper in the bank's waiter table, or leave it to be offered again when the table is full. -/
def State.sleepAt (s : State) (r : Ref) (c b : Nat) : State :=
  if (s.bank c b).waiters.length < 64 then
    (s.modBank c b (fun k => { k with waiters := k.waiters ++ [r] })).setPhase r .asleep
  else (s.modBank c b (fun k => { k with retriers := k.retriers ++ [r] })).setPhase r .retry

/-- The bank whose waiter table holds the sleepers of a bank: the home of its group (R131). -/
def State.tableBank (s : State) (c b : Nat) : Nat × Nat :=
  match s.groupOf c b with
  | none => (c, b)
  | some (_, g) => g.members.headD (c, b)

/-- Perform a sleeper's operation if it can now complete. -/
def State.trySleeper (s : State) (r : Ref) : Option State :=
  match s.pending r with
  | none => some s
  | some p =>
    match p.ops.tgt with
    | .raw c off =>
      let loc := scratchLoc c off
      if feReady s loc p.ins then some (s.feAt r p loc) else none
    | .structured c b key op => s.tryStruct r p c b key op
    | _ => none

/-- The oldest sleeper of a list that can complete: the state after, and the list without it. -/
def State.serveOne (s : State) : List Ref → Option (State × List Ref)
  | [] => none
  | r :: rs =>
    match s.trySleeper r with
    | some s' => some (s', rs)
    | none => (s.serveOne rs).map (fun x => (x.1, r :: x.2))

/-- Serve sleepers, oldest first, until none can complete (R130, R137). `n` bounds the number served. -/
def State.serveWaiters (s : State) (c b : Nat) : Nat → State
  | 0 => s
  | n + 1 =>
    match s.serveOne (s.bank c b).waiters with
    | none => s
    | some (s', ws) => (s'.modBank c b (fun k => { k with waiters := ws })).serveWaiters c b n

def State.serveBank (s : State) (c b : Nat) : State :=
  let (tc, tb) := s.tableBank c b
  s.serveWaiters tc tb 64

/-- End every operation that waits on a bank with an outcome and no effect (R134). -/
def State.endWaiters (s : State) (c b : Nat) (bs : BitVec 3) : State :=
  let k := s.bank c b
  (k.waiters ++ k.retriers).foldl (fun s r =>
    match s.pending r with
    | some p => s.finish r (structResult p.ins bs 0)
    | none => s) (s.modBank c b (fun k => { k with waiters := [], retriers := [] }))

/-! ## BANKQ (R152) -/

/-- The personality code BANKQ gives: 6 save log or timed inbox, 7 inbox. -/
def State.bankStatus (s : State) (c b : Nat) : Word :=
  let x := s.core c
  let k := s.bank c b
  match s.groupOf c b with
  | some (_, g) =>
    let m := (g.members.takeWhile (fun m => m != (c, b))).length
    BitVec.ofNat 64 (2 ^ 40 + m * 2 ^ 36 + (g.members.length - 1) * 2 ^ 32 + s.bankCount c b * 2 ^ 19
      + k.pers.code * 2 ^ 16 + k.cap)
  | none =>
    if b = 15 then BitVec.ofNat 64 (x.inbox.length * 2 ^ 19 + 7 * 2 ^ 16 + 1024)
    else if b = 13 ∨ b = 14 then
      match x.vt with
      | none => 0
      | some v =>
        if b = 13 then BitVec.ofNat 64 (v.log.length * 2 ^ 19 + 6 * 2 ^ 16)
        else BitVec.ofNat 64 (v.inbox.length * 2 ^ 19 + 6 * 2 ^ 16 + 640)
    else BitVec.ofNat 64 (s.bankCount c b * 2 ^ 19 + k.pers.code * 2 ^ 16 + k.cap)

/-! ## An access on bytes, at a bank or a port -/

/-- Perform an access that reads or writes bytes at a place. -/
def State.bytesAt (s : State) (r : Ref) (p : Pending) (loc : Nat) : State :=
  match p.ins with
  | .ld d _ _ _ sz _ =>
    let n := loadSize sz
    s.consume r p loc n (fun s => s.finish r { x := [(d, loadValue sz (s.read loc n))] })
  | .ldf d _ _ _ sz _ =>
    let n := loadSize sz
    s.consume r p loc n (fun s => s.finish r { f := [(d, BitVec.ofNat 64 (s.read loc n))] })
  | .st _ _ _ _ sz _ => s.storeFor r p loc (storeSize sz) (p.ops.a.toNat + 2 ^ 64 * p.ops.b.toNat)
  | .stf _ _ _ _ sz _ => s.storeFor r p loc (storeSize sz) p.ops.a.toNat
  | .amoadd d _ _ _ z => s.amoAt r p .add d (amoSize z) loc
  | .amoand d _ _ _ z => s.amoAt r p .and d (amoSize z) loc
  | .amoor d _ _ _ z => s.amoAt r p .or d (amoSize z) loc
  | .amoxor d _ _ _ z => s.amoAt r p .xor d (amoSize z) loc
  | .amomin d _ _ _ z => s.amoAt r p .min d (amoSize z) loc
  | .amomax d _ _ _ z => s.amoAt r p .max d (amoSize z) loc
  | .amoswap d _ _ _ z => s.amoAt r p .swap d (amoSize z) loc
  | .cas d _ _ _ z => s.amoAt r p .cas d (amoSize z) loc
  | .segld g _ _ => s.segldAt r p g.toNat loc
  | .send _ _ _ => s.recordRead r loc
  | .spawn _ _ _ => s.recordRead r loc
  | .tsend _ _ _ _ => s.recordRead r loc
  | .dq d _ _ _ => (s.recordWrite p loc).dqDone r p d
  | .tnext d _ => (s.recordWrite p loc).finish r { x := [(d, p.ops.a)], bs := some bsOK }
  | _ => s

/-- Does the access write memory, and is it an atomic, for the rights of its leaf (R145)? -/
def askOf (i : Instr) : Ask :=
  match i with
  | .ld _ _ _ _ _ _ | .ldf _ _ _ _ _ _ | .segld _ _ _ | .send _ _ _ | .spawn _ _ _ | .tsend _ _ _ _ | .bankjoin _ _ => { r := true }
  | .st _ _ _ _ _ _ | .stf _ _ _ _ _ _ | .dq _ _ _ _ | .tnext _ _ => { w := true }
  | _ => { r := true, w := true, a := true }

/-- AMOADD, AMOSWAP and CAS are performed by the endpoint on host memory (R145). -/
def hostAtomic (i : Instr) : Bool :=
  match i with | .amoadd _ _ _ _ _ | .amoswap _ _ _ _ _ | .cas _ _ _ _ _ => true | _ => false

/-! ## Structured and bank accesses by kind of target -/

/-- Word to store through a window or a structured view, for the store forms. -/
def storeWord (p : Pending) : Option Word32 :=
  match p.ins with
  | .st _ _ _ _ _ _ | .stf _ _ _ _ _ _ => some (p.ops.a.setWidth 32)
  | _ => none

/-- What a window load writes (R49, R147). -/
def windowResult (i : Instr) (v : Word32) : Result :=
  match i with
  | .ld d _ _ _ sz _ => { x := [(d, loadValue sz v.toNat)] }
  | .ldf d _ _ _ _ _ => { f := [(d, v.setWidth 64)] }
  | _ => {}

/-- The range of an access from a raw offset on lies within one bank (R148); lines of a striped window lie in different banks
(R122). -/
def Pending.oneBank (p : Pending) (off : Nat) : Bool :=
  p.ops.n = 0 || (off / bankSize == (off + p.ops.n - 8) / bankSize &&
    (taKind p.ops.ta != 2 || decide (p.ops.ta % 128 + p.ops.n ≤ 128)))

def isFe (i : Instr) : Bool :=
  match i with
  | .ldfe _ _ _ _ | .ldff _ _ _ _ | .stef _ _ _ _ | .stff _ _ _ _ | .sete _ _ _ _ | .setf _ _ _ _ => true
  | _ => false

/-- A raw access arrives at its bank (R120, R136, R148). SETE and SETF of no word at all are refused by a bank that is not
PLAIN as well (DEDUCED, assumption 53). -/
def State.rawArrive (s : State) (r : Ref) (p : Pending) (c off : Nat) : State :=
  let b := off / bankSize
  let loc := scratchLoc c off
  if !s.plainBank c b then s.lateFail r cBADWIN p.ops.ea
  else if isFe p.ins then
    if !p.oneBank off then s.lateFail r cBADWIN p.ops.ea
    else if feReady s loc p.ins then (s.feAt r p loc).serveBank c b
    else s.sleepAt r c b
  else s.bytesAt r p loc

/-- A structured access arrives at its bank. -/
def State.structArrive (s : State) (r : Ref) (p : Pending) (c b key op : Nat) : State :=
  match s.tryStruct r p c b key op with
  | some s' => s'.serveBank c b
  | none => let (tc, tb) := s.tableBank c b; s.sleepAt r tc tb

end Sys2Proof.Machine
end

