-- ==== Sys2Proof/Machine/Fetch.lean ====
section
/-!
DEFINITION. Machine/Fetch.lean: instruction fetch (R54, R58, R98, R325) and the lines of the instruction caches (R326);
what a write of SCOPEPOL means to a FENCE that waits (R163).
-/
namespace Sys2Proof.Machine

/-! ## Where a word of code stands (R98) -/

/-- What stands at a tenant address for a fetch. -/
inductive CodePlace where
  | at (loc : Nat)
  | fault (code : Byte)
  /-- V = 0: the thread parks (R146) -/
  | absent
  /-- the bank is being converted or its quad is being reset: the fetch is held (R134, R350) -/
  | wait
  deriving DecidableEq, Repr

/-- On-chip code: raw view of the local, peer or striped kind, a PLAIN bank of a core of the virtual function (DEDUCED,
assumption 39). -/
def State.chipCode (s : State) (core ta n : Nat) : CodePlace :=
  if 2 < taKind ta then .fault cBADWIN
  else
    match targetOf s core ta { ea := 0, n := n, align := 1, sort := .record } with
    | some (.raw c off) =>
      let b := off / bankSize
      if s.coreOut c then .fault cBADWIN
      else if s.quadDown c || (s.bank c b).locked.isSome then .wait
      else if s.plainBank c b then .at (scratchLoc c off)
      else .fault cBADWIN
    | _ => .fault cBADWIN

/-- Code in paged space, translated at the cluster's port. -/
def State.pagedCode (s : State) (core ta : Nat) (sys : Bool) : CodePlace :=
  match s.translate (clusterOf core) (s.owner core) ta { x := true, sys := sys } false with
  | .absent => .absent
  | .fault c => .fault c
  | .ok pa => .at pa

def State.codePlace (s : State) (core ta n : Nat) (sys : Bool) : CodePlace :=
  if taOnChip ta then s.chipCode core ta n else s.pagedCode core ta sys

/-! ## Instruction caches -/

/-- The cached line that serves a fetch. A page with P serves privileged fetches only (DESIGN CHOICE, assumption 9). -/
def Core.lineFor (x : Core) (vf ta : Nat) (sys : Bool) : Option Line :=
  x.icache.find? (fun l => l.vf == vf && l.ta == ta / 128 * 128 && (sys || !l.priv))

/-- The cache takes the line of a tenant address as memory holds it now (DESIGN CHOICE, assumption 9). A line of memory spends a token
of the core's bucket, which must hold one (R335). -/
def State.fillLine (s : State) (c ta : Nat) : State :=
  let base := ta / 128 * 128
  match s.codePlace c base 128 true with
  | .at loc =>
    let priv := !taOnChip base && (match s.codePlace c base 128 false with | .at _ => false | _ => true)
    let fill := fun (s : State) => s.modCore c (fun x =>
      let l := x.icache.filter (fun y => !(y.vf == s.owner c && y.ta == base))
      { x with icache := l ++ [⟨s.owner c, base, priv, s.entriesAt loc 16⟩] })
    if taOnChip base then fill s
    else if (s.core c).hasToken (bucketOf loc) then fill (s.spend c (bucketOf loc))
    else s
  | _ => s

/-- A word of a doubleword. -/
def wordIn (d : Word) (ta : Nat) : Word32 := if ta / 4 % 2 = 1 then d.extractLsb' 32 32 else d.extractLsb' 0 32

/-! ## Fetching -/

/-- What a fetch gives. -/
inductive Fetched (α : Type) where
  | ok (v : α)
  | fault (code : Byte) (tval : Word)
  | park (ta : Nat)
  | wait
  deriving DecidableEq, Repr

/-- The word at an address of the thread: ALIGN, then SEGRIGHT and SEGLIM by its segment, then what stands there (R98;
DEDUCED, assumption 39). -/
def State.fetchWord (s : State) (core : Nat) (t : Thread) (pc : Word) : Fetched Word32 :=
  let g := t.segOf pc
  let ta := segBase g + eaOffset pc
  if pc.toNat % 4 ≠ 0 then .fault cALIGN pc
  else if !segX g || (segP g && !t.sys) then .fault cSEGRIGHT pc
  else if segLimit g ≤ eaOffset pc ∨ 2 ^ 52 ≤ ta then .fault cSEGLIM pc
  else
    match (s.core core).lineFor (s.owner core) ta t.sys with
    | some l =>
      let e := l.data.getD (ta % 128 / 8) ⟨0, false⟩
      if e.poison then .fault cPOISON pc else .ok (wordIn e.d ta)
    | none =>
      match s.codePlace core ta 4 t.sys with
      | .at loc =>
        if !taOnChip ta && !(s.core core).hasToken (bucketOf loc) then .wait
        else if (s.poisonIn loc 4).isSome then .fault cPOISON pc else .ok (wordIn (s.entryAt (dword loc)).d loc)
      | .fault c => .fault c pc
      | .absent => .park ta
      | .wait => .wait

/-- The bucket of which a fetch costs a token: of memory, when no line of the cache serves it (R335). -/
def State.fetchBucket (s : State) (core : Nat) (t : Thread) (pc : Word) : Option Nat :=
  let ta := segBase (t.segOf pc) + eaOffset pc
  if taOnChip ta || ((s.core core).lineFor (s.owner core) ta t.sys).isSome then none
  else match s.pagedCode core ta t.sys with | .at loc => some (bucketOf loc) | _ => none

/-- The buckets of which the fetch of an instruction of n words costs tokens: for each line in which it has a word (R335; DESIGN CHOICE,
assumption 20). A first word that stands in XW is not fetched (R325). -/
def State.fetchBuckets (s : State) (core : Nat) (t : Thread) (n : Nat) : List Nat :=
  let first := if t.xw.isSome then 1 else 0
  ((List.range n).drop first).filterMap (fun i =>
    let pc := t.pc + BitVec.ofNat 64 (4 * i)
    if i = first ∨ (segBase (t.segOf pc) + eaOffset pc) % 128 = 0 then s.fetchBucket core t pc else none)

/-- Pay for the fetch of an instruction of n words. -/
def State.payFetch (s : State) (core : Nat) (t : Thread) (n : Nat) : State :=
  (s.fetchBuckets core t n).foldl (fun s b => s.spend core b) s

/-- The core's buckets hold a token for each of these lines. -/
def Core.canPay (x : Core) (l : List Nat) : Bool :=
  [0, 1].all (fun b => let n := l.count b; decide (n = 0) || unlimited (x.bucketNow b) || decide (n ≤ x.tokens b))

/-- Go on with a word that has been fetched. -/
def Fetched.bind {α β : Type} (x : Fetched α) (f : α → Fetched β) : Fetched β :=
  match x with
  | .ok v => f v
  | .fault c tv => .fault c tv
  | .park ta => .park ta
  | .wait => .wait

/-- ILLOP with TVAL the word (R76). -/
def illWord {α : Type} (w : Word32) : Fetched α := .fault cILLOP (w.setWidth 64)

/-- The four parameter words after a word (R58). -/
def State.fetchParams (s : State) (core : Nat) (t : Thread) (pc : Word) : Fetched Params :=
  (s.fetchWord core t (pc + 4)).bind fun a =>
  (s.fetchWord core t (pc + 8)).bind fun b =>
  (s.fetchWord core t (pc + 12)).bind fun c =>
  (s.fetchWord core t (pc + 16)).bind fun d => .ok ⟨a, b, c, d⟩

/-- The instruction of a word, its parameter words fetched and their markers replaced (R58, R76; DEDUCED, assumption 39). The
faults of the parameter words and of their markers come before the field checks of the word, and an unused parameter word must be
0 once its marker is replaced (DEDUCED, assumption 54). -/
def State.instrOf (s : State) (core : Nat) (t : Thread) (w : Word32) : Fetched Instr :=
  if isLMajor (fldN w 26 6) then
    if (decodeL w ⟨0, 0, 0, 0⟩).isNone then illWord w
    else
      (s.fetchParams core t t.pc).bind fun p =>
        match p.firstBad with
        | some m => illWord m
        | none => match decodeL w (p.subst t.rx) with | some i => .ok i | none => illWord w
  else match decodeOne w with | some i => .ok i | none => illWord w

/-- The first word of the next instruction of a thread: XW when XB is set (R325), else the word at its PC (DEDUCED, assumption 39). -/
def State.firstWord (s : State) (core : Nat) (t : Thread) : Fetched Word32 :=
  match t.xw with
  | some w => .ok w
  | none => s.fetchWord core t t.pc

/-- The next instruction of a thread: the one that has issued and waits (R163), else the one that its words give. -/
def State.nextInstr (s : State) (core : Nat) (t : Thread) : Fetched Instr :=
  match t.passed with
  | some i => .ok i
  | none => (s.firstWord core t).bind (s.instrOf core t)

/-- Words of the next instruction that its fetch meets: all of them, or those up to one that cannot be read. -/
def State.fetchLen (s : State) (core : Nat) (t : Thread) : Nat :=
  if t.passed.isSome then 0
  else
    match s.firstWord core t with
    | .ok w =>
      if isLMajor (fldN w 26 6) && (decodeL w ⟨0, 0, 0, 0⟩).isSome then
        min 5 (2 + (([1, 2, 3, 4] : List Nat).takeWhile (fun i =>
          match s.fetchWord core t (t.pc + BitVec.ofNat 64 (4 * i)) with | .ok _ => true | _ => false)).length)
      else 1
    | _ => 1

/-- The fetch of the next instruction of a thread can be paid for. -/
def State.fetchPaid (s : State) (core : Nat) (t : Thread) : Bool := (s.core core).canPay (s.fetchBuckets core t (s.fetchLen core t))

/-- The next instruction has words in two lines and the bucket does not hold a token for both: the first of them is fetched for its
token and the other is waited for (R335; DESIGN CHOICE, assumption 20). -/
def State.fetchAhead (s : State) (c k : Nat) : State :=
  let t := s.thr c k
  let n := s.fetchLen c t
  if !t.inRotation || s.fetchPaid c t then s
  else
    match (List.range n).find? (fun i => (s.fetchBucket c t (t.pc + BitVec.ofNat 64 (4 * i))).isSome) with
    | some i => let pc := t.pc + BitVec.ofNat 64 (4 * i); s.fillLine c (segBase (t.segOf pc) + eaOffset pc)
    | none => s

/-! ## SCOPEPOL (R163) -/

/-- SCOPEPOL takes a value. What waits after the check of its scope keeps the check it passed (Thread.passed). -/
def State.writeScopepol (s : State) (vf : Nat) (v : Word) : State := s.modVf vf (fun x => { x with scopepol := v })

/-- A store through the system kind by a thread of a core (R65, R117): SCOPEPOL is written by an application core of the control
die, and only so. -/
def State.storeCoreReg (s : State) (core c n : Nat) (v : Word) : Except RegErr State :=
  if n = 0x200 ∧ coreCount ≤ core then (if scopepolOk v then .ok (s.writeScopepol (s.owner c) v) else .error .illop)
  else s.writeCoreReg c n v

end Sys2Proof.Machine
end

