-- ==== Sys2Proof/Machine/Arrive.lean ====
section
/-!
DEFINITION. Machine/Arrive.lean: an access arrives at its bank (R128, R134, R350); BANKCFG and its conversion, BANKJOIN
(R131, R134, R135, R152, R153); SEND and DQ at the inbox (R154, R155); threads on their way between cores (R123 to R126).
-/
namespace Sys2Proof.Machine

/-! ## BANKCFG (R134, R135, R152) -/

/-- Bank and core that BANKCFG or BANKQ names. -/
def Pending.bankOf (p : Pending) : Nat × Nat := (p.ops.tgt.bank).getD (0, 0)

/-- The address of doubleword `dw` of the bank that BANKCFG names, in the raw view of the address it was given. -/
def Pending.bankAddr (p : Pending) (b dw : Nat) : Word :=
  let off := if taView p.ops.ta = 1 then 2 ^ 44 + p.ops.ta % 2 ^ 32 else p.ops.ta % bankSize
  let back := if taView p.ops.ta = 1 then b * bankSize else 0
  p.ops.ea + BitVec.ofNat 64 (back + 8 * dw) - BitVec.ofNat 64 off

/-- BANKCFG arrives: it is refused, or the bank is locked and every operation waiting on it ends with RECONF (DEDUCED,
assumption 41). -/
def State.bankcfgArrive (s : State) (r : Ref) (p : Pending) (keep : Bool) : State :=
  let (c, b) := p.bankOf
  let k := s.bank c b
  if k.group.isSome || decide (8 ≤ b) then s.lateFail r cILLCFG (wordVal p.ins)
  else
    let lock := fun (_ : Unit) =>
      ((s.endWaiters c b bsRECONF).modBank c b (fun k => { k with locked := some r })).modPend r
        (fun p => { p with phase := .queued, ops := { p.ops with a := k.word, stage := 1 } })
    if keep then
      match convertTo k (s.bankWords c b) (cfgPers p.ops.b) (cfgCap p.ops.b) with
      | .illcfg => s.lateFail r cILLCFG (wordVal p.ins)
      | .poison dw => s.lateFail r cPOISON (p.bankAddr b dw)
      | _ => lock ()
    else lock ()

/-- The conversion itself (R134, R135; DEDUCED, assumption 41). -/
def State.convert (s : State) (c b : Nat) (keep : Bool) (v : Word) : State :=
  let k := s.bank c b
  let kind := cfgPers v
  let cap := cfgCap v
  let fresh := fun (s : State) (q : Pers) (rank : Nat) =>
    (s.clear (bankLoc c b 0) bankSize).modBank c b
      (fun k => { k with pers := q, cap := cap, rank := rank, conf := s.nextId })
  let s := { s with nextId := s.nextId + 1 }
  if keep then
    match convertTo k (s.bankWords c b) kind cap with
    | .pers q rank => fresh s q rank
    | .image l => s.plainImage c b l
    | _ => s
  else fresh s (Pers.empty kind cap) 0

/-! ## BANKQ -/

def State.bankqArrive (s : State) (r : Ref) (p : Pending) (d : Reg) : State :=
  let (c, b) := p.bankOf
  s.finish r { x := [(d, s.bankStatus c b)] }

/-! ## Arrival -/

/-- The bank an access arrives at: its target's, or the bank of a window element. -/
def Pending.arrivesAt (p : Pending) : Option (Nat × Nat) :=
  match p.ops.tgt with
  | .window view unit st e _ => let (c, off) := windowByte view unit st e; some (c, off / bankSize)
  | t => t.bank

/-- A SETE or SETF that has changed some of its words, so that it has arrived at its bank. -/
def Pending.begun (p : Pending) : Bool := match p.ins with | .sete _ _ _ _ | .setf _ _ _ _ => p.ops.c != 0 | _ => false

/-- A system-kind access at its core (R117). -/
def State.sysArrive (s : State) (r : Ref) (p : Pending) (c reg : Nat) : State :=
  if s.coreOut c || !(s.isCoreOf c (s.owner r.core) || decide (coreCount ≤ r.core)) then s.lateFail r cBADWIN p.ops.ea
  else if s.quadDown c && decide (quadOf c ≠ quadOf r.core) then s.holdAtQuad r c
  else
  match p.ins with
  | .ld d _ _ _ _ _ => s.finish r { x := [(d, (s.readCoreReg c reg).getD 0)] }
  | _ =>
    match s.storeCoreReg r.core c reg p.ops.a with
    | .ok s' =>
      if !s.logRoom p 1 then s.sleepLog r p
      else (if p.ops.tm then s'.addLog p.ops.core (.sysreg c reg ((s.readCoreReg c reg).getD 0)) else s').finish r {}
    | .error _ => s.lateFail r cILLOP (wordVal p.ins)

/-- An access arrives and is performed whole at one instant, or is held at a locked bank or a quad under reset. Ownership is
tested again, under the owner that stands now (R334). -/
def State.arrive (s : State) (r : Ref) (p : Pending) : State :=
  match p.arrivesAt with
  | some (c, b) =>
    if s.coreOut c || s.owner c != s.owner r.core then s.lateFail r cBADWIN p.ops.ea
    else if s.quadDown c && (s.groupOf c b).isNone && decide (quadOf c ≠ quadOf r.core) then s.holdAtQuad r c
    else if (s.bank c b).locked.isSome && !p.begun then s.holdAtBank r c b
    else
      match p.ins with
      | .bankcfg _ _ _ _ k => s.bankcfgArrive r p (k == 1)
      | .bankq d _ _ => s.bankqArrive r p d
      | _ =>
        match p.ops.tgt with
        | .raw c off => s.rawArrive r p c off
        | .structured c b key op => s.structArrive r p c b key op
        | .window v u st e _ => s.windowAt r p v u st e (storeWord p) (windowResult p.ins)
        | _ => s
  | none =>
    match p.ops.tgt with
    | .sysreg c reg => s.sysArrive r p c reg
    | _ => s

/-- Accesses held, in arrival order. -/
def State.arriveAll (s : State) : List Ref → State
  | [] => s
  | r :: rs =>
    (match s.pending r with
     | some p => s.arrive r p
     | none => s).arriveAll rs

/-- Nothing that the lock did not hold back has made the conversion impossible (an error in the bank, a rollback): else BANKCFG
ends with the fault that the bank's contents call for now (DEDUCED, assumption 41). -/
def State.conversionFault (s : State) (p : Pending) (c b : Nat) (keep : Bool) : Option (Byte × Word) :=
  if keep then
    match convertTo (s.bank c b) (s.bankWords c b) (cfgPers p.ops.b) (cfgCap p.ops.b) with
    | .illcfg => some (cILLCFG, wordVal p.ins)
    | .poison dw => some (cPOISON, p.bankAddr b dw)
    | _ => none
  else none

/-- A SETE or SETF that arrived at a bank before its lock is still changing its words there (R134). -/
def State.stillSetting (s : State) (c b : Nat) : Bool :=
  s.cores.any (fun x => x.2.slots.toList.any (fun t => t.pend.any (fun p =>
    p.begun && p.phase == .flight && p.arrivesAt == some (c, b))))

/-- The bank's lock ends: the conversion is done, BANKCFG completes, and held accesses are performed in arrival order. -/
def State.conversionDone (s : State) (c b : Nat) : State :=
  match (s.bank c b).locked with
  | none => s
  | some r =>
    let heldRefs := (s.bank c b).held
    match s.pending r with
    | some p =>
      if s.stillSetting c b then s
      else
      match p.ins with
      | .bankcfg d _ _ _ k =>
        let open_ := fun (s : State) => s.modBank c b (fun k => { k with locked := none, held := [] })
        match s.conversionFault p c b (k == 1) with
        | some (code, tv) => ((open_ s).lateFail r code tv).arriveAll heldRefs
        | none => ((open_ (s.convert c b (k == 1) p.ops.b)).finish r { x := [(d, p.ops.a)], bs := some bsOK }).arriveAll heldRefs
      | _ => s
    | none => (s.modBank c b (fun k => { k with locked := none, held := [] })).arriveAll heldRefs

/-! ## BANKJOIN (R131, R153) -/

/-- The members a descriptor names: none when a reserved bit is set. -/
def memberOf (cl : Nat) (e : Entry) : Option (Nat × Nat) :=
  if zeroBits e.d 63 9 then some (64 * cl + e.d.toNat % 64, e.d.toNat / 64 % 8) else none

/-- A number for a new group. -/
def Cluster.newGroup (k : Cluster) : Nat := k.groups.foldl (fun n g => max n (g.1 + 1)) 1

/-- Members are distinct, of one personality that is not PLAIN, in no group and empty (R131). -/
def State.joinable (s : State) (ms : List (Nat × Nat)) : Bool :=
  decide (2 ≤ ms.length) && decide ms.Nodup &&
  ms.all (fun m =>
    let k := s.bank m.1 m.2
    k.group.isNone && k.pers.code != 0 && k.own.count == 0 &&
    k.pers.code == (s.bank (ms.headD (0, 0)).1 (ms.headD (0, 0)).2).pers.code)

/-- Where the sleeper of a bank waits: in the table of the bank it names, or of its group's home. -/
def State.sleeperBank (s : State) (r : Ref) : Option (Nat × Nat) :=
  (s.pending r).bind (fun p => p.arrivesAt.map (fun m => s.tableBank m.1 m.2))

/-- The operations asleep on banks whose group has formed or dissolved go to the table that serves them from now on, members in
index order, oldest first; one that the table cannot hold is offered again (R130, R131, R139; DESIGN CHOICE, assumption 53). -/
def State.moveSleepers (s : State) (ms : List (Nat × Nat)) : State :=
  let refs := ms.flatMap (fun m => (s.bank m.1 m.2).waiters ++ (s.bank m.1 m.2).retriers)
  let s1 := ms.foldl (fun (s : State) m => s.modBank m.1 m.2 (fun k => { k with waiters := [], retriers := [] })) s
  refs.foldl (fun s r => match s.sleeperBank r with | some (c, b) => s.sleepAt r c b | none => s) s1

/-- Form a group (R131; what sleeps on its members: DESIGN CHOICE, assumption 53). -/
def State.formGroup (s : State) (cl : Nat) (ms : List (Nat × Nat)) : State :=
  let n := (s.cluster cl).newGroup
  let s := s.modCluster cl (fun k => { k with groups := aset k.groups n { members := ms } })
  (ms.foldl (fun s m => s.modBank m.1 m.2 (fun k => { k with group := some n })) s).moveSleepers ms

/-- Dissolve a group: its members are ordinary banks again. -/
def State.dissolve (s : State) (cl n : Nat) : State :=
  match alook (s.cluster cl).groups n with
  | none => s
  | some g =>
    let s := s.modCluster cl (fun k => { k with groups := adel k.groups n })
    (g.members.foldl (fun s m => s.modBank m.1 m.2 (fun k => { k with group := none })) s).moveSleepers g.members

/-- BANKJOIN with its descriptor read: `n` and the doublewords after it. It locks every member for the one instant that it takes,
and waits for a member that a BANKCFG has locked (R153). -/
def State.joinAt (s : State) (r : Ref) (p : Pending) (n : Nat) (es : List Entry) : State :=
  let cl := clusterOf r.core
  let bad := s.lateFail r cILLCFG (wordVal p.ins)
  let vf := s.owner r.core
  if n = 0 then
    match memberOf cl (es.headD ⟨0, false⟩) with
    | none => bad
    | some m =>
      if !s.isCoreOf m.1 vf then s.lateFail r cBADWIN p.ops.ea
      else
        match s.groupOf m.1 m.2 with
        | some (g, gr) =>
          if gr.members.headD (0, 0) = m ∧ (s.gather m.1 m.2).count = 0 then
            (s.dissolve cl g).finish r (Result.status bsOK)
          else bad
        | none => bad
  else if n < 2 ∨ 16 < n then bad
  else
    let ms := (es.take n).map (memberOf cl)
    if ms.any (fun m => m.isNone) then bad
    else
      let ms := ms.filterMap id
      if ms.any (fun m => !s.isCoreOf m.1 vf) then s.lateFail r cBADWIN p.ops.ea
      else if ms.any (fun m => (s.bank m.1 m.2).locked.isSome) then s
      else if s.joinable ms then (s.formGroup cl ms).finish r (Result.status bsOK)
      else bad

/-- Where doubleword i of a record that an access names stands. A range of a core's own, a peer's or a remote core's space ends
where that space does (R117); a remote access that has brought its thread there is a local one (R123). -/
def State.recordPlace (s : State) (core : Nat) (o : Operands) (k : Ask) (i : Nat) : Place :=
  match o.tgt with
  | .raw c off =>
    if taKind o.ta = 2 then s.dwPlace core (o.ta + 8 * i) k
    else if off + 8 * i + 8 ≤ (if o.here || taKind o.ta == 0 then scratchSize else 0x40000) then s.rawAt core c (off + 8 * i)
    else .fault cBADWIN
  | _ => s.dwPlace core (o.ta + 8 * i) k

/-- Places of n doublewords: none while one has to wait, else the first fault with its index, or the places. -/
def placesOf (place : Nat → Place) (n : Nat) : Except (Option (Byte × Nat)) (List Nat) :=
  let ps := (List.range n).map place
  if ps.contains .absent then .error none
  else
    match ps.zipIdx.findSome? (fun x => match x.1 with | .fault c => some (c, x.2) | _ => none) with
    | some e => .error (some e)
    | none => .ok (ps.filterMap (fun x => match x with | .at l => some l | _ => none))

/-- Read doublewords of a descriptor; the fault of the first that cannot be read (R138, R145), with its index; none while one has
to wait. -/
def State.readDws (s : State) (place : Nat → Place) : Nat → Nat → Except (Option (Byte × Nat)) (List Entry)
  | 0, _ => .ok []
  | n + 1, i =>
    match place i with
    | .absent => .error none
    | .fault c => .error (some (c, i))
    | .at loc =>
      let e := s.entryAt loc
      if e.poison then .error (some (cPOISON, i))
      else
        match s.readDws place n (i + 1) with
        | .ok l => .ok (e :: l)
        | .error x => .error x

/-- An access that cannot be performed yet: it parks for the pager (R146), or stays in flight before a bank that is shut. -/
def State.waitAt (s : State) (r : Ref) (p : Pending) : State := if taOnChip p.ops.ta then s else s.setPhase r .parked

/-- What a thread's read of n doublewords of paged space enters into its block's record (R280). -/
def State.trackRange (s : State) (r : Ref) (place : Nat → Place) (ta n : Nat) : State :=
  (List.range n).foldl (fun (s : State) i =>
    match place i with
    | .at loc => s.track (s.owner r.core) (s.thr r.core r.slot).tag (ta + 8 * i) loc false
    | _ => s) s

/-- BANKJOIN reads its descriptor and acts (R153). The bytes beyond the count are checked against LIMIT here, since the
count is not known at issue; with n = 0 they are 16 (DEDUCED, DESIGN CHOICE, assumption 16). Bits [63:5] of doubleword 0 must be 0
(DEDUCED, assumption 53). -/
def State.bankjoinArrive (s : State) (r : Ref) (p : Pending) : State :=
  let ask : Ask := { r := true, sys := p.ops.sys }
  let place := s.recordPlace r.core p.ops ask
  let fail := fun (c : Byte) (i : Nat) => s.lateFail r c (p.ops.ea + BitVec.ofNat 64 (8 * i))
  match s.readDws place 1 0 with
  | .error none => s.waitAt r p
  | .error (some (c, i)) => fail c i
  | .ok es =>
    let d := (es.headD ⟨0, false⟩).d
    let n := d.toNat % 32
    let more := if n = 0 then 1 else n
    if !zeroBits d 63 5 ∨ 16 < n then s.lateFail r cILLCFG (wordVal p.ins)
    else if p.ops.c.toNat < 8 * (more + 1) then s.lateFail r cSEGLIM p.ops.ea
    else
      match s.readDws place more 1 with
      | .error none => s.waitAt r p
      | .error (some (c, i)) => fail c i
      | .ok es =>
        let (s1, paid) := s.payRange r r.core p.ops.ta (more + 1) ask
        if paid then (s1.trackRange r place p.ops.ta (more + 1)).joinAt r p n es else s1

/-! ## SEND and DQ at the inbox (R154, R155) -/

/-- A target in the COREID layout (R68): package and core, or none when bits [63:16] are not 0. -/
def targetCore (v : Word) : Option (Nat × Nat) :=
  if zeroBits v 63 16 then some (v.toNat / 2048 % 32, v.toNat % 2048) else none

/-- A target that is known at issue not to be a core of the tenant (R314): bits [63:16], or a core of this package. -/
def State.badTarget (s : State) (v : Word) : Bool :=
  match targetCore v with
  | none => true
  | some (pkg, c) => pkg == s.pkg.toNat && !s.isCoreOf c (s.owner s.curCore)

/-- SCOPEPOL.PKGS (R163; DESIGN CHOICE, assumption 5). -/
def VF.pkgs (v : VF) : Nat := v.scopepol.toNat / 2 ^ 32

/-- Another package can hold a core of the tenant: a route leads there (R344), and PKGS names it (R163). -/
def State.reaches (s : State) (vf pkg : Nat) : Bool := s.routed pkg && (s.vf vf).pkgs.testBit pkg

/-- What another package answers is outside this one: OK, FULL or not a core of the tenant, as a free choice
(assumption 17; DESIGN CHOICE, assumption 5). -/
def State.foreignAnswer (s : State) : Nat × State :=
  let (w, s') := s.freeWord
  (w.toNat % 3, s')

/-- SEND's record reaches its inbox (R154; DESIGN CHOICE, assumption 17). -/
def State.sendArrive (s : State) (r : Ref) (p : Pending) : State :=
  match targetCore p.ops.a with
  | none => s.lateFail r cBADWIN p.ops.a
  | some (pkg, c) =>
    let m := Msg.ofEntries p.ops.got
    if pkg = s.pkg.toNat then
      if !s.isCoreOf c (s.owner r.core) || s.coreOut c then s.lateFail r cBADWIN p.ops.a
      else if (s.core c).inboxRoom then (s.enqueue c m).finish r (Result.status bsOK)
      else s.finish r (Result.status bsFULL)
    else if !s.reaches (s.owner r.core) pkg then s.lateFail r cBADWIN p.ops.a
    else
      let (k, s) := s.foreignAnswer
      if k = 0 then ({ s with sent := s.sent ++ [(p.ops.a, m)] }).finish r (Result.status bsOK)
      else if k = 1 then s.finish r (Result.status bsFULL)
      else s.lateFail r cBADWIN p.ops.a

/-- DQ arrives at bank 15 of its core (R155). -/
def State.dqArrive (s : State) (r : Ref) (p : Pending) (d : Reg) (wait : Bool) : State :=
  match (s.core r.core).inbox with
  | [] =>
    if wait then (s.modCore r.core (fun x => { x with dqWaiters := x.dqWaiters ++ [r] })).setPhase r .asleep
    else s.finish r { x := [(d, 0)], bs := some bsEMPTY }
  | m :: ms => (s.modCore r.core (fun x => { x with inbox := ms })).modPend r (fun p => dqGot p m)

/-- A message the hardware holds enters its inbox once there is room (R140). -/
def State.hwDeliver (s : State) (c : Nat) : State :=
  match (s.core c).hwHeld with
  | [] => s
  | m :: ms =>
    if (s.core c).inboxRoom && !s.quadDown c then (s.modCore c (fun x => { x with hwHeld := ms })).enqueue c m else s

/-! ## Threads on their way (R123 to R126) -/

/-- A guest slot of a core that is free: Idle and not held, 11 to 13, and 14 while virtual time is off (DEDUCED,
assumption 47). -/
def Core.freeGuest (x : Core) : Option Nat :=
  [11, 12, 13, 14].find? (fun k => (x.slot k).st == .idle && !(x.slot k).held && (k != 14 || x.vt.isNone))

/-- Registers that do not travel arrive holding 0 (R69, R123). -/
def Thread.packed (t : Thread) : Thread :=
  { t with
    x := t.x.mapFinIdx (fun i v _ => if t.live.getLsbD i && i != 0 then v else 0)
    f := t.f.mapFinIdx (fun i v _ => if t.live.getLsbD (32 + i) then v else 0) }

/-- What an access names once its thread is at a core: the core's own space for a foreign access that has brought its thread
there (R123), and the same tenant address looked at afresh for one that is reissued (R126, R130). A reissued access that names a
core of another cluster takes its thread there in turn, with nothing issued under its cover. -/
def State.retarget (s : State) (core : Nat) (t : Thread) (p : Pending) : Pending :=
  match needOf p.ins t with
  | none => { p with phase := .flight }
  | some nd =>
    let nd := { nd with ea := p.ops.ea, n := p.ops.n }
    let here := p.ops.here || p.phase == .leaving
    match (if here then coreTarget s (s.owner core) core scratchSize p.ops.ta nd else targetOf s core p.ops.ta nd) with
    | some g =>
      { p with phase := .flight, ops := { p.ops with tgt := g, core := core, here := here }
               cover := match g with | .foreign _ _ => 0 | _ => p.cover }
    | none => { p with phase := .fault cBADWIN p.ops.ea }

/-- An access that was on its way with its thread, or was withdrawn, and is to be performed or issued again. -/
def Pending.again (p : Pending) : Bool :=
  p.phase == .leaving || (p.phase == .withdrawn && !(cls p.ins).sfu && (match p.ins with | .mlease _ _ => false | _ => true))

/-- Issue such accesses again in program order, up to the first that takes its thread elsewhere: the rest follow it (R123). -/
def State.retargets (s : State) (core : Nat) (t : Thread) : List Pending → List Pending
  | [] => []
  | p :: ps =>
    if p.again then
      let q := s.retarget core t p
      match q.ops.tgt, q.phase with
      | .foreign _ _, .flight => q :: ps
      | _, _ => q :: s.retargets core t ps
    else p :: s.retargets core t ps

/-- Issue again what was withdrawn: accesses, lease requests, SFU requests (R130, R198, R203). -/
def State.reissue (s : State) (c k : Nat) : State :=
  let s := s.modThr c k (fun t => { t with pend := s.retargets c t t.pend })
  let s := (s.thr c k).pend.foldl (fun (s : State) p =>
    match p.phase, p.ins with
    | .withdrawn, .mlease _ _ =>
      (s.setPhase ⟨c, k, p.id⟩ .asleep).modCluster (clusterOf c)
        (fun x => { x with leaseQ := x.leaseQ ++ [⟨⟨c, k, p.id⟩, s.owner c, p.ops.n⟩] })
    | _, _ => s) s
  s.rejoinSfu c k

/-- Place a thread in a slot of a core it has come to. EPC, CAUSE and TVAL of the slot stay, except that those of a Trapped
guest travel with it (R65, R126). -/
def State.install (s : State) (c k : Nat) (t : Thread) : State :=
  let home := c == t.home && k == t.homeSlot
  let t : Thread := { t.packed with mig := !home && c != t.home, held := false, returned := false, back := s.cycle + 1, fetchPark := none }
  if t.st = .trapped then s.putThr c k t else (s.seat c k t).reissue c k

/-- A MIGRATE completes with its thread's arrival (R156; DEDUCED, assumption 47). -/
def Thread.arrived (t : Thread) : Thread :=
  { t with pend := t.pend.filter (fun p => match p.ins with | .migrate _ => false | _ => true) }

/-- A thread that waits to arrive goes home instead: the access that it came for is withdrawn, to be issued again there (R126). -/
def Thread.turnedBack (t : Thread) : Thread :=
  { t with pend := t.pend.map (fun p => if p.phase = .leaving then { p with phase := .withdrawn, ops := { p.ops with here := false } } else p) }

/-- The slot a thread has left: held while its home (R229), otherwise Idle (DEDUCED, assumption 47). -/
def State.vacate (s : State) (c k : Nat) (t : Thread) : State :=
  s.seat c k
    (if c = t.home ∧ k = t.homeSlot then
      { home := t.home, homeSlot := t.homeSlot, held := true, tag := t.tag, member := t.member, args := t.args, sys := k == 15 }
    else { sys := k == 15 })

/-- The instruction that takes a thread elsewhere cannot (R156, R334, R355): BADWIN, late, with TVAL the ea or x[ra]. -/
def State.refuseMove (s : State) (m : Move) : State :=
  match (s.thr m.src m.slot).pend.find? (fun p => p.phase == .leaving) with
  | some p =>
    s.lateFail ⟨m.src, m.slot, p.id⟩ cBADWIN
      (match p.ins with | .migrate a => if a = 0 then 0 else BitVec.ofNat 64 m.dst | _ => p.ops.ea)
  | none => s

/-- A thread reaches its target (R123, R124): it is accepted into its home slot, a free guest slot, or the arrival queue; else it
is refused and stays at its source (DEDUCED, assumption 47). The target must still be a core of the tenant (R334), and a
packet that reaches a quad under reset waits for its end (R350). -/
def State.migrateArrive (s : State) (n : Nat) : State :=
  match s.packets[n]? with
  | none => s
  | some m =>
    if s.quadDown m.dst && decide (quadOf m.dst ≠ quadOf m.src) then s
    else
    let s := { s with packets := s.packets.eraseIdx n }
    let t := s.thr m.src m.slot
    let x := s.core m.dst
    if s.coreOut m.dst || s.owner m.dst != s.owner m.src then s.refuseMove m
    else if m.dst = t.home ∧ (m.src ≠ t.home ∨ m.slot ≠ t.homeSlot) then
      (s.vacate m.src m.slot t).install m.dst t.homeSlot t.arrived
    else if x.arrivals.isEmpty ∧ x.freeGuest.isSome then
      (s.vacate m.src m.slot t).install m.dst (x.freeGuest.getD 0) t.arrived
    else if x.arrivals.length < 8 then
      (s.vacate m.src m.slot t).modCore m.dst (fun x => { x with arrivals := x.arrivals ++ [⟨t.arrived, m.src, m.slot⟩] })
    else s.modCore m.src (fun x => { x with offers := x.offers ++ [m] })

/-- A queued thread takes a guest slot (R124). -/
def State.letIn (s : State) (c : Nat) : State :=
  let x := s.core c
  match x.arrivals, x.freeGuest with
  | p :: ps, some k => (s.putCore c { x with arrivals := ps }).install c k p.th
  | _, _ => s

/-- Refused packets are offered again (R124). -/
def State.reoffer (s : State) (c : Nat) : State :=
  let x := s.core c
  { s.putCore c { x with offers := [] } with packets := s.packets ++ x.offers }

end Sys2Proof.Machine
end

