-- ==== Sys2Proof/Machine/MemInstr.lean ====
section
/-!
DEFINITION. Machine/MemInstr.lean: the memory and bank instructions (R147 to R156) at issue. What they do when they are
performed is in Machine/Access.lean and Machine/Arrive.lean.
-/
namespace Sys2Proof.Machine

/-- The codebook that a resolved window access uses: CBKn for the CB4 view (R42, R48), on the thread's own core and on one it is
taken to (R123). -/
def windowCodebook (t : Thread) (tgt : Target) : List (BitVec 16) :=
  match tgt with
  | .window 8 _ _ _ cb => t.codebook cb
  | .foreign _ ta => if taView ta = 8 then t.codebook (taOffset ta / 2 ^ 30) else []
  | _ => []

/-- Operands of a load or store: the data and what its window needs. -/
def withData (t : Thread) (a b : Word) (o : Operands) : Operands :=
  { o with a := a, b := b, rm := BitVec.ofNat 3 t.rm, mxsb := t.mxsb, cb := windowCodebook t o.tgt }

/-- Checks of a load or store that follow step 6 of R119: the scale of an MXFP4 window (R41; here and before R35's ILLOP: DESIGN CHOICE,
assumption 14), the rounding mode of a window store (R35), and what the system kind may not write (R65, R117). `data` is there for a store. -/
def viewCheck (i : Instr) (nd : Need) (data : Option Word) (t : Thread) (s : State) : Option Fail :=
  match resolve s s.curCore t nd with
  | .error _ => none
  | .ok (_, tgt) =>
    match tgt, data with
    | .window 7 _ _ e _, d =>
      if (s.scalePlace s.curCore t.mxsb e).isNone then some ⟨(cBADWIN, nd.ea), none⟩
      else if d.isSome ∧ 4 ≤ t.rm then some ⟨(cILLOP, wordVal i), none⟩
      else none
    | .window v _ _ _ _, some _ => if viewRounds v ∧ 4 ≤ t.rm then some ⟨(cILLOP, wordVal i), none⟩ else none
    | .foreign _ ta, some _ =>
      if isWindow (taView ta) ∧ viewRounds (taView ta) ∧ 4 ≤ t.rm then some ⟨(cILLOP, wordVal i), none⟩ else none
    | .sysreg c n, some d =>
      match s.storeCoreReg s.curCore c n d with
      | .ok _ => none
      | .error .priv => some ⟨(cPRIV, wordVal i), none⟩
      | .error .illop => some ⟨(cILLOP, wordVal i), none⟩
    | _, _ => none

/-- A load or store (R147). -/
def plainAccess (i : Instr) (nd : Need) (data : Option Word) (b : Word) (t : Thread) (s : State) : Act :=
  match viewCheck i nd data t s with
  | some f => .trap f
  | none => access i nd (withData t (data.getD 0) b) t s

/-- R147. -/
def execLd (d a : Reg) (l : BitVec 4) (x : BitVec 1) (z : BitVec 3) (i : BitVec 8) (s : State) : Out :=
  issue (.ld d a l x z i) s (fun t s => plainAccess (.ld d a l x z i) (needLoad t a z i) none 0 t s)

/-- R147. ST.Q stores x[rs] and x[rs + 1]. -/
def execSt (r a : Reg) (l : BitVec 4) (x : BitVec 1) (z : BitVec 3) (i : BitVec 8) (s : State) : Out :=
  issue (.st r a l x z i) s (fun t s =>
    plainAccess (.st r a l x z i) (needStore t a z i) (some (t.rx r)) (if z = 4 then t.rx (r + 1) else 0) t s)

/-- R147. A configured destination is pushed when the load completes (R179). -/
def execLdf (d a : Reg) (l : BitVec 4) (x : BitVec 1) (z : BitVec 3) (i : BitVec 8) (s : State) : Out :=
  issue (.ldf d a l x z i) s (fun t s => fpOperands (.ldf d a l x z i) t (fun _ t' =>
    plainAccess (.ldf d a l x z i) { needLoad t a z i with sysOk := false } none 0 t (s.putMe t')))

/-- R147. A configured source is popped at issue (R179). -/
def execStf (r a : Reg) (l : BitVec 4) (x : BitVec 1) (z : BitVec 3) (i : BitVec 8) (s : State) : Out :=
  issue (.stf r a l x z i) s (fun t s => fpOperands (.stf r a l x z i) t (fun vs t' =>
    plainAccess (.stf r a l x z i) { needStore t a z i with sysOk := false } (some (vs.getD 0 0)) 0 t (s.putMe t')))

/-- R148. -/
def execLdfe (d a : Reg) (l : BitVec 4) (i : BitVec 8) (s : State) : Out :=
  issue (.ldfe d a l i) s (fun t s => access (.ldfe d a l i) (needFe t a i 8 true true) id t s)

/-- R148. -/
def execLdff (d a : Reg) (l : BitVec 4) (i : BitVec 8) (s : State) : Out :=
  issue (.ldff d a l i) s (fun t s => access (.ldff d a l i) (needFe t a i 8 true false) id t s)

/-- R148. -/
def execStef (r a : Reg) (l : BitVec 4) (i : BitVec 8) (s : State) : Out :=
  issue (.stef r a l i) s (fun t s =>
    access (.stef r a l i) (needFe t a i 8 false true) (fun o => { o with a := t.rx r }) t s)

/-- R148. -/
def execStff (r a : Reg) (l : BitVec 4) (i : BitVec 8) (s : State) : Out :=
  issue (.stff r a l i) s (fun t s =>
    access (.stff r a l i) (needFe t a i 8 false true) (fun o => { o with a := t.rx r }) t s)

/-- SETE and SETF: a count above 4,096 raises BADWIN before the other checks (R148). -/
def setRange (i : Instr) (c a : Reg) (d : BitVec 8) (t : Thread) (s : State) : Act :=
  let n := (t.rx c).toNat
  if 4096 < n then .fail cBADWIN (eaDisp (t.rx a) d 8) else access i (needFe t a d (8 * n) false true) id t s

/-- R148. -/
def execSete (c a : Reg) (l : BitVec 4) (i : BitVec 8) (s : State) : Out :=
  issue (.sete c a l i) s (fun t s => setRange (.sete c a l i) c a i t s)

/-- R148. -/
def execSetf (c a : Reg) (l : BitVec 4) (i : BitVec 8) (s : State) : Out :=
  issue (.setf c a l i) s (fun t s => setRange (.setf c a l i) c a i t s)

/-- An atomic (R149): its operand, and x[rd] for CAS, are read at issue. -/
def atomic (i : Instr) (d a b : Reg) (z : BitVec 1) (t : Thread) (s : State) : Act :=
  access i (needAmo t a z) (fun o => { o with a := t.rx d, b := t.rx b }) t s

/-- R149. -/
def execAmoadd (d a b : Reg) (l : BitVec 4) (z : BitVec 1) (s : State) : Out :=
  issue (.amoadd d a b l z) s (fun t s => atomic (.amoadd d a b l z) d a b z t s)

/-- R149. -/
def execAmoand (d a b : Reg) (l : BitVec 4) (z : BitVec 1) (s : State) : Out :=
  issue (.amoand d a b l z) s (fun t s => atomic (.amoand d a b l z) d a b z t s)

/-- R149. -/
def execAmoor (d a b : Reg) (l : BitVec 4) (z : BitVec 1) (s : State) : Out :=
  issue (.amoor d a b l z) s (fun t s => atomic (.amoor d a b l z) d a b z t s)

/-- R149. -/
def execAmoxor (d a b : Reg) (l : BitVec 4) (z : BitVec 1) (s : State) : Out :=
  issue (.amoxor d a b l z) s (fun t s => atomic (.amoxor d a b l z) d a b z t s)

/-- R149. -/
def execAmomin (d a b : Reg) (l : BitVec 4) (z : BitVec 1) (s : State) : Out :=
  issue (.amomin d a b l z) s (fun t s => atomic (.amomin d a b l z) d a b z t s)

/-- R149. -/
def execAmomax (d a b : Reg) (l : BitVec 4) (z : BitVec 1) (s : State) : Out :=
  issue (.amomax d a b l z) s (fun t s => atomic (.amomax d a b l z) d a b z t s)

/-- R149. -/
def execAmoswap (d a b : Reg) (l : BitVec 4) (z : BitVec 1) (s : State) : Out :=
  issue (.amoswap d a b l z) s (fun t s => atomic (.amoswap d a b l z) d a b z t s)

/-- R149. -/
def execCas (d a b : Reg) (l : BitVec 4) (z : BitVec 1) (s : State) : Out :=
  issue (.cas d a b l z) s (fun t s => atomic (.cas d a b l z) d a b z t s)

/-- R150, R163. The scope is checked before the wait, and the wait before the issue: nothing is left to do. -/
def execFence (c : BitVec 3) (s : State) : Out :=
  issue (.fence c) s (fun _ s => .ok s)

/-- R151. -/
def execSegld (g a : Reg) (l : BitVec 4) (s : State) : Out :=
  issue (.segld g a l) s (fun t s => access (.segld g a l) (needRecord (t.rx a) 16 16) id t s)

/-- R151. -/
def execSegrd (d g h : Reg) (s : State) : Out :=
  issue (.segrd d g h) s (fun t s =>
    writeX d ((t.rg g.toNat >>> (if h = 0 then 0 else 64)).setWidth 64) t s)

/-- BANKCFG at issue (R152): a bank above 7, or an invalid word, is refused with nothing changed, and TVAL holds the
operand value at fault (R314). -/
def bankcfgIssue (i : Instr) (a b : Reg) (t : Thread) (s : State) : Act :=
  let nd := needBank (t.rx a) true
  match resolve s s.curCore t nd with
  | .error tr => .trap ⟨tr, none⟩
  | .ok (_, tgt) =>
    let high := match tgt.bank with | some (_, n) => decide (8 ≤ n) | none => false
    if high then .fail cILLCFG (t.rx a)
    else if !cfgOk (t.rx b) then .fail cILLCFG (t.rx b)
    else access i nd (fun o => { o with b := t.rx b }) t s

/-- R134, R135, R152 (DEDUCED, assumption 41). -/
def execBankcfg (d a b : Reg) (l : BitVec 4) (k : BitVec 1) (s : State) : Out :=
  issue (.bankcfg d a b l k) s (fun t s => bankcfgIssue (.bankcfg d a b l k) a b t s)

/-- R152. -/
def execBankq (d a : Reg) (l : BitVec 4) (s : State) : Out :=
  issue (.bankq d a l) s (fun t s => access (.bankq d a l) (needBank (t.rx a) false) id t s)

/-- R153. The bytes that LIMIT leaves from ea on go with the request (assumption 16). -/
def execBankjoin (a : Reg) (l : BitVec 4) (s : State) : Out :=
  issue (.bankjoin a l) s (fun t s =>
    access (.bankjoin a l) (needRecord (t.rx a) 8 8)
      (fun o => { o with c := BitVec.ofNat 64 (segLimit (t.segOf (t.rx a)) - eaOffset (t.rx a)) }) t s)

/-- R154. Bits [63:16] of the target are checked first, a core of this package once the record's address has passed. -/
def execSend (r a : Reg) (l : BitVec 4) (s : State) : Out :=
  issue (.send r a l) s (fun t s =>
    if (targetCore (t.rx r)).isNone then .fail cBADWIN (t.rx r)
    else
      match resolve s s.curCore t (needRecord (t.rx a) 32 32) with
      | .error tr => .trap ⟨tr, none⟩
      | .ok _ =>
        if s.badTarget (t.rx r) then .fail cBADWIN (t.rx r)
        else access (.send r a l) (needRecord (t.rx a) 32 32) (fun o => { o with a := t.rx r }) t s)

/-- R155. With ra = 0 no record is written. -/
def execDq (d a : Reg) (l : BitVec 4) (w : BitVec 1) (s : State) : Out :=
  issue (.dq d a l w) s (fun t s =>
    if a = 0 then .ok (s.fly (.dq d a l w) { core := s.curCore, tm := t.tm, sys := t.sys } true false .flight)
    else access (.dq d a l w) (needRawRecord (t.rx a) true) id t s)

/-- The core MIGRATE names: its home, or x[ra] (R156); none for bits [63:11]. -/
def migrateTarget (a : Reg) (t : Thread) : Option Nat :=
  if a = 0 then some t.home else if (t.rx a).toNat < 2 ^ 11 then some (t.rx a).toNat else none

/-- R123, R125, R156. -/
def execMigrate (a : Reg) (s : State) : Out :=
  issue (.migrate a) s (fun t s =>
    match migrateTarget a t with
    | none => .fail cBADWIN (t.rx a)
    | some dst =>
      if !s.isCoreOf dst (s.owner s.curCore) then .fail cBADWIN (t.rx a)
      else if dst = s.curCore then .ok s
      else
        match s.mayLeave s.curCore s.curSlot (t.rx a) with
        | some tr => .trap ⟨tr, none⟩
        | none =>
          .ok (s.flyAway (.migrate a) { core := s.curCore, tgt := .foreign dst 0 } false false dst))

end Sys2Proof.Machine
end

