-- ==== Sys2Proof/Machine/Stream.lean ====
section
/-!
DEFINITION. Machine/Stream.lean: streams (R174 to R185): their configuration, the places of their elements, and the reads and
writes that the stream engine makes of them.
-/
namespace Sys2Proof.Machine

/-! ## Places (R176, R184) -/

/-- A 4-bit or 1-bit format. -/
def subByte (fmt : Nat) : Bool := fmt == 7 || fmt == 8 || fmt == 13

/-- Bytes a single element spans. -/
def elemBytes (fmt : Nat) : Nat := (elemBits fmt + 7) / 8

/-- Displacement of element e of row q from B. -/
def Stream.offset (st : Stream) (q e : Nat) : Int :=
  q * st.rowStride.toInt + (if subByte st.fmt then ((e * elemBits st.fmt / 8 : Nat) : Int) else e * st.stride.toInt)

/-- Row and element of the k-th element in row-major order. -/
def Stream.rowElem (st : Stream) (k : Nat) : Nat × Nat := (k / max st.count 1, k % max st.count 1)

/-- Displacements of the first and last byte that the stream touches, as the corners of its rows give them. -/
def Stream.extent (st : Stream) : Int × Int :=
  let w : Int := elemBytes st.fmt
  let (q, e) := (st.rows - 1, st.count - 1)
  let cs := [st.offset 0 0, st.offset 0 e, st.offset q 0, st.offset q e]
  (cs.foldl min 0, cs.foldl max 0 + w - 1)

/-- Steps 3 to 6 of R177 for the bytes B + lo to B + hi: the tenant address of B. `odd` says that step 5 fails.
Of a stream of no elements the offset of B is still held against LIMIT (DEDUCED, DESIGN CHOICE, assumption 10). -/
def streamCheck (s : State) (core : Nat) (t : Thread) (b : Word) (lo hi : Int) (write odd : Bool) : Except Trap Nat :=
  let g := t.segOf b
  let off : Int := eaOffset b
  let ta := segBase g + eaOffset b
  let nd : Need := { ea := b, n := (hi - lo + 1).toNat, align := 1, sort := .rawRecord }
  if (if write then !segW g else !segR g) || (segP g && !t.sys) then .error (cSEGRIGHT, b)
  else if off + lo < 0 ∨ (segLimit g : Int) < off + hi + 1 ∨ 2 ^ 52 ≤ (ta : Int) + hi then .error (cSEGLIM, b)
  else if odd then .error (cALIGN, b)
  else if !taOnChip ta || decide (2 < taKind ta) || decide ((taOffset ta : Int) + lo < 0) then .error (cBADWIN, b)
  else if taKind ta = 2 then
    (if taView ta = 0 ∧ taCore ta = 0 ∧ taCluster ta = 0 ∧ taReserved ta = 0 ∧ (taOffset ta : Int) + hi < stripedSize
     then .ok ta else .error (cBADWIN, b))
  else
    match targetOf s core (ta + lo).toNat nd with
    | some _ => .ok ta
    | none => .error (cBADWIN, b)

/-- Where an element lies: tenant address and ea, or the fault of an indexed element (R184). -/
def elemTa (s : State) (core : Nat) (t : Thread) (st : Stream) (k : Nat) (idxEa : Option Word) : Except Trap (Nat × Word) :=
  let w := elemBytes st.fmt
  match idxEa with
  | some ea =>
    match streamCheck s core t ea 0 (w - 1) (st.dir == 1) (ea.toNat % w != 0) with
    | .ok ta => .ok (ta, ea)
    | .error e => .error e
  | none =>
    let (q, e) := st.rowElem k
    let d := st.offset q e
    .ok (((st.ta : Int) + d).toNat, st.base + BitVec.ofInt 64 d)

/-- The place of an element in storage: core and raw offset, in a PLAIN bank. -/
def State.elemPlace (s : State) (core ta fmt : Nat) : Option (Nat × Nat) :=
  match s.rawPlace core ta (elemBytes fmt) with
  | some (c, o) => if s.plainBank c (o / bankSize) then some (c, o) else none
  | none => none

/-- An element must wait: its bank, or that of its scale, is shut (R134, R350). -/
def State.elemShut (s : State) (core : Nat) (t : Thread) (st : Stream) (k : Nat) (idxEa : Option Word) : Bool :=
  let shut := fun (p : Option (Nat × Nat)) => match p with | some (c, o) => s.bankShut core c (o / bankSize) | none => false
  match elemTa s core t st k idxEa with
  | .error _ => false
  | .ok (ta, _) =>
    shut (s.rawPlace core ta (elemBytes st.fmt)) || (st.fmt == 7 && shut (s.scalePlace core st.mxsb (st.rowElem k).2))

/-- The scale byte of an element of an MXFP4 stream: its place, or the fault (R180, R181). -/
def State.streamScale (s : State) (core : Nat) (st : Stream) (k : Nat) (ea : Word) : Except Trap Nat :=
  match s.scalePlace core st.mxsb (st.rowElem k).2 with
  | none => .error (cBADWIN, ea)
  | some (c, o) =>
    let loc := scratchLoc c o
    if !s.plainBank c (o / bankSize) then .error (cBADWIN, ea)
    else if s.poisoned loc then .error (cPOISON, ea)
    else .ok loc

/-- Read the stored bits of one element at its bank, with its scale byte (R180, R181). -/
def State.rawElem (s : State) (core : Nat) (t : Thread) (st : Stream) (k : Nat) (idxEa : Option Word) : ARead :=
  match elemTa s core t st k idxEa with
  | .error (c, tv) => .bad c tv
  | .ok (ta, ea) =>
    match s.elemPlace core ta st.fmt with
    | none => .bad cBADWIN ea
    | some (c, o) =>
      let loc := scratchLoc c o
      if s.poisoned loc then .bad cPOISON ea
      else
        let raw := s.elemBitsAt st.fmt (st.rowElem k).2 loc
        if st.fmt = 7 then
          match s.streamScale core st k ea with
          | .error (c, tv) => .bad c tv
          | .ok sl => .ok raw (s.read sl 1)
        else .ok raw 0

/-- One element, decoded (R179). -/
def State.readElem (s : State) (core : Nat) (t : Thread) (st : Stream) (k : Nat) (idxEa : Option Word) : Elem :=
  match s.rawElem core t st k idxEa with
  | .bad c tv => .bad c tv
  | .ok raw sc => .ok (decodeElem st.fmt st.codebook sc raw)

/-- A stream has more elements to read than it has fetched. -/
def Stream.canFetch (st : Stream) (k : Nat) : Bool :=
  st.configured && st.dir == 0 && decide (st.pos ≤ k ∧ k < st.total) && (alook st.fetched k).isNone

/-- Read element k of a read stream that is not indexed. -/
def State.fetchPlain (s : State) (c k n e : Nat) : State :=
  let t := s.thr c k
  let st := t.stream n
  if st.canFetch e && !s.elemShut c t st e none then
    s.putThr c k (t.putStream n { st with fetched := aset st.fetched e (s.readElem c t st e none) })
  else s

/-- Read the next element of an indexed read stream, taking the next index (R184). -/
def State.fetchIndexed (s : State) (c k n : Nat) : State :=
  let t := s.thr c k
  let st := t.stream n
  let e := st.pos + st.fetched.length
  if st.canFetch e then
    match t.pop st.link with
    | none => s
    | some (.bad code tv, t') => s.putThr c k (t'.putStream n { st with fetched := aset st.fetched e (.bad code tv) })
    | some (.ok v, t') =>
      let ea := some (st.indexedEa v)
      if s.elemShut c t st e ea then s
      else s.putThr c k (t'.putStream n { st with fetched := aset st.fetched e (s.readElem c t st e ea) })
  else s

/-- The next element of a read stream is read, if it has not been, and before it the index it takes; an index stream may be
indexed in turn (R184). The first number bounds the chain. -/
def State.fetchHead (s : State) (c k : Nat) : Nat → Nat → State
  | 0, _ => s
  | d + 1, n =>
    let st := (s.thr c k).stream n
    if st.ready then s
    else if st.indexed then (s.fetchHead c k d st.link).fetchIndexed c k n
    else s.fetchPlain c k n st.pos

/-- One read by the stream engine. -/
def State.fetchElem (s : State) (c k n e : Nat) : State :=
  if ((s.thr c k).stream n).indexed then s.fetchIndexed c k n else s.fetchPlain c k n e

/-- Read the elements that a consumer needs and that have not been read yet: m of them from the position on (DEDUCED,
assumption 10). -/
def State.fetchUpTo (s : State) (c k n : Nat) : Nat → State
  | 0 => s
  | m + 1 =>
    let s := s.fetchUpTo c k n m
    let st := (s.thr c k).stream n
    let e := st.pos + m
    if (alook st.fetched e).isSome then s
    else if st.indexed then (s.fetchHead c k 8 st.link).fetchIndexed c k n
    else s.fetchPlain c k n e

/-- Mark a write stream faulted (R181); a mark that has not been raised stays. -/
def Stream.marked (st : Stream) (tr : Trap) : Stream := { st with mark := some (st.mark.getD tr) }

/-- An earlier element of the stream that falls in the same doubleword has not been performed (R180). -/
def earlierProduced (s : State) (core : Nat) (t : Thread) (st : Stream) (e : Nat) : Bool :=
  match st.produced.find? (fun p => p.1 == e) with
  | none => false
  | some (_, _, ix) =>
    match elemTa s core t st e ix with
    | .error _ => false
    | .ok (ta, _) =>
      st.produced.any (fun p => decide (p.1 < e) &&
        (match elemTa s core t st p.1 p.2.2 with | .ok (tb, _) => tb / 8 == ta / 8 | .error _ => false))

/-- Perform a produced element at its bank (R180, R51, R181; DEDUCED, assumption 10 and 14). -/
def State.performElem (s : State) (c k n e : Nat) : State :=
  let t := s.thr c k
  let st := t.stream n
  match st.produced.find? (fun p => p.1 == e) with
  | none => s
  | some (_, v, ix) =>
    let st' := { st with produced := st.produced.filter (fun p => p.1 != e) }
    let bad := fun (tr : Trap) => s.putThr c k (t.putStream n (st'.marked tr))
    if earlierProduced s c t st e || s.elemShut c t st e ix then s
    else
      match elemTa s c t st e ix with
      | .error tr => bad tr
      | .ok (ta, ea) =>
        match s.elemPlace c ta st.fmt with
        | none => bad (cBADWIN, ea)
        | some (tc, o) =>
          let loc := scratchLoc tc o
          let el := (st.rowElem e).2
          if st.fmt = 7 then
            match s.streamScale c st e ea with
            | .error tr => bad tr
            | .ok sl =>
              let enc := encMx st.rm.toNat (s.read sl 1) v
              let s' := (s.putElem 7 el loc enc.raw)
              let s' := match enc.scale with | some b => s'.store sl 1 b | none => s'
              s'.putThr c k (((t.putStream n st').raise enc.fl).addOvf enc.ev)
          else (s.putElem st.fmt el loc v.toNat).putThr c k (t.putStream n st')

/-! ## Configuration and release -/

/-- Step 1 of R177 for the mode word. -/
def modeOk (m : Word32) : Bool :=
  fldN m 16 16 == 0 && fldN m 4 6 == 0 && fldN m 12 2 != 3 &&
  (fldN m 14 2 == 0 || fldN m 0 4 == 8) && fldN m 0 4 != 1 && fldN m 0 4 != 14 && fldN m 0 4 != 15

/-- The stream that SCFG describes (R175, R183). -/
def scfgStream (t : Thread) (a b : Reg) (p : Params) : Stream :=
  let fmt := fldN p.w3 0 4
  let rep := fldN p.w3 10 1 == 1
  { configured := true, mode := p.w3, base := p.w1 ++ p.w0, count := p.w2.toNat
    rows := if rep then (t.rx b).toNat % 2 ^ 32 else 1
    stride := if fldN p.w3 11 1 = 1 then t.rx a else BitVec.ofNat 64 (elemBytes fmt)
    rowStride := if rep then ((t.rx b) >>> 32).setWidth 32 else 0 }

/-- Latch MXSB, the codebook and FCSR.RM (R178; DEDUCED, assumption 10). -/
def Stream.latch (st : Stream) (t : Thread) : Stream :=
  { st with
    rm := if st.dir = 1 then BitVec.ofNat 3 t.rm else 0
    mxsb := if st.fmt = 7 then t.mxsb else 0
    codebook := if st.fmt = 8 then t.codebook (fldN st.mode 14 2) else [] }

/-- Step 1 of R177, beyond the mode word. -/
def Stream.illop (st : Stream) (t : Thread) : Bool :=
  (subByte st.fmt && (st.mode.getLsbD 11 || st.indexed)) || st.rows == 0 || decide (2 ^ 32 ≤ st.total) ||
  (st.dir == 1 && viewRounds st.fmt && decide (4 ≤ t.rm))

/-- Step 5 of R177 fails. -/
def Stream.odd (st : Stream) : Bool :=
  let w := elemBytes st.fmt
  decide (2 ≤ w) && (st.base.toNat % w != 0 || st.stride.toNat % w != 0 || st.rowStride.toNat % w != 0)

/-- Put a stream in force: its f register is a view from now on (R178). -/
def Thread.configure (t : Thread) (n : Nat) (st : Stream) : Thread :=
  { t.putStream n (st.latch t) with f := t.f.setIfInBounds (24 + n) 0 }

/-- Return a stream to unconfigured; its f register reads 0 (R185). -/
def Thread.unconfigure (t : Thread) (n : Nat) : Thread :=
  { t.putStream n {} with f := t.f.setIfInBounds (24 + n) 0 }

/-- Release a stream, and the index stream it owns, which may own one in turn (R184, R185). The first number bounds the chain. -/
def Thread.releaseChain (t : Thread) : Nat → Nat → Thread
  | 0, _ => t
  | d + 1, n =>
    let st := t.stream n
    if !st.configured then t
    else if st.indexed then (t.unconfigure n).releaseChain d st.link
    else t.unconfigure n

def Thread.release (t : Thread) (n : Nat) : Thread := t.releaseChain 8 n

/-- Release every stream (R182). -/
def Thread.releaseAll (t : Thread) : Thread := (List.range 8).foldl (fun t n => t.release n) t

def streamTrap (n : Nat) : Act := .fail cSTREAM (BitVec.ofNat 64 n)

/-- STREAM for a stream that an instruction names; but one that is marked faulted raises its mark (R181). -/
def Thread.streamFault (t : Thread) (n : Nat) : Act :=
  match (t.stream n).mark with
  | some tr => .trap ⟨tr, some n⟩
  | none => streamTrap n

/-- SCFG (R177, R183; DEDUCED, assumption 10). -/
def scfg (i : Instr) (n a b : Reg) (p : Params) (t : Thread) (s : State) : Act :=
  let st := scfgStream t a b p
  if !modeOk p.w3 || st.illop t then .illop i
  else if (t.stream n.toNat).configured then t.streamFault n.toNat
  else
    let (lo, hi) := if st.total = 0 then (0, -1) else st.extent
    match streamCheck s s.curCore t st.base lo hi (st.dir == 1) st.odd with
    | .error tr => .trap ⟨tr, none⟩
    | .ok ta => .ok (s.putMe (t.configure n.toNat { st with ta := ta }))

/-- SCFG2 (R184): an indexed stream over the index stream x[ra] (DEDUCED, assumption 10). -/
def scfg2 (i : Instr) (n a b : Reg) (p : Params) (t : Thread) (s : State) : Act :=
  let fmt := fldN p.w3 0 4
  let link := (t.rx a).toNat % 8
  let ix := t.stream link
  let st : Stream := { configured := true, mode := p.w3, base := p.w1 ++ p.w0, count := p.w2.toNat, stride := t.rx b
                       indexed := true, link := link }
  if !modeOk p.w3 || st.illop t || fldN p.w3 10 2 != 0 || !zeroBits (t.rx a) 63 3 then .illop i
  else if (t.stream n.toNat).configured then t.streamFault n.toNat
  else if !ix.configured || ix.dir != 0 || ix.isIndex || link == n.toNat ||
      !(ix.fmt == 0 || decide (9 ≤ ix.fmt ∧ ix.fmt ≤ 12)) || decide (ix.remaining < st.count) then t.streamFault link
  else
    let w := elemBytes fmt
    match streamCheck s s.curCore t st.base 0 (w - 1) (st.dir == 1) (st.base.toNat % w != 0) with
    | .error tr => .trap ⟨tr, none⟩
    | .ok ta => .ok (s.putMe ((t.putStream link { ix with isIndex := true }).configure n.toNat { st with ta := ta }))

/-- SREL (R185), once nothing of the stream is outstanding. -/
def srel (n : Reg) (t : Thread) (s : State) : Act :=
  let st := t.stream n.toNat
  match st.mark with
  | some tr => .trap ⟨tr, some n.toNat⟩
  | none => .ok (s.putMe (t.release n.toNat))

/-- R183. -/
def execScfg (n a b : Reg) (l : BitVec 4) (p : Params) (s : State) : Out :=
  issue (.scfg n a b l p) s (fun t s => scfg (.scfg n a b l p) n a b p t s)

/-- R184. -/
def execScfg2 (n a b : Reg) (l : BitVec 4) (p : Params) (s : State) : Out :=
  issue (.scfg2 n a b l p) s (fun t s => scfg2 (.scfg2 n a b l p) n a b p t s)

/-- R185. -/
def execSrel (n : Reg) (l : BitVec 4) (p : Params) (s : State) : Out :=
  issue (.srel n l p) s (fun t s => srel n t s)

/-- R180. The stream engine reads an element that has not been read. -/
def execStreamElementRead (core slot stream elem : Nat) (s : State) : Out :=
  .next (s.fetchElem core slot stream elem)

/-- R180. An element that was produced is performed. -/
def execStreamElementWrite (core slot stream elem : Nat) (s : State) : Out :=
  .next (s.performElem core slot stream elem)

end Sys2Proof.Machine
end

