-- ==== Sys2Proof/Machine/Vect.lean ====
section
/-!
DEFINITION. Machine/Vect.lean: the V-format instructions (R186 to R196), their beats, and the results of the SFU (R197, R198).
-/
namespace Sys2Proof.Machine

/-! ## What an element gives -/

/-- FP32 of the integer forms (R190). -/
def vArith (sub : BitVec 2) (f : Word32 → Word32 → FRes) (g : Word32 → Word32 → Word32) (a b : Word32) : FRes :=
  if sub.toNat < 2 then f a b else ⟨g a b, 0⟩

/-- Signed lesser and greater. -/
def minI (a b : Word32) : Word32 := if b.slt a then b else a
def maxI (a b : Word32) : Word32 := if a.slt b then b else a

/-- VCVT (R192). -/
def vConvert (md : Mode) (sub : BitVec 2) (a : Word32) : FRes :=
  match sub.toNat with
  | 0 => intToF md a.toInt
  | 1 => let r := fToInt md (-(2 ^ 31)) (2 ^ 31 - 1) a; ⟨BitVec.ofInt 32 r.1, r.2⟩
  | 2 => intToF md a.toNat
  | _ => let r := fToInt md 0 (2 ^ 32 - 1) a; ⟨BitVec.ofInt 32 r.1, r.2⟩

/-- VCMP (R193): 0 eq, 1 lt, 2 le, 3 ne. -/
def vCompare (int : Bool) (rel : BitVec 2) (a b : Word32) : FRes :=
  let one := fun (p : Bool) (fl : BitVec 5) => (⟨if p then 1 else 0, fl⟩ : FRes)
  if int then
    match rel.toNat with
    | 0 => one (a == b) 0
    | 1 => one (a.slt b) 0
    | 2 => one (a.sle b) 0
    | _ => one (a != b) 0
  else
    match rel.toNat with
    | 0 => one (fEq a b).1 (fEq a b).2
    | 1 => one (fLt a b).1 (fLt a b).2
    | 2 => one (fLe a b).1 (fLe a b).2
    | _ => one (!(fEq a b).1) (fEq a b).2

/-- One element of an elementwise form: `vs` are the source elements in the order a, b, c, and k is x[xb][31:0]. -/
def vElement (i : Instr) (md : Mode) (xa xb : Word) (vs : List Word32) : FRes :=
  let a := vs.getD 0 0
  let k : Word32 := xb.setWidth 32
  let b := vs.getD 1 k
  match i with
  | .vadd _ _ _ _ s => vArith s (fAdd md) (· + ·) a b
  | .vsub _ _ _ _ s => vArith s (fSub md) (· - ·) a b
  | .vmul _ _ _ _ s => vArith s (fMul md) (· * ·) a b
  | .vmin _ _ _ _ s => vArith s fMin minI a b
  | .vmax _ _ _ _ s => vArith s fMax maxI a b
  | .vfma _ _ _ _ s =>
    let x : Word32 := xa.setWidth 32
    match s.toNat with
    | 0 => fFused md false false a b x
    | 1 => fFused md false false a x b
    | _ => fFused md false false a b (vs.getD 2 0)
  | .vabs _ _ s => if s = 0 then ⟨a &&& 0x7FFF_FFFF#32, 0⟩ else ⟨if a.msb then 0 - a else a, 0⟩
  | .vneg _ _ s => if s = 0 then ⟨a ^^^ 0x8000_0000#32, 0⟩ else ⟨0 - a, 0⟩
  | .vcvt _ _ s => vConvert md s a
  | .vsel _ _ _ _ => ⟨if vs.getD 2 0 ≠ 0 then a else b, 0⟩
  | .vcmp _ _ _ _ _ s => vCompare (xa.getLsbD 0) s a b
  | .vexp _ _ => sfu .exp md a
  | .vlog _ _ => sfu .log md a
  | .vrcp _ _ => sfu .rcp md a
  | .vrsq _ _ => sfu .rsq md a
  | .vtanh _ _ => sfu .tanh md a
  | .vsigm _ _ => sfu .sigm md a
  | _ => ⟨0, 0⟩

/-! ## Reductions (R194) -/

/-- The operation of VRED and VSCAN: 0 sum, 1 min, 2 max, 3 isum. -/
def redOp (md : Mode) (op : Nat) (a b : Word32) : FRes :=
  match op with
  | 0 => fAdd md a b
  | 1 => fMin a b
  | 2 => fMax a b
  | _ => ⟨a + b, 0⟩

/-- Fold left to right, collecting flags. -/
def foldRed (f : Word32 → Word32 → FRes) : Word32 → List Word32 → FRes
  | acc, [] => ⟨acc, 0⟩
  | acc, v :: r => let x := f acc v; let y := foldRed f x.v r; ⟨y.v, x.fl ||| y.fl⟩

/-- Elements of lane L. -/
def laneOf {α : Type} (l : List α) (lane : Nat) : List α :=
  ((l.zipIdx.filter (fun p => p.2 % 192 == lane)).map (·.1))

/-- Partial of a lane of VRED. -/
def redLane (f : Word32 → Word32 → FRes) (l : List Word32) : Option FRes :=
  match l with | [] => none | v :: r => some (foldRed f v r)

/-- Fold the multiply-adds of a lane of VDOT. -/
def dotFold (md : Mode) : Word32 → List (Word32 × Word32) → FRes
  | acc, [] => ⟨acc, 0⟩
  | acc, (a, b) :: r => let x := fFused md false false a b acc; let y := dotFold md x.v r; ⟨y.v, x.fl ||| y.fl⟩

/-- Partial of a lane of VDOT. -/
def dotLane (md : Mode) (int : Bool) (l : List (Word32 × Word32)) : Option FRes :=
  match l with
  | [] => none
  | (a, b) :: r =>
    if int then some ⟨r.foldl (fun acc p => acc + p.1 * p.2) (a * b), 0⟩
    else let x := fMul md a b; let y := dotFold md x.v r; some ⟨y.v, x.fl ||| y.fl⟩

/-- One level of the tree: neighbours are combined, an odd last value passes up. -/
def treeLevel (f : Word32 → Word32 → FRes) : List Word32 → List Word32 × BitVec 5
  | a :: b :: r => let x := f a b; let (l, fl) := treeLevel f r; (x.v :: l, x.fl ||| fl)
  | l => (l, 0)

/-- The tree: `n` bounds its levels. -/
def tree (f : Word32 → Word32 → FRes) : Nat → List Word32 → List Word32 × BitVec 5
  | 0, l => (l, 0)
  | n + 1, l =>
    if l.length ≤ 1 then (l, 0)
    else
      let (l', fl) := treeLevel f l
      let (l'', fl') := tree f n l'
      (l'', fl ||| fl')

/-- The result of VRED and VDOT from their lane partials. -/
def reduce (f : Word32 → Word32 → FRes) (init : Word32) (ps : List FRes) : List Word32 × BitVec 5 :=
  let fl0 := ps.foldl (fun fl p => fl ||| p.fl) (0 : BitVec 5)
  match tree f 8 (ps.map (·.v)) with
  | (v :: _, fl) => let x := f init v; ([x.v], fl0 ||| fl ||| x.fl)
  | ([], _) => ([], 0)

/-- A sequential inclusive scan. -/
def scanRed (f : Word32 → Word32 → FRes) : Word32 → List Word32 → List Word32 × BitVec 5
  | _, [] => ([], 0)
  | acc, v :: r => let x := f acc v; let (l, fl) := scanRed f x.v r; (x.v :: l, x.fl ||| fl)

/-- What a V-format instruction pushes, and its flags. `rows` holds the source elements, element by element. -/
def vResult (i : Instr) (md : Mode) (xa xb : Word) (rows : List (List Word32)) : List Word32 × BitVec 5 :=
  let init : Word32 := xb.setWidth 32
  let as := rows.map (fun r => r.getD 0 0)
  match i with
  | .vred _ _ _ op =>
    reduce (redOp md op.toNat) init ((List.range 192).filterMap (fun l => redLane (redOp md op.toNat) (laneOf as l)))
  | .vscan _ _ _ op => scanRed (redOp md op.toNat) init as
  | .vdot _ _ _ _ sub =>
    let f := redOp md (if sub = 0 then 0 else 3)
    let ps := rows.map (fun r => (r.getD 0 0, r.getD 1 0))
    reduce f init ((List.range 192).filterMap (fun l => dotLane md (sub != 0) (laneOf ps l)))
  | _ =>
    let rs := rows.map (vElement i md xa xb)
    (rs.map (·.v), rs.foldl (fun fl r => fl ||| r.fl) (0 : BitVec 5))

/-! ## Issue (R186) -/

/-- Source streams by position. -/
def vSources (i : Instr) (xa : Word) : List Nat :=
  let c := xa.toNat % 8
  match i with
  | .vadd _ a b _ s | .vsub _ a b _ s | .vmul _ a b _ s | .vmin _ a b _ s | .vmax _ a b _ s =>
    if s.toNat % 2 = 1 then [a.toNat] else [a.toNat, b.toNat]
  | .vfma _ a b _ s => if s = 2 then [a.toNat, b.toNat, c] else [a.toNat, b.toNat]
  | .vsel _ a b _ => [a.toNat, b.toNat, c]
  | .vcmp _ a b _ _ _ => if xa.getLsbD 1 then [a.toNat] else [a.toNat, b.toNat]
  | .vdot _ a b _ _ => [a.toNat, b.toNat]
  | .vabs _ a _ | .vneg _ a _ | .vcvt _ a _ | .vred _ a _ _ | .vscan _ a _ _
  | .vexp _ a | .vlog _ a | .vrcp _ a | .vrsq _ a | .vtanh _ a | .vsigm _ a => [a.toNat]
  | _ => []

/-- Rounding forms, which refuse FCSR.RM 4 to 7 (R188). -/
def vRounds (i : Instr) : Bool :=
  match i with
  | .vadd _ _ _ _ s | .vsub _ _ _ _ s | .vmul _ _ _ _ s => decide (s.toNat < 2)
  | .vred _ _ _ s | .vscan _ _ _ s => s == 0
  | .vdot _ _ _ _ s => s == 0
  | .vmin _ _ _ _ _ | .vmax _ _ _ _ _ | .vabs _ _ _ | .vneg _ _ _ | .vsel _ _ _ _ | .vcmp _ _ _ _ _ _ => false
  | _ => true

/-- Value limits of x[xa] (R191 to R193). -/
def vLimits (i : Instr) (xa : Word) : Bool :=
  match i with
  | .vfma _ _ _ _ s => s != 2 || zeroBits xa 63 3
  | .vsel _ _ _ _ => zeroBits xa 63 3
  | .vcmp _ _ b _ _ _ => zeroBits xa 63 2 && (!xa.getLsbD 1 || b == 0)
  | _ => true

/-- A reduction pushes one result whatever n is. -/
def vReduces (i : Instr) : Bool := match i with | .vred _ _ _ _ | .vdot _ _ _ _ _ => true | _ => false

def vScans (i : Instr) : Bool := match i with | .vscan _ _ _ _ => true | _ => false

/-- A source must be a configured DIR 0 stream that is no index stream, the destination a configured DIR 1 stream
(DEDUCED, assumption 12). -/
def vBadStream (t : Thread) (d : Nat) (srcs : List Nat) : Option Nat :=
  match srcs.find? (fun n => let st := t.stream n; !st.configured || st.dir != 0 || st.isIndex) with
  | some n => some n
  | none =>
    let st := t.stream d
    if !st.configured || st.dir != 1 || srcs.contains d then some d else none

/-- The number of elements (R186). -/
def vCount (i : Instr) (t : Thread) (d : Nat) (srcs : List Nat) : Nat :=
  let n := srcs.foldl (fun n k => min n (t.stream k).remaining) 768
  let room := (t.stream d).remaining
  if vReduces i then (if room = 0 then 0 else n) else min n room

/-- Beats of n elements (R187); one with none (R188). -/
def vBeats (i : Instr) (n : Nat) : Nat :=
  let b := max 1 ((n + 191) / 192)
  if (cls i).sfu || n == 0 then 1 else if vReduces i || vScans i then b + 1 else b

/-- Issue a V-format instruction: checks, then its beats are to come. A vector SFU instruction joins the SFU queue. -/
def vIssue (i : Instr) (d : BitVec 3) (xa xb : Word) (t : Thread) (s : State) : Act :=
  let srcs := vSources i xa
  if !vLimits i xa || (vRounds i && decide (4 ≤ t.rm)) then .illop i
  else
    match (srcs ++ [d.toNat]).find? (fun n => (t.stream n).mark.isSome) with
    | some n => t.streamFault n
    | none =>
      match vBadStream t d.toNat srcs with
      | some n => streamTrap n
      | none =>
        let n := vCount i t d.toNat srcs
        let ops : Operands := { core := s.curCore, a := xa, b := xb, rm := BitVec.ofNat 3 t.rm }
        let r : Ref := ⟨s.curCore, s.curSlot, s.nextId⟩
        let s' := (s.fly i ops false false .queued).modPend r (fun p =>
          { p with beats := vBeats i n, elems := n, names := (d.toNat :: srcs) })
        .ok (if (cls i).sfu && decide (0 < n) then s'.joinSfu s.curCore s.curSlot s.nextId n else s')

/-! ## Completion (R187 to R189) -/

/-- Destination of a V-format instruction. -/
def vDest (p : Pending) : Nat := p.names.headD 0

/-- The elements that must have arrived for the next beat of `p`: those of this beat and of the beats before it. The one
beat of a vector SFU instruction has all of them (R187). -/
def Pending.beatNeeds (p : Pending) : Nat :=
  if (cls p.ins).sfu then p.elems else min p.elems (192 * (vBeats p.ins p.elems + 1 - p.beats))

/-- Read what has not been read of m elements of each source, and of the indexes that m pushes take. -/
def State.vFetch (s : State) (c k : Nat) (p : Pending) (m : Nat) : State :=
  let s := (p.names.drop 1).foldl (fun s n => s.fetchUpTo c k n m) s
  let d := (s.thr c k).stream (vDest p)
  if d.indexed then s.fetchUpTo c k d.link (if vReduces p.ins then min m 1 else m) else s

/-- Every element that m elements of the sources take has been read, and the indexes of the pushes (R134: not while a bank is
locked). -/
def Thread.vReady (t : Thread) (p : Pending) (m : Nat) : Bool :=
  let all := fun (n m : Nat) => let st := t.stream n; (List.range m).all (fun e => (alook st.fetched (st.pos + e)).isSome)
  (p.names.drop 1).all (fun n => all n m) &&
  (let d := t.stream (vDest p)
   !d.indexed || all d.link (if vReduces p.ins then min m 1 else m))

/-- The source elements, element by element, or the fault of the first that carries one. -/
def vGather (t : Thread) (srcs : List Nat) : Nat → Nat → Except Trap (List (List Word32))
  | 0, _ => .ok []
  | m + 1, e =>
    let els := srcs.map (fun n => let st := t.stream n; (alook st.fetched (st.pos + e)).getD (.bad cSTREAM (BitVec.ofNat 64 n)))
    match els.findSome? (fun x => match x with | .bad c tv => some (c, tv) | .ok _ => none) with
    | some tr => .error tr
    | none =>
      match vGather t srcs m (e + 1) with
      | .ok r => .ok (els.map (fun x => match x with | .ok v => v | .bad _ _ => 0) :: r)
      | .error tr => .error tr

/-- Consume m elements of a read stream. -/
def Thread.consume (t : Thread) (n m : Nat) : Thread :=
  let st := t.stream n
  t.putStream n { st with pos := st.pos + m, fetched := st.fetched.filter (fun p => decide (st.pos + m ≤ p.1)) }

/-- BS after a V-format instruction (R188). -/
def vStatus (t : Thread) (p : Pending) : BitVec 3 :=
  if (p.names.drop 1).any (fun n => (t.stream n).remaining == 0) then bsEMPTY
  else if (t.stream (vDest p)).remaining = 0 then bsFULL else bsOK

/-- A V-format instruction whose elements have been read takes effect, whole, and completes; or it faults and writes nothing. -/
def State.vFinish (s : State) (c k : Nat) (p : Pending) : State :=
  let t := s.thr c k
  let srcs := (p.names.drop 1).eraseDups
  let r : Ref := ⟨c, k, p.id⟩
  match vGather t (p.names.drop 1) p.elems 0 with
  | .error (code, tv) => (s.modThr c k (fun t => srcs.foldl (fun t n => t.unfetch n) t)).lateFail r code tv
  | .ok rows =>
    let (outs, fl) := vResult p.ins p.ops.rm.toNat p.ops.a p.ops.b rows
    let t1 := srcs.foldl (fun t n => t.consume n p.elems) t
    let t2 := outs.foldl (fun t v => t.push (vDest p) v) t1
    (s.putThr c k t2).completePend r { bs := some (vStatus t2 p), flags := fl }

/-- The pending V-format instruction of a slot that still has beats to take. -/
def Thread.beating (t : Thread) : Option Pending :=
  t.pend.find? (fun p => (cls p.ins).vec && p.phase == .queued && decide (0 < p.beats))

/-- R187, R96. A beat, in a cycle whose position is the slot's. One whose elements have not all arrived waits for the
next. -/
def State.beat (s : State) (c k : Nat) : State :=
  match (s.thr c k).beating with
  | none => s
  | some p =>
    if s.cycle % 16 ≠ k ∨ p.ops.stage = s.cycle + 1 then s
    else
      let beat := fun (s : State) =>
        s.modPend ⟨c, k, p.id⟩ (fun p => { p with beats := p.beats - 1, ops := { p.ops with stage := s.cycle + 1 } })
      let s1 := s.vFetch c k p p.beatNeeds
      if !(s1.thr c k).vReady p p.beatNeeds then s1
      else if p.beats = 1 ∧ (!(cls p.ins).sfu ∨ p.elems = 0) then (beat s1).vFinish c k p
      else beat s1

/-- R187. In a gated rotation no beat is taken (R354). -/
def execVectorBeat (core slot : Nat) (s : State) : Out := .next (if s.gated then s else s.beat core slot)

/-! ## The SFU (R197) -/

/-- The function of a scalar SFU instruction. -/
def sfuOf (i : Instr) : Option Sfu :=
  match i with
  | .fexp _ _ _ _ => some .exp
  | .flog _ _ _ _ => some .log
  | .frcp _ _ _ _ => some .rcp
  | .frsq _ _ _ _ => some .rsq
  | .ftanh _ _ _ _ => some .tanh
  | .fsigm _ _ _ _ => some .sigm
  | _ => none

/-- The cycle in which a request's last result is written. -/
def SfuReq.ends (q : SfuReq) : Nat := q.begins + 20 + (q.n - 1) / 16

/-- The request at the head of the queue completes (R197). -/
def State.sfuServe (s : State) (c : Nat) : State :=
  match (s.core c).sfu with
  | [] => s
  | q :: rest =>
    if s.cycle < q.ends then s
    else
      let r : Ref := ⟨c, q.slot, q.id⟩
      let s' := s.modCore c (fun x => { x with sfu := rest })
      match s.pending r with
      | none => s'
      | some p =>
        match sfuOf p.ins, (cls p.ins).fdst with
        | some f, some d =>
          let v := sfu f p.ops.rm.toNat (p.ops.a.setWidth 32)
          s'.finish r { f := [(d, v.v.setWidth 64)], flags := v.fl }
        | _, _ =>
          if p.beats ≠ 0 then s
          else
            let s1 := s'.vFetch c q.slot p p.elems
            if (s1.thr c q.slot).vReady p p.elems then s1.vFinish c q.slot p else s

/-- R197. -/
def execSfuResult (core : Nat) (s : State) : Out := .next (s.sfuServe core)

/-! ## The instructions -/

/-- R190. -/
def execVadd (d a b : BitVec 3) (y : Reg) (m : BitVec 2) (s : State) : Out :=
  issue (.vadd d a b y m) s (fun t s => vIssue (.vadd d a b y m) d 0 (t.rx y) t s)

/-- R190. -/
def execVsub (d a b : BitVec 3) (y : Reg) (m : BitVec 2) (s : State) : Out :=
  issue (.vsub d a b y m) s (fun t s => vIssue (.vsub d a b y m) d 0 (t.rx y) t s)

/-- R190. -/
def execVmul (d a b : BitVec 3) (y : Reg) (m : BitVec 2) (s : State) : Out :=
  issue (.vmul d a b y m) s (fun t s => vIssue (.vmul d a b y m) d 0 (t.rx y) t s)

/-- R190. -/
def execVmin (d a b : BitVec 3) (y : Reg) (m : BitVec 2) (s : State) : Out :=
  issue (.vmin d a b y m) s (fun t s => vIssue (.vmin d a b y m) d 0 (t.rx y) t s)

/-- R190. -/
def execVmax (d a b : BitVec 3) (y : Reg) (m : BitVec 2) (s : State) : Out :=
  issue (.vmax d a b y m) s (fun t s => vIssue (.vmax d a b y m) d 0 (t.rx y) t s)

/-- R191. -/
def execVfma (d a b : BitVec 3) (x : Reg) (m : BitVec 2) (s : State) : Out :=
  issue (.vfma d a b x m) s (fun t s => vIssue (.vfma d a b x m) d (t.rx x) 0 t s)

/-- R192. -/
def execVabs (d a : BitVec 3) (m : BitVec 2) (s : State) : Out :=
  issue (.vabs d a m) s (fun t s => vIssue (.vabs d a m) d 0 0 t s)

/-- R192. -/
def execVneg (d a : BitVec 3) (m : BitVec 2) (s : State) : Out :=
  issue (.vneg d a m) s (fun t s => vIssue (.vneg d a m) d 0 0 t s)

/-- R192. -/
def execVcvt (d a : BitVec 3) (m : BitVec 2) (s : State) : Out :=
  issue (.vcvt d a m) s (fun t s => vIssue (.vcvt d a m) d 0 0 t s)

/-- R192. -/
def execVsel (d a b : BitVec 3) (x : Reg) (s : State) : Out :=
  issue (.vsel d a b x) s (fun t s => vIssue (.vsel d a b x) d (t.rx x) 0 t s)

/-- R193. -/
def execVcmp (d a b : BitVec 3) (x y : Reg) (m : BitVec 2) (s : State) : Out :=
  issue (.vcmp d a b x y m) s (fun t s => vIssue (.vcmp d a b x y m) d (t.rx x) (t.rx y) t s)

/-- R194. -/
def execVred (d a : BitVec 3) (y : Reg) (m : BitVec 2) (s : State) : Out :=
  issue (.vred d a y m) s (fun t s => vIssue (.vred d a y m) d 0 (t.rx y) t s)

/-- R194. -/
def execVscan (d a : BitVec 3) (y : Reg) (m : BitVec 2) (s : State) : Out :=
  issue (.vscan d a y m) s (fun t s => vIssue (.vscan d a y m) d 0 (t.rx y) t s)

/-- R194. -/
def execVdot (d a b : BitVec 3) (y : Reg) (m : BitVec 2) (s : State) : Out :=
  issue (.vdot d a b y m) s (fun t s => vIssue (.vdot d a b y m) d 0 (t.rx y) t s)

/-- R195. -/
def execVexp (d a : BitVec 3) (s : State) : Out :=
  issue (.vexp d a) s (fun t s => vIssue (.vexp d a) d 0 0 t s)

/-- R195. -/
def execVlog (d a : BitVec 3) (s : State) : Out :=
  issue (.vlog d a) s (fun t s => vIssue (.vlog d a) d 0 0 t s)

/-- R195. -/
def execVrcp (d a : BitVec 3) (s : State) : Out :=
  issue (.vrcp d a) s (fun t s => vIssue (.vrcp d a) d 0 0 t s)

/-- R195. -/
def execVrsq (d a : BitVec 3) (s : State) : Out :=
  issue (.vrsq d a) s (fun t s => vIssue (.vrsq d a) d 0 0 t s)

/-- R195. -/
def execVtanh (d a : BitVec 3) (s : State) : Out :=
  issue (.vtanh d a) s (fun t s => vIssue (.vtanh d a) d 0 0 t s)

/-- R195. -/
def execVsigm (d a : BitVec 3) (s : State) : Out :=
  issue (.vsigm d a) s (fun t s => vIssue (.vsigm d a) d 0 0 t s)

/-- R196, once every produced element has been performed: a fault mark is raised, or what was fetched is discarded. -/
def execVfence (s : State) : Out :=
  issue .vfence s (fun t s =>
    match (List.range 8).find? (fun n => (t.stream n).mark.isSome) with
    | some n => .trap ⟨((t.stream n).mark).getD (cSTREAM, 0), some n⟩
    | none => .ok (s.putMe ((List.range 8).foldl (fun t n => t.unfetch n) t)))

end Sys2Proof.Machine
end

