-- ==== Sys2Proof/Machine/ArrayMath.lean ====
section
/-!
DEFINITION. Machine/ArrayMath.lean: the arithmetic of the matrix array: exact group sums (R52, R53), the recurrence microprogram
(R218 to R220), the output of MEPI (R44, R45, R47, R217), and the operations on bit tiles (R221, R224).
-/
namespace Sys2Proof.Machine

/-! ## Group sums (R52, R53) -/

/-- The exact value of a stored element, MXFP4 included where it lies beyond FP32 (R49, R215). -/
def exactElem (fmt : Nat) (cb : List (BitVec 16)) (raw sc : Nat) : FV :=
  if fmt = 7 then
    if sc = 255 then .nan false 0
    else
      match e2m1.decode raw with
      | .num s m e => .num s m (e + ((sc : Int) - 127))
      | v => v
  else val32 (decodeElem fmt cb 0 raw)

def FV.isInf (v : FV) (s : Bool) : Bool := match v with | .inf t => s == t | _ => false
def FV.negZero : FV → Bool | .num s m _ => s && m == 0 | _ => false

/-- Exponent of a number, for a common scale. -/
def FV.exp : FV → Int | .num _ _ e => e | _ => 0

def FV.at (lo : Int) : FV → Int | .num s m e => scaled s m e lo | _ => 0

/-- Add the exact sum of a group's products to the accumulator with one RNE rounding. -/
def groupAdd (acc : Word32) (ps : List FV) : Word32 :=
  let vs := val32 acc :: ps
  if vs.any FV.isNaN || (vs.any (fun v => v.isInf true) && vs.any (fun v => v.isInf false)) then defaultNaN32
  else if vs.any (fun v => v.isInf true) then inf32 true
  else if vs.any (fun v => v.isInf false) then inf32 false
  else
    let lo : Int := vs.foldl (fun m v => min m v.exp) 0
    let t : Int := vs.foldl (fun n v => n + v.at lo) 0
    if t = 0 then zero32 (vs.all FV.negZero) else (round32 0 ⟨decide (t < 0), t.natAbs, lo, false⟩).v

/-- Accumulate a row of A against a column of B in groups of g (R52). A skipped element of A contributes nothing (R53). -/
def accumulate (g : Nat) (acc : Word32) (a : Array (Option FV)) (b : Nat → FV) (K : Nat) : Word32 :=
  (List.range ((K + g - 1) / g)).foldl (fun acc q =>
    groupAdd acc ((List.range (min g (K - q * g))).filterMap (fun i =>
      let k := q * g + i
      (a.getD k none).map (fun x => mulFV x (b k))))) acc

/-- INT8 products summed modulo 2^32. -/
def accumulateInt (acc : Word32) (a : Array (Option Int)) (b : Nat → Int) (K : Nat) : Word32 :=
  acc + BitVec.ofInt 32 ((List.range K).foldl (fun n k => match a.getD k none with | some x => n + x * b k | none => n) 0)

/-- The group size of a pair of formats (R52, R214): none when the pair is not allowed. -/
def pairGroup (a b : Nat) : Option Nat :=
  match a, b with
  | 3, 3 | 4, 4 | 8, 3 => some 1
  | 5, 5 | 5, 6 | 6, 5 | 6, 6 | 9, 9 => some 2
  | 7, 7 | 8, 8 => some 4
  | _, _ => none

/-! ## Accumulators -/

def zeroRow : List Word32 := List.replicate 480 0
def accRow (a : Acc) (i : Nat) : List Word32 := a.getD i zeroRow

/-- Replace rows 0 to m − 1. -/
def accSet (a : Acc) (rows : List (List Word32)) : Acc := rows ++ a.drop rows.length

/-! ## The recurrence microprogram (R218, R220) -/

/-- Step words of MPROG (R218). -/
def progStepOk (w : Word32) : Bool :=
  let op := fldN w 0 4
  if op = 15 then w == 0xF else fldN w 11 21 == 0 && decide (op ≤ 7) && (op == 7 || fldN w 8 2 == 0)

/-- After the first NONE every step is NONE. -/
def progOk : List Word32 → Bool
  | [] => true
  | w :: r => progStepOk w && (if w = 0xF then r.all (fun v => v == 0xF) else progOk r)

/-- A NaN result is the default NaN (R52, R220). -/
def canon (v : Word32) : Word32 := if isNaN32 v then defaultNaN32 else v

/-- One operation of a step. -/
def progOp (int : Bool) (op : Nat) (x y z : Word32) : Word32 :=
  match op with
  | 5 => x &&& y
  | 6 => x ||| y
  | 7 => if z ≠ 0 then x else y
  | 0 => if int then x + y else canon (fAdd 0 x y).v
  | 1 => if int then x - y else canon (fSub 0 x y).v
  | 2 => if int then x * y else canon (fMul 0 x y).v
  | 3 => if int then minI x y else canon (fMin x y).v
  | _ => if int then maxI x y else canon (fMax x y).v

/-- Values that a step names: a, b, s, t. -/
def progPick (a b s t : Word32) (c : Nat) : Word32 := match c with | 0 => a | 1 => b | 2 => s | _ => t

/-- Run the steps for one k: s and t. -/
def progRun (int : Bool) (a b : Word32) : List Word32 → Word32 × Word32 → Word32 × Word32
  | [], st => st
  | w :: r, (s, t) =>
    if w = 0xF then progRun int a b r (s, t)
    else
      let pick := progPick a b s t
      let v := progOp int (fldN w 0 4) (pick (fldN w 4 2)) (pick (fldN w 6 2)) (pick (fldN w 8 2))
      progRun int a b r (if fldN w 10 1 = 1 then (v, t) else (s, v))

/-- One element of MREC. -/
def recur (int : Bool) (prog : List Word32) (s : Word32) (a : Array Word32) (b : Nat → Word32) (K : Nat) : Word32 :=
  (List.range K).foldl (fun s k => (progRun int (a.getD k 0) (b k) prog (s, 0)).1) s

/-! ## MEPI (R47, R217) -/

/-- One output value before it is narrowed: IACC = 0. -/
def epiValue (scl : Option Word32) (bias : Option Word32) (v : Word32) : Word32 :=
  match scl, bias with
  | some k, some b => (fFused 0 false false v k b).v
  | some k, none => (fMul 0 v k).v
  | none, some b => (fAdd 0 v b).v
  | none, none => v

/-- The largest finite magnitude of a block of FP32 patterns: as a pattern without sign; magnitudes order as patterns. -/
def amax (l : List Word32) : Nat :=
  l.foldl (fun m v => let a := v.toNat % 2 ^ 31; if a < 0x7F80_0000 then max m a else m) 0

/-- The scale of a block and its own saturation event (R47). -/
def mxScale (l : List Word32) : Nat × Nat :=
  if l.any isNaN32 then (255, 0)
  else
    match fp32.decode (amax l) with
    | .num _ m e =>
      if m = 0 then (127, 0)
      else
        let k : Int := (m.log2 : Int) + e + 125
        if k < 0 then (0, 1) else (k.toNat, 0)
    | _ => (127, 0)

/-- Codes and events of the elements of a block under its scale. -/
def mxCode (sc : Nat) (v : Word32) : Nat × Nat :=
  if sc = 255 then (if v.msb then 8 else 0, 0)
  else
    let e := encMx 0 sc v
    (e.raw, match val32 v with | .inf _ => 1 | _ => 0)

/-- Combine elements of w bits into 4-byte words. -/
def packWords (w : Nat) : Nat → List Nat → List Nat
  | 0, _ => []
  | n + 1, l =>
    let per := 32 / w
    (l.take per).zipIdx.foldl (fun v p => v + p.1 % 2 ^ w * 2 ^ (w * p.2)) 0 :: packWords w n (l.drop per)

/-- A row of MXFP4 output: its codes, its scale bytes, its events. -/
def mxRow (vs : List Word32) : List Nat × List Nat × Nat :=
  (List.range 15).foldl (fun (cs, ss, ev) b =>
    let blk := (vs.drop (32 * b)).take 32
    let (sc, e) := mxScale blk
    let codes := blk.map (mxCode sc)
    (cs ++ codes.map (·.1), ss ++ [sc], ev + e + codes.foldl (fun n c => n + c.2) 0)) ([], [], 0)

/-- A row of any other output: its stored elements and its events. -/
def plainRow (ofmt : Nat) (es : List Enc) : List Nat × Nat := (es.map (·.raw % 2 ^ elemBits ofmt), es.foldl (fun n e => n + e.ev) 0)

/-- Pad with zeros to a multiple of 4. -/
def pad4 (l : List Nat) : List Nat := l ++ List.replicate ((4 - l.length % 4) % 4) 0

/-- What MEPI writes: 4-byte words with their offsets, the tile counter last, and the events (R217, R45). FP32 without a scale or
a bias is written as it is, a signalling NaN included (R44; DEDUCED, assumption 55). -/
def epiImage (ofmt stride : Nat) (iacc : Bool) (scl : Option Word32) (bias : Option (List Word32)) (rows : List (List Word32)) :
    List (Nat × Nat) × Nat :=
  let w := elemBits ofmt
  let per := 480 * w / 32
  let at_ := fun (base : Nat) (ws : List Nat) => ws.zipIdx.map (fun p => (base + 4 * p.2, p.1))
  let bval := fun (j : Nat) => bias.map (fun b => b.getD j 0)
  let m := rows.length
  if ofmt = 7 then
    let outs := rows.map (fun r => mxRow (r.zipIdx.map (fun p => epiValue scl (bval p.2) p.1)))
    let ev := min (outs.foldl (fun n o => n + o.2.2) 0) 0xFFFF_FFFF
    let scales := pad4 (outs.flatMap (fun o => o.2.1))
    let words := (outs.zipIdx.flatMap (fun o => at_ (o.2 * stride) (packWords w per o.1.1)))
      ++ at_ (240 * m) (packWords 8 (scales.length / 4) scales)
    (words ++ [(240 * m + scales.length, ev)], ev)
  else
    let enc := fun (j : Nat) (v : Word32) =>
      if iacc then
        let x : Int := v.toInt + (match bval j with | some b => b.toInt | none => 0)
        let (lo, hi) : Int × Int := if ofmt = 9 then (-128, 127) else if ofmt = 11 then (-32768, 32767) else (-(2 ^ 31), 2 ^ 31 - 1)
        let (y, _, ev) := satInt lo hi x
        (⟨(y % 2 ^ w).toNat, 0, if ev then 1 else 0, none⟩ : Enc)
      else encodeElem ofmt 0 [] 0 (epiValue scl (bval j) v)
    let outs := rows.map (fun r => plainRow ofmt (r.zipIdx.map (fun p => enc p.2 p.1)))
    let ev := min (outs.foldl (fun n o => n + o.2) 0) 0xFFFF_FFFF
    let words := outs.zipIdx.flatMap (fun o => at_ (o.2 * stride) (packWords w per o.1.1))
    (words ++ [((m - 1) * stride + 480 * w / 8, ev)], ev)

/-- Group words that fall in one doubleword, counting from an address. -/
def groupDw (base : Nat) : List (Nat × Nat) → List (List (Nat × Nat))
  | [] => []
  | p :: r =>
    match groupDw base r with
    | (q :: l) :: g => if (base + q.1) / 8 = (base + p.1) / 8 then (p :: q :: l) :: g else [p] :: (q :: l) :: g
    | g => [p] :: g

/-! ## Bit tiles (R221, R224) -/

def Tile.row (t : Tile) (i : Nat) : BitVec 480 := t.rows.getD i 0
def Tile.bit (t : Tile) (i j : Nat) : Bool := (t.row i).getLsbD j

/-- A row from its bits. -/
def rowOf (f : Nat → Bool) : BitVec 480 := BitVec.ofNat 480 ((List.range 480).foldl (fun n j => if f j then n + 2 ^ j else n) 0)

def tileOf (f : Nat → BitVec 480) : Tile := { rows := (List.range 480).map f }

def tileTrans (a : Tile) : Tile := tileOf (fun i => rowOf (fun j => a.bit j i))

/-- The Boolean product. -/
def tileComp (a b : Tile) : Tile :=
  tileOf (fun i => (List.range 480).foldl (fun r k => if a.bit i k then r ||| b.row k else r) 0)

def tileOr (a b : Tile) : Tile := tileOf (fun i => a.row i ||| b.row i)

/-- n rounds of C ← C OR C·C. -/
def tileClose : Nat → Tile → Tile
  | 0, c => c
  | n + 1, c => tileClose n (tileOr c (tileComp c c))

def tileClosure (refl : Bool) (a : Tile) : Tile :=
  tileClose 9 (tileOf (fun i => if refl then a.row i ||| (1#480 <<< i) else a.row i))

/-- One bits of a row. -/
def rowCount (r : BitVec 480) : Nat := (List.range 480).foldl (fun n j => if r.getLsbD j then n + 1 else n) 0

/-- The key of the total order (R221). -/
def totalKey (v : Word32) : Nat := if v.msb then (~~~v).toNat else v.toNat + 2 ^ 31

/-- Less, equal, and unordered, by mode: 0 IEEE, 1 total order, 2 INT. -/
def cmpKeys (mode : Nat) (p q : Word32) : Bool × Bool × Bool :=
  match mode with
  | 1 => (decide (totalKey p < totalKey q), p == q, false)
  | 2 => (p.slt q, p == q, false)
  | _ => if isNaN32 p || isNaN32 q then (false, false, true) else (ltFV (val32 p) (val32 q), eqFV (val32 p) (val32 q), false)

/-- REL of MOCMP. -/
def relHolds (rel mode : Nat) (p q : Word32) (i j : Nat) : Bool :=
  let (lt, eq, un) := cmpKeys mode p q
  if un then rel == 3
  else
    match rel with
    | 0 => lt
    | 1 => lt || eq
    | 2 => eq
    | 3 => !eq
    | 4 => !lt && !eq
    | 5 => !lt
    | 6 => lt || (eq && decide (i < j))
    | _ => (!lt && !eq) || (eq && decide (i < j))

/-- The tile of MOCMP. -/
def compareTile (rel mode m n : Nat) (p q : Array Word32) : Tile :=
  tileOf (fun i => rowOf (fun j => decide (i < m) && decide (j < n) && relHolds rel mode (p.getD i 0) (q.getD j 0) i j))

end Sys2Proof.Machine
end

