-- ==== Sys2Proof/Machine/Array.lean ====
section
/-!
DEFINITION. Machine/Array.lean: the matrix array of a cluster: leases (R199 to R203, R208 to R210), its command queue and
messages (R204, R205), operand B in the Anvil (R206, R207, R211), and the execution of the counted commands (R212 to R225).
-/
namespace Sys2Proof.Machine

/-! ## Leases -/

/-- The executing thread's lease, with a command left to issue; otherwise LEASE (R201). -/
def State.leaseFail (s : State) : Option Fail :=
  match (s.cluster (clusterOf s.curCore)).lease with
  | some l => if s.holdsLease s.curCore s.curSlot ∧ l.issued < l.n then none else some ⟨(cLEASE, 0), none⟩
  | none => some ⟨(cLEASE, 0), none⟩

/-- End the lease: accumulators, codebooks and microprogram are lost (R201). -/
def State.endLease (s : State) (cl : Nat) : State := s.modCluster cl (fun k => { k with lease := none })

def isLoadB (i : Instr) : Bool := match i with | .mloadb _ _ _ _ => true | _ => false

/-- Counted commands of the leaseholder that have not completed: an MLOADB with a place in the queue has (R204). -/
def Cluster.left (k : Cluster) (l : Lease) : Bool :=
  k.cmds.zipIdx.any (fun c => c.1.lease == l.num && !(isLoadB c.1.ins && decide (c.2 < 4)))

/-- A counted command of the lease has completed. -/
def State.cmdDone (s : State) (cl : Nat) : State :=
  let k := s.cluster cl
  match k.lease with
  | none => s
  | some l =>
    let l := { l with completed := l.completed + 1 }
    if l.completed = l.n then s.endLease cl else s.putCluster cl { k with lease := some l }

/-- The lease of a stopped thread ends once its counted commands have completed (R201). -/
def State.orphanEnd (s : State) (cl : Nat) : State :=
  match (s.cluster cl).lease with
  | some l => if l.orphan && !(s.cluster cl).left l then s.endLease cl else s
  | none => s

/-- R199, R208. -/
def mlease (i : Instr) (p : Params) (s : State) : Act :=
  let n := p.w0.toNat
  if n < 1 ∨ 64 < n then .illop i
  else if s.holdsLease s.curCore s.curSlot then .fail cILLCFG (wordVal i)
  else
    let r : Ref := ⟨s.curCore, s.curSlot, s.nextId⟩
    let s' := s.fly i { core := s.curCore, n := n } false false .asleep
    .ok (s'.modCluster (clusterOf s.curCore) (fun k => { k with leaseQ := k.leaseQ ++ [⟨r, s.owner s.curCore, n⟩] }))

/-- The next grant (R199, R200). -/
def State.grant (s : State) (cl : Nat) : State :=
  let k := s.cluster cl
  if k.lease.isSome then s
  else
    match turnOf (k.leaseQ.map (·.vf)) k.turnVf k.turnLeft (fun v => s.weightOf cl v 0) with
    | none => s
    | some (v, left) =>
      match k.leaseQ.find? (fun q => q.vf == v) with
      | none => s
      | some q =>
        ({ s with nextId := s.nextId + 1 }.putCluster cl { k with
          lease := some { num := s.nextId, core := q.ref.core, slot := q.ref.slot, vf := v, n := q.n, at_ := s.ungated
                          cba := List.replicate 16 0, cbb := List.replicate 16 0 }
          leaseQ := k.leaseQ.filter (fun x => x.ref != q.ref), turnVf := v, turnLeft := left }).finish q.ref {}

/-! ## Issue of a counted command (R226) -/

/-- Streams a pending array command will consume or fill, with the number of elements. -/
def takes (p : Pending) : List (Nat × Nat) :=
  let a := p.ops.a.toNat
  match p.ins with
  | .mma _ _ _ _ _ w | .mrec _ _ _ _ w => [(a % 8, fldN w.w0 0 9 * w.w1.toNat)]
  | .mmas _ _ _ _ _ w => [(a % 8, w.w3.toNat), (a / 16 % 8, fldN w.w0 0 9 * w.w1.toNat)]
  | .mocmp _ x y _ w => if x = y then [(x.toNat, w.w0.toNat)] else [(x.toNat, w.w0.toNat), (y.toNat, w.w1.toNat)]
  | .btrc d _ _ _ => [(d.toNat, p.ops.b.toNat)]
  | _ => []

/-- Elements of a stream that pending array commands have not taken yet (assumption 12): stage 1 is a command that has. -/
def Thread.promised (t : Thread) (n : Nat) : Nat :=
  t.pend.foldl (fun k p => if p.phase = .queued ∧ p.ops.stage = 0 then k + ((takes p).filter (fun x => x.1 == n)).foldl (fun m x => m + x.2) 0 else k) 0

/-- A DIR 2 stream with m elements left, or STREAM (R214). -/
def dir2Fail (t : Thread) (n m : Nat) : Option Fail :=
  let st := t.stream n
  match st.mark with
  | some c => some ⟨c, some n⟩
  | none =>
    if !st.configured || st.dir != 2 || decide (st.remaining < m + t.promised n) then some ⟨(cSTREAM, BitVec.ofNat 64 n), none⟩
    else none

/-- Steps 3 to 6 of R119 for an extent: its tenant address. A foreign cluster is BADWIN; `near` also refuses the remote kind. -/
def State.extentTa (s : State) (t : Thread) (nd : Need) (near : Bool) : Except Trap Nat :=
  match resolve s s.curCore t nd with
  | .error tr => .error tr
  | .ok (_, .foreign _ _) => .error (cBADWIN, nd.ea)
  | .ok (ta, _) => if near && taOnChip ta && taKind ta == 3 then .error (cBADWIN, nd.ea) else .ok ta

def extentFail (e : Except Trap Nat) : Option Fail := match e with | .error tr => some ⟨tr, none⟩ | .ok _ => none
def extentVal (e : Except Trap Nat) : Nat := match e with | .ok ta => ta | .error _ => 0

/-- The first of several checks that fails. -/
def firstFail (l : List (Option Fail)) : Option Fail := l.findSome? id

def illopIf (i : Instr) (p : Bool) : Option Fail := if p then some ⟨(cILLOP, wordVal i), none⟩ else none

/-- A counted command that reads memory for its thread: it sees what the thread stored in host memory before (R168, R172). -/
def readsMemory (i : Instr) : Bool :=
  match i with | .mloadb _ _ _ _ | .mepi _ _ _ _ _ | .mcb _ _ _ | .btld _ _ _ => true | _ => false

/-- Put a counted command into the array's queue: checks in the order of R226. An MLOADB completes on entry (R204). -/
def counts (i : Instr) (limits : Bool) (more : List (Option Fail)) (ops : Operands) (s : State) : Act :=
  match firstFail (illopIf i limits :: s.leaseFail :: more) with
  | some f => .trap f
  | none =>
    let s := if readsMemory i then s.landAll s.me else s
    let cl := clusterOf s.curCore
    let r : Ref := ⟨s.curCore, s.curSlot, s.nextId⟩
    let k := s.cluster cl
    let enters := decide (k.cmds.length < 4) && (match i with | .mloadb _ _ _ _ => true | _ => false)
    let seq := match k.lease with | some l => l.issued + 1 | none => 0
    let num := match k.lease with | some l => l.num | none => 0
    let ops := { ops with core := s.curCore, sys := s.me.sys }
    let s1 := s.fly i ops ((cls i).mem != .no) false (if enters then .done {} else .queued)
    let s1 := s1.putMe { s1.me with arrayIds := s1.me.arrayIds.filter s.arrayLive ++ [s.nextId] }
    let s2 := s1.modCluster cl (fun k =>
      { k with
        lease := k.lease.map (fun l => { l with issued := l.issued + 1 })
        cmds := k.cmds ++ [{ lease := num, ref := r, ins := i, ops := ops, seq := seq, vf := s.owner s.curCore, tag := s.me.tag }] })
    .ok (if enters then s2.cmdDone cl else s2)

/-! ## Operand B (R206, R207) -/

/-- Offset of the scales of an MXFP4 operand. -/
def scaleOff (boff K : Nat) : Nat := boff + 32 * ((K + 63) / 64)

/-- The last byte of operand B in a slice, scales included. -/
def bLast (boff K bf : Nat) : Nat :=
  if bf = 7 then scaleOff boff K + (K + 31) / 32 - 1 else boff + (K * elemBits bf + 7) / 8 - 1

/-- BOFF a multiple of 32 and the operand below 0x1_8000, or BADWIN (R206). -/
def anvilFail (boff : Word) (K bf : Nat) : Option Fail :=
  if boff.toNat % 32 ≠ 0 ∨ 0x18000 ≤ bLast boff.toNat K bf then some ⟨(cBADWIN, boff), none⟩ else none

/-- Stored bits and scale byte of element (k, j). -/
def State.bElem (s : State) (cl boff K bf k j : Nat) : Nat × Nat :=
  let loc := anvilLoc cl j (boff + k * elemBits bf / 8)
  (s.elemBitsAt bf k loc, if bf = 7 then s.read (anvilLoc cl j (scaleOff boff K + k / 32)) 1 else 0)

/-- Why operand B cannot be read: a band of another virtual function (R207), or poison in an element or a scale (R215); TVAL is
an Anvil offset. -/
def State.bFault (s : State) (cl vf boff K bf : Nat) : Option Trap :=
  let last := bLast boff K bf
  let meets := fun (p lo hi : Nat) => decide (lo ≤ p % 2 ^ 17 + 7 ∧ p % 2 ^ 17 ≤ hi)
  match ((List.range 24).filter (fun m => decide (boff / 4096 ≤ m ∧ m ≤ last / 4096))).find?
      (fun m => alook (s.cluster cl).bands m != some vf) with
  | some m => some (cBADWIN, BitVec.ofNat 64 (4096 * m))
  | none =>
    match s.poisons.find? (fun p => decide (anvilLoc cl 0 0 ≤ p ∧ p < anvilLoc (cl + 1) 0 0) &&
        (meets p boff (boff + (K * elemBits bf + 7) / 8 - 1) || (bf == 7 && meets p (scaleOff boff K) last))) with
    | some p => some (cPOISON, BitVec.ofNat 64 (p % 2 ^ 17))
    | none => none

/-! ## Reading a command's streams (R170) -/

/-- Read m elements of a DIR 2 stream from its position on, those read earlier taken as they were, and consume them; none while
an element has to wait (R134). -/
def State.takeStream (s : State) (c k n : Nat) (early : Assoc ARead) : Nat → Option (List ARead × State)
  | 0 => some ([], s)
  | m + 1 =>
    let st := (s.thr c k).stream n
    let e := st.pos
    let s1 := if st.indexed then s.fetchHead c k 8 st.link else s
    let t := s1.thr c k
    let next := fun (t : Thread) => s1.putThr c k (t.putStream n { st with pos := e + 1 })
    let first : Option (ARead × State) :=
      if st.indexed then
        match t.pop st.link with
        | none => none
        | some (i, t') =>
          match alook early e, i with
          | some x, _ => some (x, next t')
          | none, .bad code tv => some (.bad code tv, next t')
          | none, .ok v =>
            let ea := some (st.indexedEa v)
            if s1.elemShut c t st e ea then none else some (s1.rawElem c t st e ea, next t')
      else
        match alook early e with
        | some x => some (x, next t)
        | none => if s1.elemShut c t st e none then none else some (s1.rawElem c t st e none, next t)
    match first with
    | none => none
    | some (el, s2) => (s2.takeStream c k n early m).map (fun x => (el :: x.1, x.2))

/-- The streams an execution command reads, in order: number and count. -/
def Cmd.reads (c : Cmd) : List (Nat × Nat) :=
  match c.ins with
  | .mmas _ _ _ _ _ w => [(c.ops.a.toNat / 16 % 8, fldN w.w0 0 9 * w.w1.toNat), (c.ops.a.toNat % 8, w.w3.toNat)]
  | .btrc _ _ _ _ => []
  | _ => takes { id := 0, pc := 0, ins := c.ins, cover := 0, ops := c.ops }

def numbered (l : List ARead) : Assoc ARead := l.zipIdx.map (fun p => (p.2, p.1))

/-- Read every element the command takes that has not been read: the operands-consumed point; none while one has to wait. -/
def State.readCmd (s : State) (c : Cmd) : Option (Cmd × State) :=
  if c.consumed then some (c, s)
  else
    match c.reads with
    | [] => some ({ c with consumed := true }, s)
    | (n, m) :: r =>
      match s.takeStream c.ref.core c.ref.slot n c.av m with
      | none => none
      | some (l1, s1) =>
        let second := match r with
          | (n2, m2) :: _ => s1.takeStream c.ref.core c.ref.slot n2 c.bv m2
          | [] => some ([], s1)
        second.map (fun x => ({ c with consumed := true, av := numbered l1, bv := numbered x.1 }, x.2))

/-- A command's streams are its thread's. A leaseholder that has been stopped is gone from its slot, so the lease keeps it as it was
(R201; DEDUCED, assumption 48). -/
def State.readAs (s : State) (cl : Nat) (c : Cmd) : Option (Cmd × State) :=
  match (s.cluster cl).lease.bind (fun l => l.ghost) with
  | none => s.readCmd c
  | some g =>
    let now := s.thr c.ref.core c.ref.slot
    ((s.putThr c.ref.core c.ref.slot g).readCmd c).map (fun x =>
      let after := x.2.thr c.ref.core c.ref.slot
      (x.1, (x.2.putThr c.ref.core c.ref.slot now).modCluster cl (fun k =>
        { k with lease := k.lease.map (fun l => { l with ghost := some after }) })))

/-- Does the command ask for an operands-consumed message (R205)? -/
def Cmd.asks (c : Cmd) : Bool :=
  match c.ins with
  | .mma _ _ _ _ k _ | .mmas _ _ _ _ k _ => k == 1
  | _ => false

/-- FUNC of array messages: fn7[3:0] (R74, R205). -/
def Cmd.func (c : Cmd) : Nat := fldN (c.ins.word) 0 4

/-- The operands-consumed point of the command at the head (R205; DEDUCED, assumption 11). -/
def State.consumeHead (s : State) (cl : Nat) : State :=
  match (s.cluster cl).cmds with
  | [] => s
  | c :: r =>
    if c.consumed || c.reads.isEmpty || ((s.pending c.ref).any (fun p => p.phase != .queued)) then s
    else
      match s.readAs cl c with
      | none => s
      | some (c', s1) =>
        let s2 := (s1.modCluster cl (fun k => { k with cmds := c' :: r })).modPend c.ref (fun p => { p with ops := { p.ops with stage := 1 } })
        if c.asks then s2.arrayMsg c.ref.core 0x11 c.func c.seq 0 0 0 else s2

def Core.tile (x : Core) (n : Nat) : Tile := (x.tiles[n]?).getD {}

/-- Doubleword n of a tile's image. -/
def Tile.imageDw (t : Tile) (n : Nat) : Word :=
  BitVec.ofNat 64 ((List.range 64).foldl (fun v j => let b := 64 * n + j; if t.bit (b / 480) (b % 480) then v + 2 ^ j else v) 0)

/-- The doublewords of the range in memory that a command reads or writes (R212, R223). -/
def Cmd.range (c : Cmd) : Nat := match c.ins with | .mcb _ _ _ => 4 | .btld _ _ _ | .btst _ _ _ => 3600 | _ => 0

def Cmd.ask (c : Cmd) : Ask :=
  match c.ins with
  | .btst _ _ _ => { w := true, sys := c.ops.sys }
  | _ => { r := true, sys := c.ops.sys }

def Cmd.dwEa (c : Cmd) (i : Nat) : Word := c.ops.ea + BitVec.ofNat 64 (8 * i)

/-- Doubleword i of a tile's image as BTST stores it. -/
def State.imageAt (s : State) (c : Cmd) (i : Nat) : Entry :=
  match c.ins with
  | .btst b _ _ => let t := (s.core c.ref.core).tile b.toNat; ⟨t.imageDw i, t.poison⟩
  | _ => ⟨0, false⟩

/-- Doubleword i of its range at a place, as the command reads or stores it. -/
def State.rangeAt (s : State) (c : Cmd) (i loc : Nat) : ARead × State :=
  match c.ins with
  | .btst _ _ _ => (.ok 0 0, (s.putEntry loc (s.imageAt c i)).track c.vf c.tag (c.ops.ta + 8 * i) loc true)
  | _ =>
    (if s.poisoned loc then .bad cPOISON (c.dwEa i) else .ok (s.dwordAt loc).toNat 0,
     s.track c.vf c.tag (c.ops.ta + 8 * i) loc false)

/-- One doubleword of the range of the command at the head, in any order (R223), once its line is paid for (R335). -/
def State.rangeMove (s : State) (cl i e : Nat) : State :=
  let k := s.cluster cl
  match k.cmds with
  | [] => s
  | c :: r =>
    if k.xfers.any (fun x => isLoadB x.ins) ∨ k.engineReset ∨ c.ref.id ≠ i ∨ c.range ≤ e ∨ (alook c.av e).isSome ∨
        (s.pending c.ref).any (fun p => p.phase != .queued) then s
    else
      let s1 := (s.payRange c.ref c.ref.core c.ops.ta c.range c.ask).1
      match s1.dwPlace c.ref.core (c.ops.ta + 8 * e) c.ask with
      | .at loc =>
        if !s1.linePaid c.ref c.ops.ta e then s1
        else let (x, s2) := s1.rangeAt c e loc; s2.modCluster cl (fun k => { k with cmds := { c with av := aset c.av e x } :: r })
      | _ => s1

/-- The ea that the index of element x gives, of a stream whose indexes have been read (R184). -/
def Stream.peekEa (st ix : Stream) (x : Nat) : Option Word :=
  match alook ix.fetched (ix.pos + (x - st.pos)) with
  | some (.ok v) => some (st.indexedEa v)
  | _ => none

/-- Elements of a stream that the commands before one in the queue take and have not consumed. -/
def State.ahead (s : State) (cl : Nat) (c : Cmd) (n : Nat) : Nat :=
  ((s.cluster cl).cmds.takeWhile (fun x => x.ref != c.ref)).foldl (fun k x =>
    if x.consumed ∨ x.ref.core ≠ c.ref.core ∨ x.ref.slot ≠ c.ref.slot then k
    else (x.reads.filter (fun y => y.1 == n)).foldl (fun k y => k + y.2) k) 0

/-- Elements of one 128-byte line are read early (R170): all those of the command that lie in the line of element e of its first or
second stream. The command's elements come after those of the commands before it. -/
def State.readLine (s0 : State) (cl i second e : Nat) : State :=
  match (s0.cluster cl).cmds.find? (fun c => c.ref.id == i) with
  | none => s0
  | some c =>
    match c.reads[second]? with
    | none => s0.rangeMove cl i e
    | some (n, m) =>
      let st := (s0.thr c.ref.core c.ref.slot).stream n
      let lo := st.pos + s0.ahead cl c n
      let s := if st.indexed then s0.fetchUpTo c.ref.core c.ref.slot st.link (lo - st.pos + m) else s0
      let t := s.thr c.ref.core c.ref.slot
      let place := fun (x : Nat) =>
        if st.indexed then (st.peekEa (t.stream st.link) x).bind (fun ea => match elemTa s c.ref.core t st x (some ea) with
          | .ok (ta, _) => some (ta, some ea) | .error _ => none)
        else match elemTa s c.ref.core t st x none with | .ok (ta, _) => some (ta, none) | .error _ => none
      if c.consumed || (s0.pending c.ref).isNone || e < lo || lo + m ≤ e then s0
      else
        match place e with
        | none => s0
        | some (ta, _) =>
          let got := ((List.range m).map (lo + ·)).filterMap (fun x =>
            match place x with | some (tb, ea) => if tb / 128 = ta / 128 then some (x, ea) else none | none => none)
          if got.any (fun x => s.elemShut c.ref.core t st x.1 x.2) then s0
          else
            let add := fun (l : Assoc ARead) => got.foldl (fun l x =>
              if (alook l x.1).isSome then l else aset l x.1 (s.rawElem c.ref.core t st x.1 x.2)) l
            s.modCluster cl (fun k => { k with cmds := k.cmds.map (fun x =>
              if x.ref = c.ref then (if second = 0 then { x with av := add x.av } else { x with bv := add x.bv }) else x) })

/-! ## Executing a command -/

/-- The first fault among elements read (DEDUCED, assumption 11). -/
def readFault (l : Assoc ARead) : Option Trap := l.findSome? (fun p => match p.2 with | .bad c tv => some (c, tv) | .ok _ _ => none)

def rawOf (r : ARead) : Nat × Nat := match r with | .ok raw sc => (raw, sc) | .bad _ _ => (0, 0)

/-- What executing a command gives: a late fault, a wait, or the changed lease, core tiles and result. -/
inductive Did where
  | fault (t : Trap)
  /-- it goes on later: the state until then, and whether it is parked for the pager (R146) -/
  | wait (s : State) (park : Bool)
  | ok (s : State) (r : Result)

/-- Change the lease of a cluster. -/
def State.modLease (s : State) (cl : Nat) (f : Lease → Lease) : State := s.modCluster cl (fun k => { k with lease := k.lease.map f })

def Lease.accAt (l : Lease) (n : Nat) : Acc := (l.acc[n]?).getD []
def Lease.putAcc (l : Lease) (n : Nat) (a : Acc) : Lease := { l with acc := l.acc.setIfInBounds n a }

/-- MMA, MMAS on operands that have been read (R215, R216). `a` is row-major; a skipped element is none. -/
def mmaRows (s : State) (cl : Nat) (l : Lease) (d af bf boff M K g : Nat) (a : Array (Option (Nat × Nat))) : Acc :=
  let old := l.accAt d
  let bcb := if bf = 8 then l.cbb else []
  let acb := if af = 8 then l.cba else []
  accSet old ((List.range M).map (fun i =>
    let row := accRow old i
    if af = 9 then
      let ar := (Array.range K).map (fun k => ((a.getD (i * K + k) none).map (fun x => ((BitVec.ofNat 8 x.1).toInt : Int))))
      row.zipIdx.map (fun p => accumulateInt p.1 ar (fun k => (BitVec.ofNat 8 (s.bElem cl boff K bf k p.2).1).toInt) K)
    else
      let ar := (Array.range K).map (fun k => ((a.getD (i * K + k) none).map (fun x => exactElem af acb x.1 x.2)))
      row.zipIdx.map (fun p =>
        accumulate g p.1 ar (fun k => let e := s.bElem cl boff K bf k p.2; exactElem bf bcb e.1 e.2) K)))

/-- The format of the stream that carried A. -/
def Cmd.fmtOf (s : State) (c : Cmd) (n : Nat) : Nat := ((s.thr c.ref.core c.ref.slot).stream n).fmt

def doMma (s : State) (cl : Nat) (l : Lease) (c : Cmd) (d : Reg) (w : Params) : Did :=
  let M := fldN w.w0 0 9
  let K := w.w1.toNat
  let bf := fldN w.w2 0 4
  let af := c.ops.n
  let boff := c.ops.b.toNat
  match readFault c.av, s.bFault cl c.vf boff K bf with
  | some tr, _ => .fault tr
  | none, some tr => .fault tr
  | none, none =>
    let a := (c.av.map (fun p => some (rawOf p.2))).toArray
    .ok (s.modLease cl (fun l' => l'.putAcc d.toNat (mmaRows s cl l d.toNat af bf boff M K ((pairGroup af bf).getD 1) a))) {}

/-- Expand packed values by a bitmap. -/
def expand : List Nat → List (Nat × Nat) → List (Option (Nat × Nat))
  | [], _ => []
  | b :: bs, vs => if b = 0 then none :: expand bs vs else vs.head? :: expand bs (vs.drop 1)

/-- MMAS: the bitmap is counted before anything changes (R216). -/
def doMmas (s : State) (cl : Nat) (l : Lease) (c : Cmd) (d : Reg) (w : Params) : Did :=
  let M := fldN w.w0 0 9
  let K := w.w1.toNat
  let bf := fldN w.w2 0 4
  let boff := c.ops.b.toNat
  let bits := c.av.map (fun p => (rawOf p.2).1)
  let n := bits.foldl (fun n b => n + b) 0
  match readFault c.av with
  | some tr => .fault tr
  | none =>
    if n ≠ w.w3.toNat then .fault (cSPARSE, w.w3.setWidth 64)
    else
      match readFault c.bv, s.bFault cl c.vf boff K bf with
      | some tr, _ => .fault tr
      | none, some tr => .fault tr
      | none, none =>
        let a := (expand bits (c.bv.map (fun p => rawOf p.2))).toArray
        .ok (s.modLease cl (fun l' =>
          l'.putAcc d.toNat (mmaRows s cl l d.toNat c.ops.n bf boff M K ((pairGroup c.ops.n bf).getD 1) a))) {}

/-- MREC (R220). -/
def doMrec (s : State) (cl : Nat) (l : Lease) (c : Cmd) (d : Reg) (w : Params) : Did :=
  let M := fldN w.w0 0 9
  let K := w.w1.toNat
  let bf := fldN w.w2 0 4
  let boff := c.ops.b.toNat
  match readFault c.av, s.bFault cl c.vf boff K bf with
  | some tr, _ => .fault tr
  | none, some tr => .fault tr
  | none, none =>
    let a := (c.av.map (fun p => let r := rawOf p.2; decodeElem c.ops.n [] r.2 r.1)).toArray
    let old := l.accAt d.toNat
    let rows := (List.range M).map (fun i =>
      (accRow old i).zipIdx.map (fun p =>
        recur (w.w2.getLsbD 5) l.prog p.1 (a.extract (i * K) (i * K + K))
          (fun k => decodeElem bf [] 0 (s.bElem cl boff K bf k p.2).1) K))
    .ok (s.modLease cl (fun l' => l'.putAcc d.toNat (accSet old rows))) {}

/-- MOCMP (R221). -/
def doMocmp (s : State) (c : Cmd) (d a b : Reg) (w : Params) : Did :=
  let fmtA := c.ops.n
  let fmtB := c.ops.ta
  match readFault c.av, readFault c.bv with
  | some tr, _ => .fault tr
  | none, some tr => .fault tr
  | none, none =>
    let dec := fun (f : Nat) (cb : List (BitVec 16)) (l : Assoc ARead) =>
      (l.map (fun p => let r := rawOf p.2; decodeElem f cb r.2 r.1)).toArray
    let p := dec fmtA c.ops.cb c.av
    let q := if a = b then p else dec fmtB (c.ops.got.map (fun e => e.d.setWidth 16)) c.bv
    let mode := if w.w2.getLsbD 3 then 1 else if w.w2.getLsbD 4 then 2 else 0
    let nan := mode == 0 && (p.any isNaN32 || q.any isNaN32)
    let t := compareTile (fldN w.w2 0 3) mode w.w0.toNat w.w1.toNat p q
    .ok (s.modCore c.ref.core (fun x => { x with tiles := x.tiles.setIfInBounds d.toNat t })) { flags := if nan then fNV else 0 }

/-- A tile command on one or two tiles: a poisoned operand is consumed (R138). -/
def doTile (s : State) (c : Cmd) (d : Reg) (srcs : List Reg) (f : List Tile → Tile) : Did :=
  let x := s.core c.ref.core
  let ts := srcs.map (fun r => x.tile r.toNat)
  if ts.any (·.poison) then .fault (cPOISON, 0)
  else .ok (s.putCore c.ref.core { x with tiles := x.tiles.setIfInBounds d.toNat (f ts) }) {}

/-- Read n doublewords of raw or paged space, whose lines have been paid for: entries, or a fault with its index, or a wait. -/
def State.agentRead (s : State) (core vf : Nat) (g : Tag) (sys : Bool) (ta : Nat) : Nat → Nat → Except (Option (Byte × Nat)) (List Entry × State)
  | 0, _ => .ok ([], s)
  | n + 1, i =>
    match s.dwPlace core (ta + 8 * i) { r := true, sys := sys } with
    | .absent => .error none
    | .fault c => .error (some (c, i))
    | .at loc =>
      match (s.track vf g (ta + 8 * i) loc false).agentRead core vf g sys ta n (i + 1) with
      | .ok (l, s') => .ok (s.entryAt loc :: l, s')
      | .error x => .error x

/-- The first poisoned entry. -/
def poisonedAt (l : List Entry) : Option Nat := (l.zipIdx.find? (fun p => p.1.poison)).map (·.2)

/-- The doublewords of a command's range that are left, from number i on, those that `sel` keeps: what all of them gave, in order;
none while one has to wait, or the fault of one. -/
def State.rangeRest (s : State) (c : Cmd) (sel : Nat → Bool) : Nat → Nat → Except (Option Trap) (List ARead × State)
  | 0, _ => .ok ([], s)
  | n + 1, i =>
    let next := fun (x : ARead) (s : State) => match s.rangeRest c sel n (i + 1) with | .ok (l, s') => .ok (x :: l, s') | .error e => .error e
    match alook c.av i with
    | some x => next x s
    | none =>
      if !sel i then next (.ok 0 0) s
      else
        match s.dwPlace c.ref.core (c.ops.ta + 8 * i) c.ask with
        | .absent => .error none
        | .fault code => .error (some (code, c.dwEa i))
        | .at loc => let (x, s1) := s.rangeAt c i loc; next x s1

/-- Perform what is left of a command's range and go on with the doublewords, unless one cannot be performed or holds poison that the
command consumes (R138, R335). -/
def State.performRange (s : State) (c : Cmd) (sel : Nat → Bool) (go : List Entry → State → Did) : Did :=
  let (s1, paid) := s.payRange c.ref c.ref.core c.ops.ta c.range c.ask
  if !paid then .wait s1 false
  else
    match s1.rangeRest c sel c.range 0 with
    | .error none => .wait s1 (!taOnChip c.ops.ta)
    | .error (some tr) => .fault tr
    | .ok (l, s') =>
      match readFault (numbered l) with
      | some tr => .fault tr
      | none => go (l.map (fun x => ⟨BitVec.ofNat 64 (rawOf x).1, false⟩)) s'

/-- MCB (R212; DEDUCED, assumption 11). -/
def doMcb (s : State) (cl : Nat) (c : Cmd) (w : Params) : Did :=
  s.performRange c (fun _ => true) (fun l s' =>
    let cb := (List.range 16).map (fun n => ((l.getD (n / 4) ⟨0, false⟩).d >>> (16 * (n % 4))).setWidth 16)
    .ok (s'.modLease cl (fun x => if w.w0 = 0 then { x with cba := cb } else { x with cbb := cb })) {})

/-- A tile from its image of 3,600 doublewords (R43). -/
def tileOfImage (l : List Entry) : Tile :=
  let a := (l.map (·.d)).toArray
  tileOf (fun i => rowOf (fun j => let b := 480 * i + j; (a.getD (b / 64) 0).getLsbD (b % 64)))

/-- BTLD (R223). -/
def doBtld (s : State) (c : Cmd) (d : Reg) : Did :=
  s.performRange c (fun _ => true) (fun l s' =>
    .ok (s'.modCore c.ref.core (fun x => { x with tiles := x.tiles.setIfInBounds d.toNat (tileOfImage l) })) {})

/-- BTST (R223): which of its doublewords are written is `sel`'s choice when the lease is cut (R202). -/
def doBtst (s : State) (c : Cmd) (sel : Nat → Bool) : Did := s.performRange c sel (fun _ s' => .ok s' {})

/-- Push a value into a stream of a thread, its index read first (R184); none while that has to wait. The array raises no flag
(R38). -/
def State.arrayPush (s : State) (c k n : Nat) (v : Word32) : Option State :=
  let st := (s.thr c k).stream n
  let s1 := if st.indexed then s.fetchHead c k 8 st.link else s
  let t := s1.thr c k
  if st.indexed && !(t.stream st.link).ready then none else some (s1.putThr c k { t.push n v with fcsr := t.fcsr })

/-- BTRC (R225): row counts are pushed. The streams of a leaseholder that has been stopped are gone (R201). -/
def doBtrc (s : State) (c : Cmd) (d a : Reg) (n : Nat) : Did :=
  let t := (s.core c.ref.core).tile a.toNat
  if (s.pending c.ref).isNone then .ok s {}
  else if t.poison then .fault (cPOISON, 0)
  else
    match (List.range n).foldl (fun (o : Option State) i =>
        o.bind (fun s => s.arrayPush c.ref.core c.ref.slot d.toNat (BitVec.ofNat 32 (rowCount (t.row i))))) (some s) with
    | some s' => .ok s' {}
    | none => .wait s false

/-- Execute an execution command whose streams have been read (R204; DEDUCED, assumption 11). -/
def State.runCmd (s : State) (cl : Nat) (l : Lease) (c : Cmd) : Did :=
  match c.ins with
  | .mcb _ _ w => doMcb s cl c w
  | .mzero d _ _ _ =>
    .ok (s.modLease cl (fun l' => l'.putAcc d.toNat (List.replicate 480 (List.replicate 480 (c.ops.a.setWidth 32))))) {}
  | .mma d _ _ _ _ w => doMma s cl l c d w
  | .mmas d _ _ _ _ w => doMmas s cl l c d w
  | .mprog _ w => .ok (s.modLease cl (fun l' => { l' with prog := [w.w0, w.w1, w.w2, w.w3] })) {}
  | .mrec d _ _ _ w => doMrec s cl l c d w
  | .mocmp d a b _ w => doMocmp s c d a b w
  | .btld d _ _ => doBtld s c d
  | .btst _ _ _ => doBtst s c (fun _ => true)
  | .btand d a b _ => doTile s c d [a, b] (fun ts => tileOf (fun i => (ts.getD 0 {}).row i &&& (ts.getD 1 {}).row i))
  | .btor d a b _ => doTile s c d [a, b] (fun ts => tileOf (fun i => (ts.getD 0 {}).row i ||| (ts.getD 1 {}).row i))
  | .btxor d a b _ => doTile s c d [a, b] (fun ts => tileOf (fun i => (ts.getD 0 {}).row i ^^^ (ts.getD 1 {}).row i))
  | .btnot d a _ => doTile s c d [a] (fun ts => tileOf (fun i => ~~~(ts.getD 0 {}).row i))
  | .bttrn d a _ => doTile s c d [a] (fun ts => tileTrans (ts.getD 0 {}))
  | .btcomp d a b _ => doTile s c d [a, b] (fun ts => tileComp (ts.getD 0 {}) (ts.getD 1 {}))
  | .btclo d a _ r => doTile s c d [a] (fun ts => tileClosure (r == 1) (ts.getD 0 {}))
  | .btrc d a _ _ => doBtrc s c d a c.ops.b.toNat
  | _ => .ok s {}

/-- MSG of the control word (R205). -/
def Cmd.msg (c : Cmd) : Bool :=
  match c.ins with
  | .mma _ _ _ _ _ w | .mmas _ _ _ _ _ w | .mrec _ _ _ _ w => w.w2.getLsbD 4
  | .mocmp _ _ _ _ w => w.w2.getLsbD 5
  | _ => false

/-! ## MEPI (R217) -/

/-- Bytes from a destination to the end of its counter. -/
def epiBytes (ofmt stride M : Nat) : Nat :=
  (if ofmt = 7 then 240 * M + (15 * M + 3) / 4 * 4 else (M - 1) * stride + 480 * elemBits ofmt / 8) + 4

/-- The ea of the doubleword in which a byte of a range lies: `ta` and `ea` are the range's first byte, `at_` the byte's tenant address. -/
def dwEa (ta at_ : Nat) (ea : Word) : Word := ea + BitVec.ofNat 64 (at_ / 8 * 8) - BitVec.ofNat 64 ta

/-- What an MEPI is to write, once its bias is known. -/
def Xfer.imaged (x : Xfer) (bias : Option (List Word32)) : Xfer :=
  match x.ins with
  | .mepi _ _ _ _ w =>
    let (ws, ev) := epiImage (fldN w.w2 0 4) w.w1.toNat (w.w2.getLsbD 4) (if w.w2.getLsbD 6 then some w.w3 else none) bias x.rows
    { x with rows := [], bias := none, img := groupDw x.ops.ta ws, events := ev }
  | _ => x

/-- MEPI reads its rows; CLR acts; the reads of its bias and its writes are to follow. A bias doubleword that the array reads while it
reads the rows is one read at once after them: nothing tells these two moments apart (DEDUCED, assumption 11). -/
def State.epiRead (s : State) (cl : Nat) (l : Lease) (c : Cmd) (d : Reg) (b : Reg) (w : Params) : State :=
  let M := fldN w.w0 0 9
  let acc := l.accAt d.toNat
  let x : Xfer := { id := c.ref.id, lease := c.lease, ins := c.ins, ops := c.ops, core := c.ref.core, slot := c.ref.slot, vf := c.vf, tag := c.tag
                    seq := c.seq, rows := (List.range M).map (accRow acc), bias := some [] }
  let s := if w.w2.getLsbD 5 then s.modLease cl (fun l' => l'.putAcc d.toNat (accSet acc (List.replicate M zeroRow))) else s
  s.modCluster cl (fun k => { k with xfers := k.xfers ++ [if b = 0 then x.imaged none else x] })

/-- Doublewords in which the bias vector lies. -/
def Xfer.biasDws (x : Xfer) : Nat := (x.ops.c.toNat % 8 + 1927) / 8

/-- The vector of which doublewords have been read. -/
def Xfer.biasWords (x : Xfer) (l : Assoc Word) : List Word32 :=
  (List.range 480).map (fun j =>
    let o := x.ops.c.toNat % 8 + 4 * j
    (((alook l (o / 8)).getD 0) >>> (8 * (o % 8))).setWidth 32)

/-- Doubleword n of the bias, or its fault; none while its bank is shut. Only the vector's own bytes of it must be reachable. -/
def State.biasDw (s : State) (x : Xfer) (n : Nat) : Except (Option Trap) Word :=
  let ta := x.ops.c.toNat
  let lo := max ta (ta / 8 * 8 + 8 * n)
  let dea := dwEa ta lo x.ops.b
  match s.rawPlace x.core lo (min (8 - lo % 8) (ta + 1920 - lo)) with
  | none => .error (some (cBADWIN, dea))
  | some (c, o) =>
    match s.rawAt x.core c o with
    | .absent => .error none
    | .fault code => .error (some (code, dea))
    | .at loc => if s.poisoned loc then .error (some (cPOISON, dea)) else .ok (s.readW (dword loc))

/-- The transfer of a cluster by number. -/
def State.xfer (s : State) (cl id : Nat) : Option Xfer := (s.cluster cl).xfers.find? (fun x => x.id == id)

def State.modXfer (s : State) (cl id : Nat) (f : Xfer → Xfer) : State :=
  s.modCluster cl (fun k => { k with xfers := k.xfers.map (fun y => if y.id = id then f y else y) })

/-- A doubleword of an MEPI's bias is read, in any order and each at its own moment (R168, R217): with the last the image is known; a
fault leaves nothing to be written. -/
def State.epiBias (s : State) (cl : Nat) (x : Xfer) (l : Assoc Word) (n : Nat) : State :=
  if x.biasDws ≤ n ∨ (alook l n).isSome then s
  else
    match s.biasDw x n with
    | .error none => s
    | .error e => s.modXfer cl x.id (fun y => { y with rows := [], bias := none, status := e })
    | .ok v =>
      let l' := aset l n v
      s.modXfer cl x.id (fun y => if l'.length < x.biasDws then { y with bias := some l' } else y.imaged (some (x.biasWords l')))

/-- One write of an MEPI, in any order (R169): the words of one doubleword. A bank fault leaves that doubleword unwritten and is
recorded; a bank that is shut holds the write (R134). -/
def State.epiWrite (s : State) (cl : Nat) (x : Xfer) (n : Nat) : State :=
  match (if x.moved.contains n then none else x.img[n]?) with
  | none => s
  | some ws =>
    let off := (ws.headD (0, 0)).1
    let ea := x.ops.ea + BitVec.ofNat 64 off
    let bad := s.modXfer cl x.id (fun y => { y with moved := n :: y.moved, status := some (y.status.getD (cBADWIN, ea)) })
    match s.rawPlace x.core (x.ops.ta + off) 4 with
    | none => bad
    | some (c, o) =>
      match s.rawAt x.core c o with
      | .absent => s
      | .fault _ => bad
      | .at loc =>
        let v := ws.zipIdx.foldl (fun n p => n + p.1.2 * 2 ^ (32 * p.2)) 0
        (s.store loc (4 * ws.length) v).modXfer cl x.id (fun y => { y with moved := n :: y.moved })

/-- One move of an MEPI: a read of its bias, and writes once those are done. -/
def State.epiMove (s : State) (cl : Nat) (x : Xfer) (n : Nat) : State :=
  match x.bias with | some l => s.epiBias cl x l n | none => s.epiWrite cl x n

/-- Moves 0 to n − 1 of an MEPI. -/
def State.epiMoves (s : State) (cl id n : Nat) : State :=
  (List.range n).foldl (fun (s : State) n => match s.xfer cl id with | some y => s.epiMove cl y n | none => s) s

def statusNat (st : Option (Byte × Word)) : Nat := match st with | some (c, _) => c.toNat | none => 0
def statusEa (st : Option (Byte × Word)) : Word := match st with | some (_, e) => e | none => 0

/-- The reads and writes that remain of an MEPI are performed; when none is held, its message is posted (R205, R217). -/
def State.epiDone (s : State) (cl : Nat) (x : Xfer) : State :=
  let s0 := if x.bias.isSome then s.epiMoves cl x.id x.biasDws else s
  let s1 := match s0.xfer cl x.id with | some y => if y.bias.isSome then s0 else s0.epiMoves cl x.id y.img.length | none => s0
  match s1.xfer cl x.id with
  | none => s1
  | some y =>
    if y.bias.isSome || decide (y.moved.length < y.img.length) then s1
    else
      (s1.modCluster cl (fun k => { k with xfers := k.xfers.filter (fun z => z.id != x.id) })).arrayMsg x.core 0x10 7 x.seq
        (statusNat y.status) (statusEa y.status) x.events

/-! ## MLOADB (R211) -/

/-- Source row bytes. -/
def bRow (bf : Nat) : Nat := 60 * elemBits bf

/-- Number of doubleword moves, and of scale bytes after them. -/
def loadMoves (w : Params) : Nat × Nat :=
  let bf := fldN w.w2 0 4
  (w.w1.toNat * (bRow bf / 8), if bf = 7 then 480 * ((w.w1.toNat + 31) / 32) else 0)

inductive Moved where
  | ok (s : State)
  | wait
  /-- the transfer ends: the state after it, the cause, the failing ea -/
  | stop (s : State) (code : Byte) (ea : Word)

/-- Place the elements of one source doubleword: row k, elements from j on. -/
def State.placeElems (s : State) (cl boff bf k j : Nat) (e : Entry) : Nat → State
  | 0 => s
  | n + 1 =>
    let w := elemBits bf
    let idx := 64 / w - (n + 1)
    let loc := anvilLoc cl (j + idx) (boff + k * w / 8)
    let s1 := s.putElem bf k loc (e.d.toNat / 2 ^ (w * idx) % 2 ^ w)
    (s1.setPoison loc e.poison).placeElems cl boff bf k j e n

/-- One move of an MLOADB: a source doubleword, or one scale byte. A poisoned doubleword is copied and ends the transfer. -/
def State.loadMove (s : State) (cl : Nat) (x : Xfer) (w : Params) (n : Nat) : Moved :=
  let bf := fldN w.w2 0 4
  let boff := w.w0.toNat
  let stride := if w.w3 = 0 then bRow bf else w.w3.toNat
  let (nd, _) := loadMoves w
  let ask : Ask := { r := true, sys := x.ops.sys }
  if n < nd then
    let per := bRow bf / 8
    let off := n / per * stride + 8 * (n % per)
    let ea := x.ops.ea + BitVec.ofNat 64 off
    let lo := if stride = bRow bf then x.ops.ta else x.ops.ta + n / per * stride
    match s.agentPlace x.core lo (x.ops.ta + off) ask with
    | .absent => .wait
    | .fault c => .stop s c ea
    | .at loc =>
      let e := s.entryAt loc
      let s1 := (s.agentNote x.core x.vf x.tag lo (x.ops.ta + off) loc false).placeElems cl boff bf (n / per)
        (n % per * (64 / elemBits bf)) e (64 / elemBits bf)
      if e.poison then .stop s1 cPOISON ea else .ok s1
  else
    let b := n - nd
    let ea := x.ops.b + BitVec.ofNat 64 b
    let ta := x.ops.c.toNat + b
    let dst := anvilLoc cl (b % 480) (scaleOff boff w.w1.toNat + b / 480)
    let pays := lineStart x.ops.c.toNat ta
    match s.linePlace x.core pays (ta / 8 * 8) ask with
    | .absent => .wait
    | .fault c => .stop s c ea
    | .at loc0 =>
      let loc := loc0 + ta % 8
      let p := s.poisoned loc
      let s1 := (s.lineNote x.core x.vf x.tag pays (ta / 8 * 8) loc0 false).store dst 1
        ((s.dwordAt (dword loc)).toNat / 2 ^ (loc % 8 * 8) % 256)
      if p then .stop (s1.setPoison dst true) cPOISON (dwEa x.ops.c.toNat ta x.ops.b) else .ok (s1.setPoison dst false)

/-- An MLOADB ends with a message. -/
def State.loadEnd (s : State) (cl : Nat) (x : Xfer) (code : Nat) (ea : Word) : State :=
  (s.modCluster cl (fun k => { k with xfers := k.xfers.filter (fun y => y.id != x.id) })).arrayMsg x.core 0x10 2 x.seq code ea 0

/-- The moves that remain, until one ends the transfer or must wait. -/
def State.loadAll (s : State) (cl : Nat) (x : Xfer) (w : Params) : Nat → Nat → State
  | 0, _ => s.loadEnd cl x 0 0
  | k + 1, n =>
    if x.moved.contains n then s.loadAll cl x w k (n + 1)
    else
      match s.loadMove cl x w n with
      | .ok s' =>
        (s'.modXfer cl x.id (fun y => { y with moved := n :: y.moved })).loadAll cl { x with moved := n :: x.moved } w k (n + 1)
      | .wait => s
      | .stop s' c ea => s'.loadEnd cl x c.toNat ea

/-- One move alone, in any order. -/
def State.loadOne (s : State) (cl : Nat) (x : Xfer) (w : Params) (n : Nat) : State :=
  let (a, b) := loadMoves w
  if x.moved.contains n ∨ a + b ≤ n then s
  else
    match s.loadMove cl x w n with
    | .ok s' => s'.modXfer cl x.id (fun y => { y with moved := n :: y.moved })
    | .wait => s
    | .stop s' c ea => s'.loadEnd cl x c.toNat ea

/-- The array begins an MLOADB: its bands take their owner (R207, R211; DEDUCED, assumption 11). A doubleword there keeps its poison
until it is written. -/
def State.loadBegin (s : State) (cl : Nat) (c : Cmd) (w : Params) : State :=
  let bf := fldN w.w2 0 4
  let boff := w.w0.toNat
  let last := bLast boff w.w1.toNat bf
  let x : Xfer := { id := c.ref.id, lease := c.lease, ins := c.ins, ops := c.ops, core := c.ref.core, slot := c.ref.slot, vf := c.vf, tag := c.tag
                    seq := c.seq }
  s.modCluster cl (fun k =>
    { k with
      xfers := k.xfers ++ [x]
      bands := ((List.range 24).filter (fun m => decide (boff / 4096 ≤ m ∧ m ≤ last / 4096))).foldl (fun b m => aset b m c.vf) k.bands })

/-! ## The queue (R204) -/

/-- An MLOADB that has been given a place in the queue completes. -/
def State.promote (s : State) (cl : Nat) : State :=
  ((s.cluster cl).cmds.take 4).foldl (fun s c =>
    if isLoadB c.ins then
      match s.pending c.ref with
      | some p => if p.phase = .queued then (s.finish c.ref {}).cmdDone cl else s
      | none => s
    else s) s

/-- Take the head off the queue. -/
def State.popCmd (s : State) (cl : Nat) : State := s.modCluster cl (fun k => { k with cmds := k.cmds.drop 1 })

/-- Its streams have been read, if it reads any. -/
def Cmd.readyToRun (c : Cmd) : Bool := c.consumed || c.reads.isEmpty

/-- The array finishes the command at the head of its queue, or begins the transfer there (R204). A command that is parked waits for
the pager's wake (R146). -/
def State.arrayStep (s0 : State) (cl : Nat) : State :=
  let s := s0.consumeHead cl
  let k := s.cluster cl
  let ended := fun (s : State) => ((s.cmdDone cl).promote cl).orphanEnd cl
  if k.xfers.any (fun x => isLoadB x.ins) || k.engineReset || (k.cmds.head?.bind (fun c => s.pending c.ref)).any (fun p => p.phase == .parked) then s0
  else
    match k.cmds with
    | [] => s0
    | c :: _ =>
      match c.ins with
      | .mloadb _ _ _ w => (((s.popCmd cl).loadBegin cl c w).promote cl).orphanEnd cl
      | .mepi d _ b _ w =>
        match k.lease with
        | some l => ended (((s.popCmd cl).epiRead cl l c d b w).finish c.ref {})
        | none => s.popCmd cl
      | _ =>
        match k.lease with
        | none => s.popCmd cl
        | some l =>
          if !c.readyToRun then s0
          else
            match s.runCmd cl l c with
            | .wait s' park => if park then s'.setPhase c.ref .parked else s'
            | .fault (code, tv) => ended ((s.popCmd cl).lateFail c.ref code tv)
            | .ok s' r =>
              let s1 := ended ((s'.popCmd cl).finish c.ref r)
              if c.msg then s1.arrayMsg c.ref.core 0x10 c.func c.seq 0 0 0 else s1

/-! ## Cutting a lease (R202) -/

/-- A free choice for each of n things (DESIGN CHOICE, assumption 3). -/
def State.choices (s : State) : (Nat → Bool) × State :=
  let base := s.free
  (fun i => Config.freeBit (base * 65536 + i), { s with free := base + 1 })

/-- A tile of which some doublewords are the new ones (DEDUCED, assumption 48). -/
def mixTile (sel : Nat → Bool) (old new : Tile) : Tile :=
  { tileOf (fun i => rowOf (fun j => if sel ((480 * i + j) / 64) then new.bit i j else old.bit i j)) with poison := old.poison }

/-- What a command that is cut short had done: a tile partly written, an image partly stored, a stream partly filled or read. -/
def State.partial_ (s : State) (cl : Nat) (l : Lease) (c : Cmd) : State :=
  let (sel, s1) := s.choices
  let (w, s2) := s1.freeWord
  match c.ins with
  | .btst _ _ _ => match doBtst s2 c sel with | .ok s' _ => s' | _ => s2
  | .btrc d a _ _ => match doBtrc s2 c d a (w.toNat % (c.ops.b.toNat + 1)) with | .ok s' _ => s' | _ => s2
  | _ =>
    let dest := match c.ins with
      | .btld d _ _ | .btand d _ _ _ | .btor d _ _ _ | .btxor d _ _ _ | .btnot d _ _ | .bttrn d _ _ | .btcomp d _ _ _
      | .btclo d _ _ _ | .mocmp d _ _ _ _ => some d.toNat
      | _ => none
    match s2.readAs cl c with
    | none => s2
    | some (c', s3) =>
      -- streams: any part of what the command takes has been read
      let back := if c.consumed || (s.pending c.ref).isNone then s3
        else c.reads.foldl (fun s n => s.modThr c.ref.core c.ref.slot (fun t => t.giveBack 8 n.1 (w.toNat % (n.2 + 1)))) s3
      match dest with
      | none => back
      | some d =>
        match back.runCmd cl l c' with
        | .ok s' _ =>
          let old := (s.core c.ref.core).tile d
          s'.modCore c.ref.core (fun x => { x with tiles := x.tiles.setIfInBounds d (mixTile sel old (x.tile d)) })
        | _ => back

/-- Abandon the commands of a lease that have not completed (R202; DEDUCED, assumption 48). -/
def State.abandon (s : State) (cl : Nat) : List Cmd → State
  | [] => s
  | c :: r =>
    let s1 := match s.pending c.ref with
      | some p => if p.phase = Phase.queued ∨ p.phase = Phase.parked then s.lateFail c.ref cLEASE 0 else s
      | none => s
    let done := match s.pending c.ref with | some p => p.phase != Phase.queued && p.phase != Phase.parked | none => true
    let s2 := if isLoadB c.ins && done then s1.arrayMsg c.ref.core 0x10 2 c.seq cLEASE.toNat 0 0 else s1
    s2.abandon cl r

/-- The time limit ends a lease (R202; DEDUCED, assumption 48). -/
def State.cutLease (s : State) (cl : Nat) : State :=
  let k := s.cluster cl
  match k.lease with
  | none => s
  | some l =>
    if s.ungated < l.at_ + 65536 then s
    else
      let mine := fun (n : Nat) => n == l.num
      let busy := k.xfers.any (fun x => isLoadB x.ins)
      let s1 := match k.cmds with
        | c :: _ => if busy || isLoadB c.ins || (match c.ins with | .mepi _ _ _ _ _ => true | _ => false) then s else s.partial_ cl l c
        | [] => s
      let s2 := s1.abandon cl (k.cmds.filter (fun c => mine c.lease))
      let s3 := (k.xfers.filter (fun x => isLoadB x.ins && mine x.lease)).foldl (fun s x => s.loadEnd cl x cLEASE.toNat 0) s2
      (s3.modCluster cl (fun k => { k with cmds := k.cmds.filter (fun c => !mine c.lease) })).endLease cl

/-! ## The instructions -/

/-- R208. -/
def execMlease (l : BitVec 4) (p : Params) (s : State) : Out :=
  issue (.mlease l p) s (fun _ s => mlease (.mlease l p) p s)

/-- R209, once every earlier counted command has completed. -/
def execMfree (p : Params) (s : State) : Out :=
  issue (.mfree p) s (fun _ s =>
    .ok (if s.holdsLease s.curCore s.curSlot then s.endLease (clusterOf s.curCore) else s))

/-- R210, once every array command of the thread has finished. -/
def execMwait (p : Params) (s : State) : Out := issue (.mwait p) s (fun _ s => .ok s)

/-- MLOADB (R211). -/
def mloadb (i : Instr) (a b : Reg) (w : Params) (t : Thread) (s : State) : Act :=
  let bf := fldN w.w2 0 4
  let K := w.w1.toNat
  let stride := if w.w3 = 0 then bRow bf else w.w3.toNat
  let src := s.extentTa t { ea := t.rx a, n := (K - 1) * stride + bRow bf, align := 8, sort := .record, r := true } false
  let sc := s.extentTa t { ea := t.rx b, n := 480 * ((K + 31) / 32), align := 1, sort := .record, r := true } false
  counts i (decide (w.w2.toNat < 3 ∨ 9 < w.w2.toNat) || K == 0 || w.w3.toNat % 8 != 0)
    ([extentFail src] ++ (if bf = 7 then [extentFail sc] else []) ++ [anvilFail (w.w0.setWidth 64) K bf])
    { ea := t.rx a, ta := extentVal src, b := t.rx b, c := BitVec.ofNat 64 (extentVal sc) } s

/-- R211. -/
def execMloadb (a b : Reg) (l : BitVec 4) (p : Params) (s : State) : Out :=
  issue (.mloadb a b l p) s (fun t s => mloadb (.mloadb a b l p) a b p t s)

/-- R212. -/
def execMcb (a : Reg) (l : BitVec 4) (p : Params) (s : State) : Out :=
  issue (.mcb a l p) s (fun t s =>
    let src := s.extentTa t { ea := t.rx a, n := 32, align := 8, sort := .record, r := true } false
    counts (.mcb a l p) (decide (1 < p.w0.toNat)) [extentFail src] { ea := t.rx a, ta := extentVal src } s)

/-- R213. -/
def execMzero (d a : Reg) (l : BitVec 4) (p : Params) (s : State) : Out :=
  issue (.mzero d a l p) s (fun t s => counts (.mzero d a l p) false [] { a := t.rx a } s)

/-- MMA, MMAS and MREC (R214, R216, R220): `sparse` and `rec` tell them apart. The format of A goes with the command. -/
def mmaIssue (i : Instr) (a b : Reg) (w : Params) (sparse rec : Bool) (t : Thread) (s : State) : Act :=
  let M := w.w0.toNat
  let K := w.w1.toNat
  let bf := fldN w.w2 0 4
  let x := t.rx a
  let n := x.toNat % 8
  let st := t.stream n
  let pair := !st.configured ||
    (if rec then st.fmt != 0 && st.fmt != 7 && st.fmt != 8
     else (pairGroup st.fmt bf).isSome && !(sparse && (st.fmt == 7 || st.fmt == 8)))
  let bOk := if rec then decide (3 ≤ bf ∧ bf ≤ 6) || bf == 9 else decide (3 ≤ bf ∧ bf ≤ 9)
  let xOk := if sparse then zeroBits x 63 7 && !x.getLsbD 3 else zeroBits x 63 3
  let bitmap := x.toNat / 16 % 8
  let streams := if sparse then
      [dir2Fail t n w.w3.toNat, dir2Fail t bitmap (M * K),
       if (t.stream bitmap).fmt = 13 then none else some ⟨(cSTREAM, BitVec.ofNat 64 bitmap), none⟩]
    else [dir2Fail t n (M * K)]
  counts i (decide (M < 1 ∨ 480 < M) || K == 0 || (if rec then fldN w.w2 6 26 else fldN w.w2 5 27) != 0 || !xOk || !bOk || !pair)
    (streams ++ [anvilFail (t.rx b) K bf])
    { a := x, b := t.rx b, n := st.fmt } s

/-- R215. -/
def execMma (d a b : Reg) (l : BitVec 4) (c : BitVec 1) (p : Params) (s : State) : Out :=
  issue (.mma d a b l c p) s (fun t s => mmaIssue (.mma d a b l c p) a b p false false t s)

/-- R216. -/
def execMmas (d a b : Reg) (l : BitVec 4) (c : BitVec 1) (p : Params) (s : State) : Out :=
  issue (.mmas d a b l c p) s (fun t s => mmaIssue (.mmas d a b l c p) a b p true false t s)

/-- R220. -/
def execMrec (d a b : Reg) (l : BitVec 4) (p : Params) (s : State) : Out :=
  issue (.mrec d a b l p) s (fun t s => mmaIssue (.mrec d a b l p) a b p false true t s)

/-- MEPI (R217). -/
def mepi (i : Instr) (a b : Reg) (w : Params) (t : Thread) (s : State) : Act :=
  let M := w.w0.toNat
  let ofmt := fldN w.w2 0 4
  let iacc := w.w2.getLsbD 4
  let scl := w.w2.getLsbD 6
  let fOk := if iacc then (ofmt == 9 || ofmt == 11 || ofmt == 12) && !scl else decide (2 ≤ ofmt ∧ ofmt ≤ 7)
  let row := 480 * elemBits ofmt / 8
  let sOk := w.w1.toNat % 4 == 0 && decide (row ≤ w.w1.toNat) && (ofmt != 7 || w.w1 == 240)
  let dst := s.extentTa t { ea := t.rx a, n := epiBytes ofmt w.w1.toNat M, align := 4, sort := .rawRecord, w := true } true
  let bia := s.extentTa t { ea := t.rx b, n := 1920, align := 4, sort := .rawRecord, r := true } true
  counts i (decide (M < 1 ∨ 480 < M) || fldN w.w2 7 25 != 0 || !fOk || !sOk || (!scl && w.w3 != 0))
    ([extentFail dst] ++ (if b = 0 then [] else [extentFail bia]))
    { ea := t.rx a, ta := extentVal dst, b := t.rx b, c := BitVec.ofNat 64 (extentVal bia) } s

/-- R217. -/
def execMepi (d a b : Reg) (l : BitVec 4) (p : Params) (s : State) : Out :=
  issue (.mepi d a b l p) s (fun t s => mepi (.mepi d a b l p) a b p t s)

/-- R218. -/
def execMprog (l : BitVec 4) (p : Params) (s : State) : Out :=
  issue (.mprog l p) s (fun _ s => counts (.mprog l p) (!progOk [p.w0, p.w1, p.w2, p.w3]) [] {} s)

/-- MOCMP (R221). Formats and codebooks of the two streams go with the command. -/
def mocmp (i : Instr) (a b : Reg) (w : Params) (t : Thread) (s : State) : Act :=
  let m := w.w0.toNat
  let n := w.w1.toNat
  let st := t.stream a.toNat
  let st2 := t.stream b.toNat
  counts i (decide (m < 1 ∨ 480 < m ∨ n < 1 ∨ 480 < n) || fldN w.w2 6 26 != 0 || (w.w2.getLsbD 3 && w.w2.getLsbD 4) ||
      (a == b && m != n))
    (if a = b then [dir2Fail t a.toNat m] else [dir2Fail t a.toNat m, dir2Fail t b.toNat n])
    { n := st.fmt, ta := st2.fmt, cb := st.codebook, got := st2.codebook.map (fun v => ⟨v.setWidth 64, false⟩) } s

/-- R221. -/
def execMocmp (d a b : Reg) (l : BitVec 4) (p : Params) (s : State) : Out :=
  issue (.mocmp d a b l p) s (fun t s => mocmp (.mocmp d a b l p) a b p t s)

/-- R223. -/
def execBtld (d a : Reg) (l : BitVec 4) (s : State) : Out :=
  issue (.btld d a l) s (fun t s =>
    let src := s.extentTa t { ea := t.rx a, n := 28800, align := 8, sort := .record, r := true } false
    counts (.btld d a l) false [extentFail src] { ea := t.rx a, ta := extentVal src, n := 28800 } s)

/-- R223. -/
def execBtst (b a : Reg) (l : BitVec 4) (s : State) : Out :=
  issue (.btst b a l) s (fun t s =>
    let dst := s.extentTa t { ea := t.rx a, n := 28800, align := 8, sort := .record, w := true } false
    counts (.btst b a l) false [extentFail dst] { ea := t.rx a, ta := extentVal dst, n := 28800 } s)

/-- R224. -/
def execBtand (d a b : Reg) (l : BitVec 4) (s : State) : Out :=
  issue (.btand d a b l) s (fun _ s => counts (.btand d a b l) false [] {} s)

/-- R224. -/
def execBtor (d a b : Reg) (l : BitVec 4) (s : State) : Out :=
  issue (.btor d a b l) s (fun _ s => counts (.btor d a b l) false [] {} s)

/-- R224. -/
def execBtxor (d a b : Reg) (l : BitVec 4) (s : State) : Out :=
  issue (.btxor d a b l) s (fun _ s => counts (.btxor d a b l) false [] {} s)

/-- R224. -/
def execBtnot (d a : Reg) (l : BitVec 4) (s : State) : Out :=
  issue (.btnot d a l) s (fun _ s => counts (.btnot d a l) false [] {} s)

/-- R224. -/
def execBttrn (d a : Reg) (l : BitVec 4) (s : State) : Out :=
  issue (.bttrn d a l) s (fun _ s => counts (.bttrn d a l) false [] {} s)

/-- R224. -/
def execBtcomp (d a b : Reg) (l : BitVec 4) (s : State) : Out :=
  issue (.btcomp d a b l) s (fun _ s => counts (.btcomp d a b l) false [] {} s)

/-- R224. -/
def execBtclo (d a : Reg) (l : BitVec 4) (r : BitVec 1) (s : State) : Out :=
  issue (.btclo d a l r) s (fun _ s => counts (.btclo d a l r) false [] {} s)

/-- BTRC (R225): a count of 1 to 480, and a DIR 1 stream of integers with that much room. -/
def btrc (i : Instr) (d b : Reg) (t : Thread) (s : State) : Act :=
  let c := (t.rx b).toNat
  let n := d.toNat
  let st := t.stream n
  let bad := !st.configured || st.dir != 1 || !(st.fmt == 0 || decide (9 ≤ st.fmt ∧ st.fmt ≤ 12)) ||
    decide (st.remaining < c + t.promised n)
  counts i (decide (c < 1 ∨ 480 < c))
    [match st.mark with | some tr => some ⟨tr, some n⟩ | none => if bad then some ⟨(cSTREAM, BitVec.ofNat 64 n), none⟩ else none]
    { b := t.rx b } s

/-- R225. -/
def execBtrc (d a b : Reg) (l : BitVec 4) (s : State) : Out :=
  issue (.btrc d a b l) s (fun t s => btrc (.btrc d a b l) d b t s)

/-! ## Steps of the array -/

/-- R199, R200. -/
def execArrayLeaseGrant (cluster : Nat) (s : State) : Out := .next (s.grant cluster)

/-- R202 (DEDUCED, assumption 48). -/
def execLeaseTimeLimit (cluster : Nat) (s : State) : Out := .next (s.cutLease cluster)

/-- R204. In a gated rotation no array step runs (R354). -/
def execArrayCommandComplete (cluster : Nat) (s : State) : Out := .next (if s.gated then s else s.arrayStep cluster)

/-- R205, R354. -/
def execArrayOperandsConsumed (cluster : Nat) (s : State) : Out := .next (if s.gated then s else s.consumeHead cluster)

/-- R211, R354. -/
def execMloadbTransferDone (cluster id : Nat) (s : State) : Out :=
  .next (if s.gated then s else match s.xfer cluster id with
    | some x =>
      match x.ins with
      | .mloadb _ _ _ w => let (a, b) := loadMoves w; s.loadAll cluster x w (a + b) 0
      | _ => s
    | none => s)

/-- R217, R354. -/
def execMepiWritesDone (cluster id : Nat) (s : State) : Out :=
  .next (if s.gated then s else match s.xfer cluster id with
    | some x => match x.ins with | .mepi _ _ _ _ _ => s.epiDone cluster x | _ => s
    | none => s)

end Sys2Proof.Machine
end

