-- ==== Sys2Proof/Machine/Context.lean ====
section
/-!
DEFINITION. Machine/Context.lean: threads as wholes: their block tags, how they begin and end, the withdrawal of what they
wait for (R130, R198, R316), the saved context and the thread-context cache (R254, R255, R317, R318, R328).
-/
namespace Sys2Proof.Machine

/-! ## Slots -/

/-- A slot in which no thread is, or whose thread is away (R93, R229). -/
def idleSlot (k : Nat) : Thread := { sys := k == 15 }

/-- The slot is Idle and not held. -/
def Core.free (x : Core) (k : Nat) : Bool := (x.slot k).st == .idle && !(x.slot k).held

/-- A thread begins: registers x1 to x6, all else as R236 gives. -/
def freshThread (pc : Word) (xs : List Word) (g : Vector (BitVec 128) 8) (rm : Word) (tag : Tag) (member : Bool)
    (home slot : Nat) (now : Nat) : Thread :=
  { st := .run, pc := pc
    x := Vector.ofFn (fun i : Fin 32 => if i.val = 0 ∨ 6 < i.val then 0 else xs.getD (i.val - 1) 0)
    g := g, fcsr := rm, tag := tag, member := member, home := home, homeSlot := slot
    args := Vector.ofFn (fun i : Fin 5 => xs.getD i.val 0), back := now + 1 }

/-- RM of FCSR with the flags 0 (R236). -/
def Thread.rmOnly (t : Thread) : Word := BitVec.ofNat 64 (t.fcsr.toNat / 32 % 8 * 32)

/-! ## Waiting instructions -/

/-- Sleeps on a condition, not on an access: it stays as it is when its thread is saved (R249, R346). -/
def keepsPlace (i : Instr) : Bool :=
  match i with
  | .bar _ _ | .reap _ | .halt _ | .gvtrdW _ _ | .cred _ _ _ _ | .cbcast _ _ _ _ _ | .exit | .tnext _ _ => true
  | _ => false

def Pending.keepsPlace (p : Pending) : Bool := Machine.keepsPlace p.ins || p.ops.stage == stageLog

/-- Asleep or parked, so that a stop need not wait for it; an array command is waited for (R203). -/
def Pending.waits (p : Pending) : Bool :=
  !counted p.ins &&
  (p.phase == .asleep || p.phase == .retry || p.phase == .parked || (p.phase == .queued && Machine.keepsPlace p.ins))

/-- Take an instruction out of every table in which it waits. -/
def State.unqueue (s : State) (r : Ref) (p : Pending) : State :=
  let s := match p.arrivesAt with
    | some (c, b) =>
      let (tc, tb) := s.tableBank c b
      ((s.modBank tc tb (fun k => { k with waiters := k.waiters.filter (· != r), retriers := k.retriers.filter (· != r) })).modBank c b
        (fun k => { k with held := k.held.filter (· != r) })).modCluster (clusterOf c) (fun k => { k with heldAcc := k.heldAcc.filter (· != r) })
    | none => s
  let s := s.modCore r.core (fun x => { x with dqWaiters := x.dqWaiters.filter (· != r) })
  s.modCluster (clusterOf r.core) (fun k => { k with leaseQ := k.leaseQ.filter (fun q => q.ref != r) })

/-- Drop an arrival at the barriers of a gang; a barrier without arrivals is idle. -/
def Gang.unarrive (g : Gang) (r : Ref) : Gang :=
  let bars := g.bars.map (fun b => (b.1, { b.2 with arrived := b.2.arrived.filter (fun a => a.id != r.id) }))
  { g with bars := bars.filter (fun b => !b.2.arrived.isEmpty) }

/-- Take back an arrival at a barrier or a collective. -/
def State.unarrive (s : State) (r : Ref) (home : Nat) : State :=
  let cs := s.collectives.map (fun (c : Collective) => { c with arrived := c.arrived.filter (fun a => a.1.id != r.id) })
  { s.modCluster (clusterOf home) (fun k => { k with gangs := k.gangs.map (fun g => g.unarrive r) }) with
    collectives := cs.filter (fun c => !c.arrived.isEmpty) }

/-- Withdraw an instruction that sleeps or is parked, to be issued again when its thread goes on (R130, R146, R203). -/
def State.withdraw (s : State) (c k : Nat) (p : Pending) : State :=
  (s.unqueue ⟨c, k, p.id⟩ p).modPend ⟨c, k, p.id⟩ (fun p =>
    { p with wasParked := p.phase == .parked, phase := .withdrawn, ops := { p.ops with here := false } })

/-- Withdraw what the thread sleeps on or is parked for. -/
def State.withdrawWaits (s : State) (c k : Nat) : State :=
  (s.thr c k).pend.foldl (fun s p => if p.waits && !p.keepsPlace then s.withdraw c k p else s) s

/-- Return from a trap (R322): resume at EPC, and issue again what was withdrawn (R130, R198). -/
def State.resumed (s : State) (c k : Nat) : State := (s.resume c k).reissue c k

/-- Threads of a core, wherever it holds them: in its slots, its arrival queue, its context cache. -/
def Core.modThreads (x : Core) (f : Thread → Thread) : Core :=
  { x with slots := x.slots.map f, arrivals := x.arrivals.map (fun p => { p with th := f p.th })
           tcc := x.tcc.map (fun e => (e.1, { e.2 with th := f e.2.th })) }

def Core.threads (x : Core) : List Thread := x.slots.toList ++ x.arrivals.map (·.th) ++ x.tcc.map (·.2.th)

/-- A pending instruction, wherever its thread is now: instructions have numbers of their own. -/
def State.pendingAny (s : State) (r : Ref) : Option Pending :=
  match s.pending r with
  | some p => some p
  | none => s.cores.findSome? (fun x => x.2.threads.findSome? (fun t => t.pending r.id))

def State.modPendAny (s : State) (r : Ref) (f : Pending → Pending) : State :=
  if (s.pending r).isSome then s.modPend r f
  else { s with cores := s.cores.map (fun (x : Nat × Core) =>
    (x.1, x.2.modThreads (fun t => (t.modPend r.id f).backFrom t s.cycle))) }

/-! ## Stops and late faults (R61, R310, R316, R319) -/

/-- Nothing of the thread is outstanding that could still be performed; a stop that was asked for does not wait for a sleep. -/
def Thread.resolved (t : Thread) : Bool :=
  t.pend.all (fun p => p.phase == .withdrawn || (match p.phase with | .fault _ _ => true | _ => false) || (cls p.ins).sfu ||
    (p.waits && (t.stop.map (·.asked)).getD false))

/-- The faults among the pending instructions, oldest first. -/
def Thread.faults (t : Thread) : List (Pending × Byte × Word) :=
  t.pend.filterMap (fun p => match p.phase with | .fault c tv => some (p, c, tv) | _ => none)

/-- The sleeping instruction at which an asked stop finds the thread. -/
def Thread.sleeper (t : Thread) (st : Stop) : Option Pending :=
  match st.slept with
  | some n => t.pend.find? (fun p => p.id == n && p.waits)
  | none => t.pend.find? (fun p => p.waits)

/-- An instruction that sleeps is given up: the thread will issue it afresh. -/
def State.giveUp (s : State) (c k : Nat) (p : Pending) : State :=
  ((s.unqueue ⟨c, k, p.id⟩ p).unarrive ⟨c, k, p.id⟩ (s.thr c k).home).modThr c k (fun t => t.dropPend p.id)

/-- The trap of an asked stop (R316, R319): EPC names the instruction that slept, which is given up with those after it that
slept, and LAD counts those that had issued after it; what slept before it is withdrawn (DEDUCED, assumption 19). -/
def State.takeStop (s : State) (c k : Nat) (st : Stop) : State :=
  let t := s.thr c k
  match t.sleeper st with
  | none => (s.withdrawWaits c k).takeTrap c k st.code st.tval t.pc false 0 t.xw
  | some p =>
    let s1 := (t.pend.filter (fun q => decide (p.id ≤ q.id) && q.waits)).foldl (fun (s : State) q => s.giveUp c k q) s
    (s1.withdrawWaits c k).takeTrap c k st.code st.tval p.pc false p.issued (if p.xw then some p.ins.word else none)

/-- A stop that a late fault has overtaken comes due when its thread goes on; LOGFULL arises again if it must. -/
def Thread.putOff (t : Thread) : Thread :=
  match t.stop with
  | some st => if st.asked && st.slept.isNone then { t with later := t.later ++ [(st.code, st.tval)] } else t
  | none => t

/-- The thread stops: for its oldest late fault, the younger ones being discarded, or for the fault or stop that waited. A
word of XEC that faulted or was discarded is executed again (R325). -/
def State.stopThread (s : State) (c k : Nat) : State :=
  let t := s.thr c k
  if !t.resolved then s
  else
    match t.faults with
    | (p, code, tv) :: _ =>
      let again := (t.faults.find? (fun f => f.1.xw)).map (fun f => f.1.ins.word)
      let s1 := (s.withdrawWaits c k).modThr c k (fun t =>
        { t with pend := t.pend.filter (fun q => match q.phase with | .fault _ _ => false | _ => true) }.putOff)
      s1.takeTrap c k code tv p.pc true p.issued again
    | [] =>
      match t.stop with
      | some st =>
        if st.asked then s.takeStop c k st
        else s.takeTrap c k st.code st.tval st.epc false 0 (if st.xw then t.xw else none)
      | none => s

/-- An instruction in flight that nothing has followed fails a check that is exact (R262): it is the fault of an instruction at
issue. -/
def State.exactFail (s : State) (r : Ref) (p : Pending) (code : Byte) (tval : Word) : State :=
  (s.modThr r.core r.slot (fun t =>
    { (t.dropPend r.id).putOff with
        xw := if p.xw then some p.ins.word else none
        stop := some { code := code, tval := tval, epc := p.pc, xw := p.xw } })).stopThread r.core r.slot

/-- Stop a thread at its next boundary (R310, R316, R319), once a fault or stop that waits already has been dealt with
(DEDUCED, assumption 19). `slept` is the sleeping instruction that the stop is for (R294). -/
def State.interrupt (s : State) (c k : Nat) (code : Byte) (tval : Word) (slept : Option Nat := none) : State :=
  let t := s.thr c k
  if t.st != .run || k == 15 then s
  else if t.stop.isSome then s.putThr c k { t with later := t.later ++ [(code, tval)] }
  else
    (s.putThr c k { t with stop := some { code := code, tval := tval, epc := t.pc, xw := t.xw.isSome, asked := true, slept := slept } }).stopThread c k

/-! ## The end of a thread -/

/-- The home slot that is held for a thread is released (R229). -/
def State.releaseHome (s : State) (t : Thread) : State :=
  if ((s.core t.home).slot t.homeSlot).held then s.seat t.home t.homeSlot (idleSlot t.homeSlot) else s

/-- A member of a gang that is being taken out ends: nothing is left to be saved of it, and its save is asked for no more (R252). -/
def State.unlist (s : State) (t : Thread) : State :=
  if !t.member then s
  else
    let cl := clusterOf t.home
    let hit := (s.cluster cl).gangs.any (fun g => g.handle == t.tag.handle && g.block == t.tag.block &&
      ((g.saving.map (·.1)).getD []).any (fun m => m.1 == t.home && m.2.1 == t.homeSlot))
    if !hit then s
    else
      (s.modCore t.home (fun x => { x with svc := x.svc.filter (fun q => !(q.kind == 1 && q.slot == t.homeSlot)), backPaid := [] })).modCluster cl
        (fun k => { k with gangs := k.gangs.map (fun g =>
          if g.handle = t.tag.handle ∧ g.block = t.tag.block then
            { g with saving := g.saving.map (fun v => (v.1.filter (fun m => !(m.1 == t.home && m.2.1 == t.homeSlot)), v.2)) }
          else g) })

/-- The thread's slot becomes Idle, its held home slot is released, and what it waited for is withdrawn (R243, R248). -/
def State.endThread (s : State) (c k : Nat) : State :=
  let t := s.thr c k
  let s := t.pend.foldl (fun s p => (s.unqueue ⟨c, k, p.id⟩ p).unarrive ⟨c, k, p.id⟩ t.home) s
  let s := (s.modCore c (fun x => { x with sfu := x.sfu.filter (fun q => q.slot != k) })).unlist t
  (if t.home ≠ c then s.releaseHome t else s).seat c k (idleSlot k)

/-- A guest may be packed (R126, R173, R189): no access of it is on its way to a bank or port, and what it has queued can be
withdrawn or keeps its place. -/
def Thread.packable (t : Thread) : Bool :=
  t.pend.all (fun p =>
    match p.phase, p.ops.tgt with
    | .flight, .foreign _ _ => true
    | .flight, _ => false
    | .queued, _ => (cls p.ins).sfu || keepsPlace p.ins
    | _, _ => true)

/-- Accesses that are on their way elsewhere, held, or waiting are withdrawn before a guest is packed (R126). -/
def State.withdrawAll (s : State) (c k : Nat) : State :=
  (s.thr c k).pend.foldl (fun s p =>
    if (p.waits && !p.keepsPlace) || p.phase == .held || p.phase == .leaving || p.phase == .flight then s.withdraw c k p else s) s

/-- Pack a guest and send it home, whatever its state (R126, R252). -/
def State.sendHome (s : State) (c k : Nat) : State :=
  if !(s.thr c k).packable then s
  else
    let s := (s.withdrawAll c k).withdrawSfu c k
    let t := s.thr c k
    let s := { s with packets := s.packets.filter (fun m => !(m.src == c && m.slot == k)) }
    let s := s.modCore c (fun x => { x with offers := x.offers.filter (fun m => m.slot != k) })
    (s.vacate c k t).install t.home t.homeSlot t

/-! ## The saved context as bytes (R317, R318) -/

/-- An instruction with its remaining lookahead. -/
def Pending.coverWord (p : Pending) : Word := BitVec.ofNat 64 (p.cover * 2 ^ 32 + p.ins.word.toNat)

/-- What WACC holds: the withdrawn access, or the condition slept on. -/
def Pending.inWacc (p : Pending) : Bool := (p.phase == .withdrawn && !(cls p.ins).sfu) || p.waits

/-- What WSFU holds. -/
def Pending.inWsfu (p : Pending) : Bool := p.phase == .withdrawn && (cls p.ins).sfu

def Thread.wacc (t : Thread) : List Word :=
  match t.pend.find? Pending.inWacc with
  | some p => [p.pc, p.coverWord, BitVec.ofNat 64 p.ops.ta, p.ops.a]
  | none => [0, 0, 0, 0]

/-- WSFU: the withdrawn SFU request. -/
def Thread.wsfu (t : Thread) : List Word :=
  match t.pend.find? Pending.inWsfu with
  | some p =>
    let pos := fun (n : Nat) => match p.names[n]? with | some m => (t.stream m).pos | none => 0
    [p.pc, p.coverWord, p.ops.a, BitVec.ofNat 64 (pos 1 + 2 ^ 32 * pos 2)]
  | none => [0, 0, 0, 0]

/-- STATE of HDR. -/
def Thread.savedState (t : Thread) : Nat :=
  if t.st = .trapped then 3
  else
    match t.pend.find? Pending.inWacc with
    | some p => if p.wasParked then 2 else 1
    | none => 0

/-- HDR (R317). -/
def Thread.hdr (t : Thread) (slot home : Nat) : Word :=
  BitVec.ofNat 64 (2 ^ 63 + t.savedState * 2 ^ 61 + bit t.xw.isSome 60 +
    bit (t.pend.any Pending.inWsfu) 59 + bit t.member 58 + slot * 2 ^ 52 + home)

/-- The 128 doublewords of a context entry (R317). -/
def Thread.image (t : Thread) (slot home : Nat) : List Word :=
  [t.hdr slot home, t.pc, t.tsw, t.tag.handle ++ t.tag.block] ++
  (List.range 32).map (fun n => t.rx (BitVec.ofNat 5 n)) ++
  (List.range 32).map (fun n => if 24 ≤ n ∧ (t.stream (n - 24)).configured then 0 else (t.f[n]?).getD 0) ++
  ((List.range 8).map (fun n => [(t.rg n).setWidth 64, (t.rg n >>> 64).setWidth 64])).flatten ++
  [t.fcsr, t.ovfc, t.mxsb, t.live] ++ t.cbk.toList ++ [t.epc, t.cause, t.tval] ++
  [((t.xw.getD 0).setWidth 64 : Word)] ++ t.wacc ++ t.wsfu ++ List.replicate 12 0

/-- The 16 doublewords of a stream's record (R318). -/
def Stream.image (st : Stream) : List Word :=
  if !st.configured then List.replicate 16 0
  else
  let (code, ea) : Byte × Word := st.mark.getD (0, 0)
  let codes := (List.range 4).map (fun i =>
    (List.range 4).foldl (fun (v : Word) j => v + (((st.codebook.getD (4 * i + j) 0).setWidth 64 : Word) <<< (16 * j))) 0)
  [BitVec.ofNat 64 (bit st.configured 63 + bit st.mark.isSome 62 + bit st.indexed 61 + bit st.isIndex 60 + st.link * 2 ^ 57 +
     st.rm.toNat * 2 ^ 54 + code.toNat * 2 ^ 32 + st.mode.toNat),
   st.base, BitVec.ofNat 64 (st.pos * 2 ^ 32 + st.count), st.stride,
   BitVec.ofNat 64 (st.rowStride.toNat * 2 ^ 32 + st.rows), ea, 0, 0] ++
  (if st.fmt = 7 then [st.mxsb, 0, 0, 0] else if st.fmt = 8 then codes else [0, 0, 0, 0]) ++ [0, 0, 0, 0]

/-- The 256 doublewords that back an entry: the context, then its stream records. -/
def Ctx.image (x : Ctx) (home : Nat) : List Word :=
  x.th.image x.slot home ++ (x.th.streams.toList.map Stream.image).flatten

/-- Tenant address of doubleword n of the backing of entry e: TCCBASE + 1,024 × e, or × (N + e) for stream records. -/
def tccTa (base : Word) (N e n : Nat) : Nat :=
  base.toNat + (if n < 128 then 1024 * e + 8 * n else 1024 * (N + e) + 8 * (n - 128))

/-! ## A context from its bytes (R317, R318, R328) -/

/-- A stream from its record. The model keeps the tenant address of B beside it. -/
def Stream.ofWords (old : Stream) (t : Thread) (w : List Word) : Stream :=
  let at_ := fun (n : Nat) => w.getD n 0
  let h := at_ 0
  let mode : Word32 := h.setWidth 32
  if !h.getLsbD 63 then {}
  else
    { configured := true, mode := mode, base := at_ 1
      ta := if at_ 1 = old.base ∧ old.configured then old.ta else segBase (t.segOf (at_ 1)) + eaOffset (at_ 1)
      count := (at_ 2).toNat % 2 ^ 32, pos := (at_ 2).toNat / 2 ^ 32, stride := at_ 3, rows := (at_ 4).toNat % 2 ^ 32
      rowStride := (at_ 4 >>> 32).setWidth 32, rm := BitVec.ofNat 3 (h.toNat / 2 ^ 54)
      mxsb := if fldN mode 0 4 = 7 then at_ 8 else 0
      codebook := if fldN mode 0 4 = 8 then (List.range 16).map (fun n => (at_ (8 + n / 4) >>> (16 * (n % 4))).setWidth 16) else []
      indexed := h.getLsbD 61, isIndex := h.getLsbD 60, link := h.toNat / 2 ^ 57 % 8
      mark := if h.getLsbD 62 then some (BitVec.ofNat 8 (h.toNat / 2 ^ 32), at_ 5) else none }

/-- Reserved places of a stream record are 0. -/
def recordClean (w : List Word) : Bool :=
  let fmt := (w.getD 0 0).toNat % 16
  zeroBits (w.getD 0 0) 53 40 && (w.drop 6).take 2 == [0, 0] && (w.drop 12).take 4 == [0, 0, 0, 0] &&
  (fmt == 8 || (w.drop 9).take 3 == [0, 0, 0]) && (fmt == 7 || fmt == 8 || w.getD 8 0 == 0) || w.take 16 == List.replicate 16 0

/-- Stream n of a thread is one that R175 and R184 allow: an indexed one has an index stream of its own with an element for each that is
left of it. A write stream of a format that rounds has latched a rounding mode (R178). -/
def Thread.soundStream (t : Thread) (n : Nat) : Bool :=
  let st := t.stream n
  !st.configured ||
  (modeOk st.mode && !(subByte st.fmt && (st.mode.getLsbD 11 || st.indexed)) && st.rows != 0 && decide (st.total < 2 ^ 32) &&
    decide (st.pos ≤ st.total) && (st.dir != 1 || !viewRounds st.fmt || decide (st.rm.toNat < 4)) &&
    (!st.indexed || !(st.mode.getLsbD 11 || st.mode.getLsbD 10) &&
      (let ix := t.stream st.link
       st.link != n && ix.configured && ix.isIndex && ix.dir == 0 && (ix.fmt == 0 || decide (9 ≤ ix.fmt ∧ ix.fmt ≤ 12)) &&
         decide (st.total - st.pos ≤ ix.total - ix.pos) &&
         (List.range 8).all (fun m => m == n || !(t.stream m).configured || !(t.stream m).indexed || (t.stream m).link != st.link))))

/-- A withdrawn instruction as WACC or WSFU names it. -/
def Pending.ofWords (p : Pending) (w : List Word) (ta : Bool) : Option Pending :=
  let word : Word32 := (w.getD 1 0).setWidth 32
  match (if word = p.ins.word then some p.ins else decodeOne word) with
  | none => none
  | some i =>
    let ops := if ta then { p.ops with ta := (w.getD 2 0).toNat, a := w.getD 3 0 } else { p.ops with a := w.getD 2 0 }
    some { p with pc := w.getD 0 0, ins := i, cover := (w.getD 1 0).toNat / 2 ^ 32, ops := ops }

/-- The instructions in flight of a context that comes from its bytes: WACC and WSFU name the oldest that the entry was saved with, and
further ones stay as they were saved; a field that its flag does not set has none. `a` and `b` tell that WACC and WSFU have been met. -/
def pendOfWords (pend : List Pending) (acc sfu a b : Bool) (w : List Word) : Option (List Pending) :=
  match pend with
  | [] => some []
  | p :: ps =>
    if p.inWacc then
      if !acc then pendOfWords ps acc sfu a b w
      else do let q ← (if a then some p else p.ofWords (w.drop 108) true); let r ← pendOfWords ps acc sfu true b w; some (q :: r)
    else if p.inWsfu then
      if !sfu then pendOfWords ps acc sfu a b w
      else do let q ← (if b then some p else p.ofWords (w.drop 112) false); let r ← pendOfWords ps acc sfu a true w; some (q :: r)
    else do let r ← pendOfWords ps acc sfu a b w; some (p :: r)

/-- Reserved fields of the bytes of a context are 0 (R328). -/
def contextClean (w : List Word) : Bool :=
  let at_ := fun (n : Nat) => w.getD n 0
  zeroBits (at_ 0) 57 56 && zeroBits (at_ 0) 51 16 && zeroBits (at_ 2) 63 7 && at_ 4 == 0 &&
  (List.range 8).all (fun i => !segReserved (at_ (69 + 2 * i) ++ at_ (68 + 2 * i))) &&
  zeroBits (at_ 84) 63 8 && zeroBits (at_ 85) 63 32 && zeroBits (at_ 86) 63 52 && zeroBits (at_ 87) 0 0 && zeroBits (at_ 105) 63 13 &&
  zeroBits (at_ 107) 63 32 && (w.drop 116).take 12 == List.replicate 12 0 &&
  (List.range 8).all (fun n => recordClean (w.drop (128 + 16 * n)))

/-- The context that 256 doublewords of backing hold for an entry saved as `old`; none when it is malformed (R328). What the
layout does not carry stays as it was saved (DEDUCED, assumption 22). -/
def Ctx.ofWords (old : Ctx) (w : List Word) : Option Ctx :=
  let at_ := fun (n : Nat) => w.getD n 0
  let h := at_ 0
  let state := h.toNat / 2 ^ 61 % 4
  let o := old.th
  let acc := state == 1 || state == 2
  let sfu := h.getLsbD 59
  let lone := (acc && !o.pend.any Pending.inWacc) || (sfu && !o.pend.any Pending.inWsfu)
  let kept := if state = 3 then some o.pend else pendOfWords o.pend acc sfu false false w
  match kept with
  | none => none
  | some pend =>
    let t : Thread := { o with
      st := if state = 3 then .trapped else .run, member := h.getLsbD 58, home := h.toNat % 2048, pc := at_ 1
      bs := (at_ 2).setWidth 3, sys := (at_ 2).getLsbD 4, tm := (at_ 2).getLsbD 5, mig := (at_ 2).getLsbD 6
      tag := ⟨(at_ 3 >>> 32).setWidth 32, (at_ 3).setWidth 32⟩
      x := Vector.ofFn (fun i : Fin 32 => at_ (4 + i.val)), f := Vector.ofFn (fun i : Fin 32 => at_ (36 + i.val))
      g := Vector.ofFn (fun i : Fin 8 => at_ (69 + 2 * i.val) ++ at_ (68 + 2 * i.val))
      fcsr := at_ 84, ovfc := at_ 85, mxsb := at_ 86, live := at_ 87, cbk := Vector.ofFn (fun i : Fin 16 => at_ (88 + i.val))
      epc := at_ 104, cause := at_ 105, tval := at_ 106, xw := if h.getLsbD 60 then some ((at_ 107).setWidth 32) else none, pend := pend }
    let t := { t with streams := Vector.ofFn (fun i : Fin 8 => Stream.ofWords (o.stream i.val) t (w.drop (128 + 16 * i.val))) }
    if contextClean w && !lone && (List.range 8).all t.soundStream then some ⟨t, h.toNat / 2 ^ 52 % 16⟩ else none

/-! ## The thread-context cache (R254, R255) -/

/-- An entry becomes the most recently used. -/
def Core.touch (x : Core) (e : Nat) : Core := { x with resident := x.resident.filter (· != e) ++ [e] }

/-- What became of a write-back or fill. -/
inductive Backing (α : Type) where
  | ok (v : α)
  /-- it failed: cause and tenant address -/
  | fail (s : State) (code : Byte) (ta : Nat)
  /-- it waits at the port (R146, R335) -/
  | wait (s : State)

/-- Pay for lines of the backing of an entry from line i on, as far as the tokens go: how many are paid then. A line that cannot be
read or written is met by the access itself. -/
def State.payBackFrom (s : State) (c : Nat) (write : Bool) (e : Nat) : Nat → Nat → State × Nat
  | 0, i => (s, i)
  | m + 1, i =>
    match s.dwPlace c (tccTa (s.core c).tccBase (tccN (s.core c).tccCtl) e (16 * i)) { r := !write, w := write, sys := true } with
    | .at loc =>
      if decide (2 ^ 56 ≤ loc) then s.payBackFrom c write e m (i + 1)
      else if (s.core c).hasToken (bucketOf loc) then (s.spend c (bucketOf loc)).payBackFrom c write e m (i + 1)
      else (s, i)
    | .fault _ => s.payBackFrom c write e m (i + 1)
    | .absent => (s, i)

/-- The key of a write-back or fill among those that are being paid for. -/
def backKey (write : Bool) (e : Nat) : Nat := 2 * e + (if write then 1 else 0)

/-- A write-back or fill of the 16 lines of an entry is performed once every line is paid for (R335): the state, and whether that is
so. -/
def State.payBack (s : State) (c : Nat) (write : Bool) (e : Nat) : State × Bool :=
  let n := (alook (s.core c).backPaid (backKey write e)).getD 0
  let (s1, i) := s.payBackFrom c write e (16 - n) n
  (s1.modCore c (fun x => { x with backPaid := aset x.backPaid (backKey write e) i }), decide (16 ≤ i))

/-- A write-back or fill is over. -/
def Core.backDone (x : Core) (write : Bool) (e : Nat) : Core := { x with backPaid := adel x.backPaid (backKey write e) }

/-- Write doublewords of an entry to its backing, whose tiles get their stamps (R276). -/
def State.backWrite (s : State) (c : Nat) (N e : Nat) : List Word → Nat → Backing State
  | [], _ => .ok s
  | v :: r, n =>
    let ta := tccTa (s.core c).tccBase N e n
    match s.dwPlace c ta { w := true, sys := true } with
    | .absent => .wait s
    | .fault code => .fail s code ta
    | .at loc => ((s.putEntry loc ⟨v, false⟩).track (s.owner c) {} ta loc true).backWrite c N e r (n + 1)

/-- Read doublewords of an entry from its backing: m of them from the n-th on. -/
def State.backRead (s : State) (c : Nat) (N e : Nat) : Nat → Nat → Backing (List Word)
  | 0, _ => .ok []
  | m + 1, n =>
    let ta := tccTa (s.core c).tccBase N e n
    match s.dwPlace c ta { r := true, sys := true } with
    | .absent => .wait s
    | .fault code => .fail s code ta
    | .at loc =>
      if s.poisoned loc then .fail s cPOISON ta
      else
        match s.backRead c N e m (n + 1) with
        | .ok l => .ok (s.dwordAt loc :: l)
        | x => x

/-- Drop the entry from the chip after its write-back: its context is in its backing. -/
def Core.evict (x : Core) (e : Nat) : Core := { x.backDone true e with resident := x.resident.filter (· != e) }

def State.modLaunch (s : State) (h : BitVec 32) (f : Launch → Launch) : State :=
  match s.launchOf h with
  | none => s
  | some l =>
    let n := handleDie h
    let d := s.die n
    s.putDie n { d with launches := aset d.launches (handleEntry h) (f l) }

/-- An entry of the dispatcher (R254). -/
def Core.dispatcherEntry (x : Core) (e : Nat) : Bool :=
  decide (tccFirst x.tccCtl ≤ e ∧ e < tccFirst x.tccCtl + tccCount x.tccCtl)

def Gang.cores (g : Gang) : List Nat := g.quads.flatMap (fun q => (List.range 4).map (fun i => 4 * q + i))

/-- The saved members of a gang: the dispatcher's entries of its cores that hold its threads, with the core and slot of each. -/
def State.outOf (s : State) (g : Gang) : List (Nat × Nat × Nat) :=
  g.cores.flatMap (fun c => ((s.core c).tcc.filter (fun e =>
    (s.core c).dispatcherEntry e.1 && e.2.th.member && e.2.th.tag == ⟨g.handle, g.block⟩)).map (fun e => (c, e.2.slot, e.1)))

/-- Members swapped out for a launch that fails are restored, and the launch waits as if no candidate existed (R255). -/
def State.dropPreemption (s : State) (c : Nat) : State :=
  let cl := clusterOf c
  let hit := (s.cluster cl).gangs.filter (fun g => (g.saving.map (fun v => v.1.any (fun m => m.1 == c))).getD false)
  hit.foldl (fun s g =>
    match g.saving with
    | none => s
    | some (ms, h) =>
      let outs := s.outOf g
      let s := ms.foldl (fun s m => s.modCore m.1 (fun x =>
        { x with svc := x.svc.filter (fun q => !(q.kind == 1 && q.slot == m.2.1 && q.entry == m.2.2)), backPaid := [] })) s
      let s := outs.foldl (fun s m => s.modCore m.1 (fun x => { x with svc := x.svc ++ [{ kind := 2, slot := m.2.1, entry := m.2.2 }] })) s
      (s.modCluster cl (fun k => { k with gangs := k.gangs.map (fun x =>
        if x.handle = g.handle ∧ x.block = g.block then
          { x with saving := none, restoring := if outs.isEmpty then none else some outs } else x) })).modLaunch h
        (fun l => { l with spared := true })) s

/-- A write-back or fill has failed (R255; DEDUCED, assumption 22). -/
def State.tccFail (s : State) (c : Nat) (code : Byte) (ta : Nat) : State :=
  let v : Word := BitVec.ofNat 64 (2 ^ 63 + code.toNat * 2 ^ 52 + ta % 2 ^ 52)
  ((s.modCore c (fun x => { x with tccErr := v, backPaid := [] })).report
    ⟨c, 15, BitVec.ofNat 64 code.toNat, 0, BitVec.ofNat 64 ta⟩).dropPreemption c

/-- Make room for one more resident entry (R254): the least recently used is written back; one whose write-back fails stays
resident. -/
def State.tccRoom (s : State) (c : Nat) : Backing State :=
  let x := s.core c
  if x.resident.length < 64 then .ok s
  else
    match x.resident with
    | [] => .ok s
    | e :: _ =>
      match alook x.tcc e with
      | none => .ok (s.modCore c (fun x => x.evict e))
      | some ctx =>
        let (s1, paid) := s.payBack c true e
        if !paid then .wait s1
        else
          match s1.backWrite c (tccN x.tccCtl) e (ctx.image (s.coreId ctx.th.home)) 0 with
          | .ok s' => .ok (s'.modCore c (fun x => x.evict e))
          | r => r

/-- Put a context into an entry. -/
def State.tccPut (s : State) (c e : Nat) (ctx : Ctx) : State :=
  s.modCore c (fun x => ({ x.backDone false e with tcc := aset x.tcc e ctx }).touch e)

/-- TM belongs in slot 14 (R328). -/
def Ctx.malformed (x : Ctx) (slot : Nat) : Bool := x.th.tm && slot != 14

/-- A thread may be saved now (R173, R189, R203, R328): what is left of it sleeps, is parked, or can be withdrawn. -/
def Thread.savable (t : Thread) : Bool :=
  t.stop.isNone && t.streamsDry &&
  t.pend.all (fun p => p.waits || p.phase == .withdrawn || (p.phase == .queued && (cls p.ins).sfu))

/-- The thread of a slot as it is saved: its waits are withdrawn and its fetched elements discarded; its slot is Idle. -/
def State.takeOut (s : State) (c k : Nat) : Ctx × State :=
  let s := (s.withdrawWaits c k).withdrawSfu c k
  let t := (List.range 8).foldl (fun t n => t.unfetch n) (s.thr c k)
  (⟨{ t with yieldUntil := none, back := 0, fetchPark := none, passed := none }, k⟩, s.seat c k (idleSlot k))

/-- Load a context into a slot (R328). A gang member being restored waits for its gang (R253). -/
def State.putBack (s : State) (c k : Nat) (x : Ctx) (frozen : Bool) : State :=
  let s := s.putThr c k { x.th with back := s.cycle + 1, frozen := frozen, returned := false, told := false }
  if x.th.st = .run then s.reissue c k else s

end Sys2Proof.Machine
end

