-- ==== Sys2Proof/Machine/Work.lean ====
section
/-!
DEFINITION. Machine/Work.lean: LAUNCH (R230 to R233, R238, R279), and the instructions by which threads start, wait for and
end one another: START, REAP, YIELD, EXIT, BAR, SPAWN (R244 to R250).
-/
namespace Sys2Proof.Machine

/-! ## Launch control words and handles (R230, R231) -/

def lwGang (p : Params) : Nat := fldN p.w2 0 5
def lwPrio (p : Params) : Nat := fldN p.w2 8 3
def lwTrace (p : Params) : Bool := p.w2.getLsbD 12
def lwNopre (p : Params) : Bool := p.w2.getLsbD 13
def lwDieField (p : Params) : Nat := fldN p.w2 14 2
def lwBanks (p : Params) : BitVec 13 := BitVec.ofNat 13 (fldN p.w2 16 13)

/-- Step 1 of R232 beyond the decoding: the entry offset, GANG and the reserved bits. -/
def lwLaunchOk (p : Params) : Bool :=
  fldN p.w0 0 2 == 0 && decide (1 ≤ lwGang p) && decide (lwGang p ≤ 16) && fldN p.w2 29 3 == 0 && fldN p.w2 11 1 == 0 &&
  fldN p.w2 5 3 == 0

def handleOf (die entry gen : Nat) : BitVec 32 := BitVec.ofNat 32 (die * 2 ^ 30 + entry * 2 ^ 22 + gen)

/-- The generation after one: from 2^22 − 1 back to 1. -/
def nextGen (g : Nat) : Nat := if g = 2 ^ 22 - 1 then 1 else g + 1

/-- What a dispatcher knows of the launch that a handle names (R238). -/
inductive Named where
  /-- no launch: its entry has moved to another generation, or the handle never named one -/
  | gone
  | active (vf : Nat)
  | ended (vf : Nat) (status : Word32)
  deriving DecidableEq, Repr

def State.named (s : State) (h : BitVec 32) : Named :=
  let d := s.die (handleDie h)
  match s.launchOf h with
  | some l => .active l.vf
  | none =>
    if alook d.gens (handleEntry h) ≠ some (h.toNat % 2 ^ 22) then .gone
    else
      match alook d.past (handleEntry h) with
      | some (h', st, vf) => if h' = h then .ended vf st else .gone
      | none => .gone

/-- The first free entry of a dispatcher's launch table. -/
def Die.freeEntry (d : Die) : Option Nat := (List.range 256).find? (fun e => (alook d.launches e).isNone)

/-- Is a trace object running, or unusable for a launch of this many blocks (R279)? (DEDUCED, assumption 34) -/
def State.traceRefuses (s : State) (vf obj count : Nat) : Bool :=
  match alook s.traces obj with
  | some t => t.vf != vf || t.running || decide (t.cap < count)
  | none => true

/-- Bind a trace object to a launch: its earlier records are discarded and the parameters kept (R279; DEDUCED,
assumption 34). -/
def State.bind (s : State) (obj : Nat) (b : Bound) : State :=
  match alook s.traces obj with
  | none => s
  | some t => { s with traces := aset s.traces obj { t with running := true, bound := some b, recs := [], run := none } }

/-- Record a launch with a dispatcher: its handle, or none when the table is full (R232). `armed` is the trace object that
its thread had armed; a traced launch that cannot be bound completes at once with ILLCFG (R279). -/
def State.submit (s : State) (die vf : Nat) (segs : Vector (BitVec 128) 8) (p : Params) (arg : Word) (inbox : Inbox)
    (armed : Option Nat) : Option (BitVec 32) × State :=
  let d := s.die die
  match d.freeEntry with
  | none => (none, s)
  | some e =>
    let gen := nextGen ((alook d.gens e).getD 0)
    let h := handleOf die e gen
    let refused := lwTrace p && (match armed with | some o => s.traceRefuses vf o p.w1.toNat | none => true)
    let l : Launch :=
      { handle := h, vf := vf, segs := segs, p := p, arg := arg, inbox := inbox, level := lwPrio p, entered := s.nextId
        since := s.ungated, dead := refused, status := if refused then 0x10 else 0
        trace := if lwTrace p && !refused then armed else none }
    let s := { s.putDie die { d with launches := aset d.launches e l, gens := aset d.gens e gen } with nextId := s.nextId + 1 }
    (some h, if lwTrace p && !refused then s.bind (armed.getD 0) ⟨p, arg, segs, die⟩ else s)

/-! ## LAUNCH (R230 to R233) -/

/-- A raw or paged extent that an instruction reads at its bank or port without moving its thread: the operands that say where
(DEDUCED, assumption 34). -/
def State.readTarget (s : State) (t : Thread) (nd : Need) : Except Trap Operands :=
  match resolve s s.curCore t nd with
  | .error tr => .error tr
  | .ok (ta, .foreign c a) =>
    match coreTarget s (s.owner s.curCore) c scratchSize a nd with
    | some g => .ok { baseOps s t nd ta g with here := true }
    | none => .error (cBADWIN, nd.ea)
  | .ok (ta, g) => .ok (baseOps s t nd ta g)

def vecOf (l : List (BitVec 128)) : Vector (BitVec 128) 8 := Vector.ofFn (fun i : Fin 8 => l.getD i.val 0)

/-- W3 names a launch of another virtual function (step 5 of R232; DEDUCED, assumption 34). -/
def State.foreignHandle (s : State) (h : BitVec 32) (vf : Nat) : Bool :=
  h != 0 && (match s.named h with | .active v | .ended v _ => v != vf | .gone => false)

/-- The dispatcher accepts or refuses a LAUNCH whose table is at hand (DEDUCED, assumption 34). -/
def State.launchAt (s : State) (r : Ref) (o : Operands) (d : Reg) (w : Params) (segs : Vector (BitVec 128) 8) : State :=
  let vf := s.owner o.core
  let armed := if o.stage = 0 then none else some o.stage
  if s.foreignHandle w.w3 vf then s.lateFail r cBADWIN (w.w3.setWidth 64)
  else
    match s.submit (dieOf o.core) vf segs w o.a (.core o.core) armed with
    | (some h, s') => s'.finish r { x := [(d, h.setWidth 64)], bs := some bsOK }
    | (none, s') =>
      (s'.modThr r.core r.slot (fun t => { t with armed := if t.armed.isNone then armed else t.armed })).finish r
        { x := [(d, 0)], bs := some bsFULL }

/-- Descriptors from the doublewords of a segment table. -/
def descriptors : List Entry → List (BitVec 128)
  | a :: b :: r => (b.d ++ a.d) :: descriptors r
  | _ => []

/-- Step 4 of R232 on a table that has been read: the fault, or the descriptors. -/
def tableFault (i : Instr) (ea : Word) (sys : Bool) (es : List Entry) : Option Trap :=
  match es.zipIdx.find? (fun p => p.1.poison) with
  | some (_, n) => some (cPOISON, ea + BitVec.ofNat 64 (8 * n))
  | none =>
    let ds := descriptors es
    if ds.any segReserved then some (cILLOP, wordVal i)
    else if ds.any segP && !sys then some (cPRIV, wordVal i)
    else none

/-- LAUNCH's table has been read. -/
def State.launchRead (s : State) (r : Ref) (p : Pending) (d : Reg) (w : Params) (es : List Entry) : State :=
  match tableFault p.ins p.ops.ea p.ops.sys es with
  | some (c, tv) => s.lateFail r c tv
  | none => s.launchAt r p.ops d w (vecOf (descriptors es))

/-- LAUNCH (R232). The armed trace object goes with a traced launch (DEDUCED, assumption 34). -/
def launch (i : Instr) (d a b : Reg) (w : Params) (t : Thread) (s : State) : Act :=
  if !(lwLaunchOk w) || lwDieField w != 0 then .illop i
  else if !s.control then .priv i
  else
    let armed := if lwTrace w then t.armed else none
    let ops : Operands := { core := s.curCore, sys := t.sys, a := t.rx a, stage := armed.getD 0, ea := t.rx b, n := 128 }
    let s1 := if lwTrace w then s.putMe { t with armed := none } else s
    if t.rx b = 0 then
      let id := s1.nextId
      .ok ((s1.fly i ops false false .queued).launchAt ⟨s.curCore, s.curSlot, id⟩ ops d w t.g)
    else
      match s.readTarget t (needRecord (t.rx b) 128 16) with
      | .error tr => .trap ⟨tr, none⟩
      | .ok o => .ok (s1.fly i { ops with ta := o.ta, tgt := o.tgt, here := o.here } true false .flight)

/-- R232. -/
def execLaunch (d a b : Reg) (l : BitVec 4) (p : Params) (s : State) : Out :=
  issue (.launch d a b l p) s (fun t s => launch (.launch d a b l p) d a b p t s)

/-! ## START, REAP, YIELD (R245 to R247) -/

/-- A slot number from 1 to 10, or ILLCFG. -/
def helperSlot (v : Word) : Option Nat := if 1 ≤ v.toNat ∧ v.toNat ≤ 10 then some v.toNat else none

/-- The state in which a helper starts (R236). -/
def helperThread (t : Thread) (pc : Word) (core k now : Nat) : Thread :=
  freshThread pc (t.args.toList ++ [BitVec.ofNat 64 k]) t.g t.rmOnly t.tag t.member core k now

/-- Members of a gang that is being taken out, is out, or is being restored: core, slot and entry of each. -/
def Gang.saved (g : Gang) : List (Nat × Nat × Nat) :=
  (g.saving.map (·.1)).getD [] ++ (g.out.map (·.1)).getD [] ++ g.restoring.getD []

/-- While an entry of the dispatcher holds the thread of a gang member, the slot that it was saved from is Swapped out (R93): it is to
be Idle again for the member's return (R253; DEDUCED, assumption 22). -/
def State.keptSlot (s : State) (c k : Nat) (g : Tag) : Bool :=
  (s.core c).tcc.any (fun e => (s.core c).dispatcherEntry e.1 && e.2.slot == k && e.2.th.member && e.2.th.tag == g)

/-- START (R245; DEDUCED, assumption 42). -/
def start (a b : Reg) (t : Thread) (s : State) : Act :=
  match helperSlot (t.rx a) with
  | none => .fail cILLCFG (t.rx a)
  | some k =>
    if (s.core s.curCore).free k && !s.keptSlot s.curCore k t.tag then
      .ok ((s.seat s.curCore k (helperThread t (t.rx b) s.curCore k s.cycle)).modThr s.curCore s.curSlot
        (fun u => { u with bs := bsOK }))
    else .ok (s.putMe { t with bs := bsFULL })

/-- R245. -/
def execStart (a b : Reg) (s : State) : Out :=
  issue (.start a b) s (fun t s => start a b t s)

/-- REAP (R246). The privilege is checked before the value (R244). -/
def reap (i : Instr) (a : Reg) (t : Thread) (s : State) : Act :=
  if !s.control then .priv i
  else
    match helperSlot (t.rx a) with
    | none => .fail cILLCFG (t.rx a)
    | some k =>
      if (s.core s.curCore).free k && !s.keptSlot s.curCore k t.tag then .ok s
      else .ok (s.fly i { core := s.curCore, n := k } false false .asleep)

/-- R246. -/
def execReap (a : Reg) (s : State) : Out := issue (.reap a) s (fun t s => reap (.reap a) a t s)

/-- The next cycle after now whose wheel position is a slot's own (R95). -/
def nextPosition (now slot : Nat) : Nat := now + 1 + (slot + 16 - (now + 1) % 16) % 16

/-- R247. -/
def execYield (s : State) : Out :=
  issue .yield s (fun t s => .ok (s.putMe { t with yieldUntil := some (nextPosition s.cycle s.curSlot + 1) }))

/-- R247. A yielded thread re-enters rotation. -/
def execYieldWake (core slot : Nat) (s : State) : Out :=
  .next (match (s.thr core slot).yieldUntil with
    | some c => if c ≤ s.cycle then s.modThr core slot (fun t => { t with yieldUntil := none }) else s
    | none => s)

/-! ## EXIT (R248) -/

/-- A timed message or anti-message of a colour leaves a port, or its target has answered for it (R298). -/
def State.countSent (s : State) (c : Nat) (colour : Bool) (n : Int) : State :=
  s.modCore c (fun x => if colour then { x with count1 := x.count1 + n } else { x with count0 := x.count0 + n })

/-- A timed message or anti-message is resolved: the port that sent it counts it down (R298), unless the core has passed to another
tenant, whose port counts only its own. -/
def State.uncount (s : State) (m : Timed) : State :=
  if s.owner m.src = m.vf then s.countSent m.src m.colour (-1) else s

/-- Virtual time ends on a core (R289, R305): banks 13 and 14 are PLAIN again and empty, and the anti-messages that wait for a
rollback there are discarded. -/
def State.vtOff (s : State) (c : Nat) : State :=
  let antis := ((s.core c).vt.map (·.antis)).getD []
  antis.foldl (fun (s : State) m => s.uncount m)
    (((s.clear (bankLoc c 13 0) bankSize).clear (bankLoc c 14 0) bankSize).modCore c (fun x => { x with vt := none }))

/-- Slot 0 of a gang core may give up its part (R241), and no member ends while its gang is being restored (R253). -/
def State.exitMay (s : State) (c k : Nat) : Bool :=
  let t := s.thr c k
  !t.frozen && (!(k == 0 && (s.gangOf c).isSome) || !((s.core c).othersOf 0 t.tag || s.postsOf c t.tag))

/-- The end of an EXIT that has waited for all it waits for (R248). -/
def State.exitEnd (s : State) (c k : Nat) : State :=
  let t := s.thr c k
  let s1 := if t.tm then s.vtOff c else s
  let s2 := if t.member && k == 0 then
      s1.modCluster (clusterOf c) (fun x => { x with gangs := x.gangs.map (fun g =>
        if g.handle = t.tag.handle ∧ g.block = t.tag.block then { g with gone := g.gone ++ [c] } else g) })
    else s1
  s2.endThread c k

/-- EXIT (R248), once every earlier instruction has completed: the lease ends and the streams are released. Then slot 0 of a gang
core goes home first, and executes EXIT there; it waits as R241 says. The timed thread sleeps until the conditions of TMODE.off
hold (R289). -/
def exit_ (s : State) : Act :=
  let c := s.curCore
  let k := s.curSlot
  let s1 := if s.holdsLease c k then s.endLease (clusterOf c) else s
  let s2 := s1.putMe s1.me.releaseAll
  let t := s2.me
  if t.member && t.homeSlot == 0 && t.mig then .gone (s2.flyAway (.migrate 0) { core := c, tgt := .foreign t.home 0 } false false t.home)
  else if t.tm && !((s.core c).vt.map VTime.idle).getD true then .ok (s2.fly .exit { core := c, tm := true } false false .asleep)
  else if s2.exitMay c k then .gone (s2.exitEnd c k)
  else .ok (s2.fly .exit { core := c } false false .queued)

/-- R248. -/
def execExit (s : State) : Out := issue .exit s (fun _ s => exit_ s)

/-! ## BAR (R249) -/

/-- Change the gang of a block. -/
def State.modGang (s : State) (cl : Nat) (tag : Tag) (f : Gang → Gang) : State :=
  s.modCluster cl (fun k => { k with gangs := k.gangs.map (fun g => if g.handle = tag.handle ∧ g.block = tag.block then f g else g) })

def State.gang (s : State) (cl : Nat) (tag : Tag) : Option Gang :=
  (s.cluster cl).gangs.find? (fun g => g.handle == tag.handle && g.block == tag.block)

/-- BAR (R249): arrive, and go on when the count is reached. Membership and the range of the count have been checked. -/
def bar (i : Instr) (a : Reg) (b : BitVec 3) (t : Thread) (s : State) : Act :=
  let cl := clusterOf t.home
  let n := (t.rx a).toNat
  match s.gang cl t.tag with
  | none => .fail cILLCFG (wordVal i)
  | some g =>
    let old := alook g.bars b.toNat
    if (old.map (fun o => o.count != n)).getD false then .fail cILLCFG (t.rx a)
    else
      let here := (old.map (·.arrived)).getD []
      if here.length + 1 = n then
        let s1 := here.foldl (fun s r => s.modPendAny r (fun p => { p with phase := .done {} })) s
        .ok (s1.modGang cl t.tag (fun g => { g with bars := adel g.bars b.toNat }))
      else
        let r : Ref := ⟨s.curCore, s.curSlot, s.nextId⟩
        .ok ((s.fly i { core := s.curCore } false false .asleep).modGang cl t.tag
          (fun g => { g with bars := aset g.bars b.toNat ⟨n, here ++ [r]⟩ }))

/-- R249. -/
def execBar (a : Reg) (n : BitVec 3) (s : State) : Out :=
  issue (.bar a n) s (fun t s => bar (.bar a n) a n t s)

/-! ## SPAWN (R250) -/

/-- SPAWN at issue: its record's address, then a target of this package that is no core of the tenant. -/
def spawn (i : Instr) (r a : Reg) (t : Thread) (s : State) : Act :=
  let nd := needRecord (t.rx a) 32 32
  match resolve s s.curCore t nd with
  | .error tr => .trap ⟨tr, none⟩
  | .ok _ =>
    if s.badTarget (t.rx r) then .fail cBADWIN (t.rx r)
    else access i nd (fun o => { o with a := t.rx r, c := t.rmOnly, segs := t.g.toList }) t s

/-- R250. -/
def execSpawn (r a : Reg) (l : BitVec 4) (s : State) : Out :=
  issue (.spawn r a l) s (fun t s => spawn (.spawn r a l) r a t s)

/-- The state in which a child starts (R236). -/
def childThread (p : Pending) (tag : Tag) (me core k now : Nat) : Thread :=
  let w := fun (n : Nat) => (p.ops.got.getD n ⟨0, false⟩).d
  freshThread (w 0) [w 1, w 2, w 3, BitVec.ofNat 64 me, 0, 0] (vecOf p.ops.segs) p.ops.c tag false core k now

/-- SPAWN's record, read without poison, reaches its target (R250; DESIGN CHOICE, assumption 17). -/
def State.spawnArrive (s : State) (r : Ref) (p : Pending) : State :=
  match p.ops.got.zipIdx.find? (fun e => e.1.poison), targetCore p.ops.a with
  | some (_, n), _ => s.lateFail r cPOISON (p.ops.ea + BitVec.ofNat 64 (8 * n))
  | none, none => s.lateFail r cBADWIN p.ops.a
  | none, some (pkg, c) =>
    if pkg = s.pkg.toNat then
      if !s.isCoreOf c (s.owner r.core) || s.coreOut c then s.lateFail r cBADWIN p.ops.a
      else
        match (s.core c).freeGuest with
        | some k =>
          (s.seat c k (childThread p (s.thr r.core r.slot).tag (s.coreId r.core) c k s.cycle)).finish r (Result.status bsOK)
        | none => s.finish r (Result.status bsFULL)
    else if !s.reaches (s.owner r.core) pkg then s.lateFail r cBADWIN p.ops.a
    else
      let (k, s) := s.foreignAnswer
      if k = 0 then ({ s with sent := s.sent ++ [(p.ops.a, Msg.ofEntries p.ops.got)] }).finish r (Result.status bsOK)
      else if k = 1 then s.finish r (Result.status bsFULL)
      else s.lateFail r cBADWIN p.ops.a

end Sys2Proof.Machine
end

