-- ==== Sys2Proof/Machine/Engine.lean ====
section
/-!
DEFINITION. Machine/Engine.lean: the copy-and-gather engines (R257 to R267), table directory, shard counters, row cache and
row migration (R268 to R275).
-/
namespace Sys2Proof.Machine

/-! ## Checks at issue (R262) -/

/-- The tenant address an ea names through segment registers (R115). -/
def segTa (segs : List (BitVec 128)) (ea : Word) : Nat := segBase (segs.getD (ea.toNat / 2 ^ 61) 0) + eaOffset ea

/-- The last byte of a row that begins in paged space and ends beyond it lies where R117 lets it. -/
def State.endsWell (s : State) (ta n : Nat) : Bool :=
  taOnChip ta || !taOnChip (ta + n - 1) || (targetOf s s.curCore (ta + n - 1) { ea := 0, n := 1, align := 1, sort := .record }).isSome

/-- Step 3 of R262 for one extent, its first and its last byte: no structured view, format window, remote or system kind. -/
def State.engineTa (s : State) (t : Thread) (ea : Word) (n align : Nat) (w : Bool) : Except Trap Nat :=
  match s.extentTa t { ea := ea, n := n, align := align, sort := .record, r := !w, w := w, needT := w, win := true, ends := true } true with
  | .ok ta => if s.endsWell ta n then .ok ta else .error (cBADWIN, ea)
  | e => e

/-- An ea that must name the striped window. -/
def State.stripedTa (s : State) (t : Thread) (ea : Word) (n : Nat) (w : Bool) : Except Trap Nat :=
  match s.engineTa t ea n 8 w with
  | .error e => .error e
  | .ok ta => if taOnChip ta && taKind ta == 2 then .ok ta else .error (cBADWIN, ea)

/-- A 32-bit stride times a row number, added to an ea. -/
def rowEa (ea : Word) (stride : Word32) (q : Nat) : Word := ea + stride.signExtend 64 * BitVec.ofNat 64 q

/-- The first failing row of an extent. -/
def rowsFail (n : Nat) (f : Nat → Except Trap Nat) : Option Fail := (List.range n).findSome? (fun q => extentFail (f q))

/-- A table of the directory (R268). -/
def State.tableOf (s : State) (vf n : Nat) : Option Table :=
  (s.tables.find? (fun t => t.1 == vf && t.2.1 == n)).map (fun t => t.2.2)

def State.putTable (s : State) (vf n : Nat) (t : Table) : State :=
  { s with tables := (s.tables.filter (fun x => !(x.1 == vf && x.2.1 == n))) ++ [(vf, n, t)] }

def State.dropTable (s : State) (vf n : Nat) : State :=
  { s with tables := s.tables.filter (fun x => !(x.1 == vf && x.2.1 == n)) }

def State.modTable (s : State) (vf n : Nat) (f : Table → Table) : State :=
  { s with tables := s.tables.map (fun x => if x.1 = vf ∧ x.2.1 = n then (x.1, x.2.1, f x.2.2) else x) }

/-- ILLCFG with the instruction word (R314). -/
def illcfgIf (i : Instr) (p : Bool) : Option Fail := if p then some ⟨(cILLCFG, wordVal i), none⟩ else none

/-- Put a post in flight, to be accepted by its engine (R257). -/
def State.flyPost (s : State) (i : Instr) (ops : Operands) (t : Thread) : State :=
  s.fly i { ops with core := s.curCore, sys := t.sys, segs := t.g.toList } false false .queued

/-- A long-latency instruction whose effect is whole at issue. -/
def State.flyDone (s : State) (i : Instr) (r : Result) : State := s.fly i { core := s.curCore } false false (.done r)

/-- The operands of COPY (R263). -/
def copyOk (w : Params) : Bool :=
  w.w0.toNat % 8 == 0 && decide (8 ≤ w.w0.toNat ∧ w.w0.toNat ≤ 2 ^ 31) && fldN w.w1 0 16 != 0 && fldN w.w1 27 5 == 0 &&
  w.w2.toNat % 8 == 0 && w.w3.toNat % 8 == 0

def copyRows (w : Params) : Nat := fldN w.w1 0 16

/-- Source and destination rows overlap as tenant addresses. -/
def copyOverlaps (segs : List (BitVec 128)) (a b : Word) (w : Params) : Bool :=
  let n := w.w0.toNat
  (List.range (copyRows w)).any (fun q =>
    let x := segTa segs (rowEa a w.w2 q)
    (List.range (copyRows w)).any (fun r =>
      let y := segTa segs (rowEa b w.w3 r)
      decide (x < y + n ∧ y < x + n)))

/-- COPY (R263). -/
def copy (i : Instr) (a b : Reg) (w : Params) (t : Thread) (s : State) : Act :=
  let n := w.w0.toNat
  let dst := fun (q : Nat) =>
    if w.w1.getLsbD 16 then s.stripedTa t (rowEa (t.rx b) w.w3 q) n true else s.engineTa t (rowEa (t.rx b) w.w3 q) n 8 true
  match firstFail [illopIf i (!copyOk w), illcfgIf i (copyOverlaps t.g.toList (t.rx a) (t.rx b) w),
      rowsFail (copyRows w) (fun q => s.engineTa t (rowEa (t.rx a) w.w2 q) n 8 false), rowsFail (copyRows w) dst] with
  | some f => .trap f
  | none => .ok (s.flyPost i { ea := t.rx a, b := t.rx b } t)

/-- R263. -/
def execCopy (a b : Reg) (l : BitVec 4) (p : Params) (s : State) : Out :=
  issue (.copy a b l p) s (fun t s => copy (.copy a b l p) a b p t s)

/-- Bytes of an index tile of n entries (R264). -/
def tileBytes (w : Params) : Nat := 8 + w.w1.toNat * (if w.w2.getLsbD 0 then 2 else 1)

/-- The limits of GATH and SCAT but for those of the row stride, which need the table (R265). -/
def gathOk (w : Params) (scat : Bool) : Bool :=
  decide (w.w0.toNat < 64) && decide (1 ≤ w.w1.toNat ∧ w.w1.toNat ≤ 4096) && fldN w.w2 14 18 == 0 &&
  (if scat then fldN w.w2 3 11 == 0 else fldN w.w2 1 2 == 0) && w.w3.toNat % 8 == 0

/-- Row stride in the window. -/
def windowStride (w : Params) (rowBytes : Nat) : Nat := if w.w3 = 0 then rowBytes else w.w3.toNat

/-- GATH and SCAT (R265). -/
def gath (i : Instr) (a b : Reg) (w : Params) (scat : Bool) (t : Thread) (s : State) : Act :=
  let tb := s.tableOf (s.owner s.curCore) w.w0.toNat
  let rb := (tb.map (·.rowBytes)).getD 8
  match firstFail [illopIf i (!gathOk w scat || (tb.isSome && w.w3 != 0 && decide (w.w3.toNat < rb))), illcfgIf i tb.isNone,
      extentFail (s.engineTa t (t.rx a) (tileBytes w) 8 false),
      rowsFail w.w1.toNat (fun n => s.stripedTa t (t.rx b + BitVec.ofNat 64 (n * windowStride w rb)) rb (!scat))] with
  | some f => .trap f
  | none => .ok (s.flyPost i { ea := t.rx a, ta := segTa t.g.toList (t.rx a), b := t.rx b } t)

/-- R266. -/
def execGath (a b : Reg) (l : BitVec 4) (p : Params) (s : State) : Out :=
  issue (.gath a b l p) s (fun t s => gath (.gath a b l p) a b p false t s)

/-- R267. -/
def execScat (a b : Reg) (l : BitVec 4) (p : Params) (s : State) : Out :=
  issue (.scat a b l p) s (fun t s => gath (.scat a b l p) a b p true t s)

/-- RMIG (R274): a new place of 0, or a paged place of the row's bytes; one on chip is BADWIN (DEDUCED, assumption 35). -/
def rmig (i : Instr) (a b : Reg) (w : Params) (t : Thread) (s : State) : Act :=
  let tb := s.tableOf (s.owner s.curCore) w.w0.toNat
  let rb := (tb.map (·.rowBytes)).getD 8
  let place := if t.rx a = 0 then .ok 0 else s.engineTa t (t.rx a) rb 8 true
  match firstFail [illopIf i (decide (64 ≤ w.w0.toNat)), illcfgIf i tb.isNone, extentFail place,
      if t.rx a ≠ 0 ∧ taOnChip (extentVal place) then some ⟨(cBADWIN, t.rx a), none⟩ else none] with
  | some f => .trap f
  | none => .ok (s.flyPost i { ea := t.rx a, ta := extentVal place, b := t.rx b } t)

/-- R274. -/
def execRmig (d a b : Reg) (l : BitVec 4) (p : Params) (s : State) : Out :=
  issue (.rmig d a b l p) s (fun t s => rmig (.rmig d a b l p) a b p t s)

/-! ## Multicast groups (R261) -/

def mcgValid (e : Word) (vf : Nat) : Bool := e.getLsbD 63 && e.toNat / 2 ^ 41 % 2 ^ 9 == vf && e.toNat % 2 ^ 32 != 0

/-- The multicast group a post names, if it asks for one. -/
def mcGroup (i : Instr) : Option Nat :=
  match i with
  | .copy _ _ _ w => if w.w1.getLsbD 16 then some (fldN w.w1 17 10) else none
  | .gath _ _ _ w => if w.w2.getLsbD 3 then some (fldN w.w2 4 10) else none
  | _ => none

/-- The reserved bits of an entry must be 0, or the entry is not loaded. -/
def mcgOk (e : Word) : Bool := zeroBits e 62 50 && zeroBits e 40 32

/-- R261. -/
def execMcgroupLoad (group : Nat) (entry : Word) (s : State) : Out :=
  .next (if group < 1024 ∧ mcgOk entry then { s with mcgroups := aset s.mcgroups group entry } else s)

/-! ## Acceptance and start (R257, R272, R274) -/

/-- Is this one of the posts of a cluster engine? -/
def isPost (i : Instr) : Bool :=
  match i with
  | .copy _ _ _ _ | .gath _ _ _ _ | .scat _ _ _ _ | .rmig _ _ _ _ _ => true
  | _ => false

/-- The table a post works on. -/
def tableNum (i : Instr) : Option Nat :=
  match i with
  | .gath _ _ _ w | .scat _ _ _ w => some w.w0.toNat
  | .rmig _ _ _ _ w => some w.w0.toNat
  | _ => none

/-- Accepted posts of a virtual function on one of its tables, in every cluster. -/
def State.postsOn (s : State) (vf num : Nat) : List Post :=
  (s.clusters.map (fun c => c.2.engineQ ++ c.2.engineRun)).flatten.filter (fun p => p.vf == vf && tableNum p.ins == some num)

/-- A row's home place (R269). -/
def homePlace (base shStride rowBytes shards r : Nat) : Nat := base + r % shards * shStride + r / shards * rowBytes

/-- A row's current place (R274). -/
def Table.place (t : Table) (r : Nat) : Nat := (alook t.fwd r).getD (homePlace t.base t.shStride t.rowBytes t.shards r)

def Table.latch (t : Table) (num : Nat) : Latched := ⟨num, t.base, t.shStride, t.rowBytes, t.rows, t.shards, none⟩

/-- Put an accepted post into the engine's queue (DEDUCED, assumption 13). What its thread stored in host memory before comes first,
for the engine sees it (R168, R172). -/
def State.accept (s : State) (r : Ref) (p : Pending) (f : Post → Post) : State :=
  (s.landAll (s.thr r.core r.slot)).modCluster (clusterOf r.core) (fun k => { k with engineQ := k.engineQ ++ [f
    { id := r.id, ins := p.ins, ops := p.ops, core := r.core, slot := r.slot, vf := s.owner r.core
      tag := (s.thr r.core r.slot).tag }] })

/-- Forwarding entries that running RMIGs will take: of rows that have none and do not go home. -/
def Table.claims (t : Table) : Nat :=
  (t.moving.filter (fun m => (alook t.fwd m.1).isNone && m.2.2 != homePlace t.base t.shStride t.rowBytes t.shards m.1)).length

/-- RMIG at acceptance (R274). A table deleted since issue has no rows; a row that a table has not has no place, so that x[rd] is free
(DESIGN CHOICE, assumption 35). -/
def State.rmigAccept (s : State) (r : Ref) (p : Pending) (d : Reg) (num : Nat) : State :=
  let vf := s.owner r.core
  let absent := fun (_ : Unit) => let (v, s1) := s.freeWord; s1.finish r { x := [(d, v)], bs := some bsABSENT }
  match s.tableOf vf num with
  | none => absent ()
  | some t =>
    let row := p.ops.b.toNat
    let say := fun (s : State) (b : BitVec 3) => s.finish r { x := [(d, BitVec.ofNat 64 (t.place row))], bs := some b }
    if t.rows ≤ row then absent ()
    else if t.moving.any (fun m => m.1 == row) then say s bsBUSY
    else if p.ops.ea ≠ 0 ∧ 256 ≤ t.fwd.length + t.claims then say s bsFULL
    else
      let new := if p.ops.ea = 0 then homePlace t.base t.shStride t.rowBytes t.shards row else p.ops.ta
      say ((s.modTable vf num (fun t => { t with moving := t.moving ++ [(row, r.id, new)] })).accept r p
        (fun q => { q with table := some (t.latch num) })) bsOK

/-- Accept a GATH, SCAT or COPY. One whose table has been deleted since issue finds no row: STATUS BADWIN with position 0
(DESIGN CHOICE, assumption 35). -/
def State.acceptMove (s : State) (r : Ref) (p : Pending) (clusters : Option Word32) : State :=
  let tb := (tableNum p.ins).bind (fun n => (s.tableOf (s.owner r.core) n).map (fun t => t.latch n))
  let gone := (tableNum p.ins).isSome && tb.isNone
  (s.accept r p (fun q =>
    { q with table := tb, clusters := clusters, stopped := gone
             status := if gone then some (cBADWIN.toNat, 0) else none })).finish r {}

/-- The engine accepts a post, unless its queue is full or it is being reset (R257, R350). -/
def State.postAccept (s : State) (r : Ref) (p : Pending) : State :=
  let k := s.cluster (clusterOf r.core)
  let vf := s.owner r.core
  if 64 ≤ k.engineQ.length ∨ k.engineReset then s
  else
    match mcGroup p.ins with
    | some g =>
      let e := (alook s.mcgroups g).getD 0
      if !mcgValid e vf then s.lateFail r cMCGRP (BitVec.ofNat 64 g)
      else s.acceptMove r p (some (e.setWidth 32))
    | none =>
      match p.ins with
      | .rmig d _ _ _ w => s.rmigAccept r p d w.w0.toNat
      | _ => s.acceptMove r p none

/-- An RMIG that runs holds the SCAT updates of its row (R274 step 1; DEDUCED, assumption 35). -/
def State.holdRow (s : State) (p : Post) : State :=
  match p.ins, p.table with
  | .rmig _ _ _ _ _, some l => s.modTable p.vf l.num (fun t => { t with held := t.held ++ [p.ops.b.toNat] })
  | _, _ => s

/-- The engine starts an accepted post (R257; DEDUCED, assumption 13). -/
def State.postStart (s : State) (cl : Nat) : State :=
  let k := s.cluster cl
  if 8 ≤ k.engineRun.length ∨ k.engineReset then s
  else
    match turnOf (k.engineQ.map (·.vf)) k.engVf k.engLeft (fun v => s.weightOf cl v 8) with
    | none => s
    | some (v, left) =>
      match k.engineQ.find? (fun p => p.vf == v) with
      | none => s
      | some p => (s.putCluster cl { k with engineQ := k.engineQ.filter (fun q => q.id != p.id)
                                            engineRun := k.engineRun ++ [p], engVf := v, engLeft := left }).holdRow p

/-- R257. In a gated rotation engines pause (R354). -/
def execEnginePostStart (cluster : Nat) (s : State) : Out := .next (if s.gated then s else s.postStart cluster)

/-! ## Row cache and shard counters (R270, R273) -/

/-- Counters of a table: shard and kind. -/
def State.count (s : State) (vf : Nat) (l : Latched) (shard kind : Nat) : State :=
  let n := 3 * shard + kind
  s.modTable vf l.num (fun t => { t with counters := aset t.counters n ((alook t.counters n).getD 0 + 1) })

/-- Sets of a row cache: 64 MiB in lines of 128 bytes, 16 ways (R20, R270). -/
def rowSets : Nat := 32768

/-- A lookup of a 128-byte line in the row cache of its die: whether it hits, and the die after it. A miss replaces the line
of the lowest counter in its set, ties to the lowest way (DESIGN CHOICE, assumption 33). -/
def Die.lookup (d : Die) (line : Nat) : Bool × Die :=
  let set := Config.rowSet line % rowSets
  let d := { d with lookups := d.lookups + 1 }
  match d.lines.find? (fun x => x.1 == set && x.2.2.1 == line) with
  | some _ =>
    (true, { d with lines := d.lines.map (fun x =>
      if x.1 = set ∧ x.2.2.1 = line then (x.1, x.2.1, x.2.2.1, min 255 (x.2.2.2 + 1)) else x) })
  | none =>
    let here := d.lines.filter (fun x => x.1 == set)
    let free := (List.range 16).find? (fun w => !here.any (fun x => x.2.1 == w))
    let way := match free with
      | some w => w
      | none => (here.foldl (fun (b : Nat × Nat) x => if x.2.2.2 < b.1 ∨ (x.2.2.2 = b.1 ∧ x.2.1 < b.2) then (x.2.2.2, x.2.1) else b)
          (256, 16)).2
    (false, { d with lines := (set, way, line, 1) :: d.lines.filter (fun x => !(x.1 == set && x.2.1 == way)) })

/-- A GATH or SCAT touches HBM at a place: at the first doubleword of a row or of a line, the die's row cache is looked up. -/
def State.rowLookup (s : State) (vf : Nat) (l : Latched) (shard ta loc : Nat) (first : Bool) : State :=
  if first || ta % 128 == 0 then
    match paSpace loc with
    | .hbm pkg =>
      if pkg = s.pkg.toNat then
        let n := Config.hbmDie loc % 4
        let (hit, d) := (s.die n).lookup (loc / 128)
        let s1 := s.putDie n d
        if hit then s1 else s1.count vf l shard 2
      else s
    | _ => s
  else s

/-- R270. Every 2^20 lookups all use counters of the die are halved. -/
def execRowCacheAge (die : Nat) (s : State) : Out :=
  let d := s.die die
  .next (if 2 ^ 20 ≤ d.lookups then
      s.putDie die { d with lookups := d.lookups - 2 ^ 20, lines := d.lines.map (fun x => (x.1, x.2.1, x.2.2.1, x.2.2.2 / 2)) }
    else s)

/-! ## Doubleword moves (R259, R263, R266, R267, R274) -/

/-- What one move of a post gives. -/
inductive EMove where
  | ok (s : State)
  /-- it must wait: for the pager, for a token, or for a row that is being moved -/
  | wait
  /-- the line that it reads is paid for, and it must wait before it writes -/
  | paid (s : State)
  /-- the post stops: cause and failing address -/
  | stop (code : Byte) (ea : Word)
  /-- recorded in STATUS, and the post goes on -/
  | note (s : State) (code : Byte) (ea : Word)

/-- Write a destination doubleword of a post: at its place, `lo` being where its row begins, or at the same striped offset of
every cluster of a group, a line for other clusters costing one network token (R335); a core that is not the tenant's or is out of
service is not written (R261, R355; DEDUCED, assumption 36). -/
def State.postWrite (s : State) (p : Post) (lo ta : Nat) (ea : Word) (e : Entry) : EMove :=
  match p.clusters with
  | none =>
    match s.agentPlace p.core lo ta { w := true, sys := p.ops.sys } with
    | .absent => .wait
    | .fault c => .stop c ea
    | .at loc => .ok ((s.putEntry loc e).agentNote p.core p.vf p.tag lo ta loc true)
  | some m =>
    let (k, o) := stripedAt (taOffset ta)
    let cs := ((List.range 32).filter (fun c => m.getLsbD c)).map (fun c => 64 * c + k)
    let mine := cs.filter (fun c => s.isCoreOf c p.vf && !s.coreOut c)
    let ok := mine.filter (fun c => s.plainBank c (o / bankSize))
    let s1 := ok.foldl (fun s c => s.putEntry (scratchLoc c o) e) s
    let pays := lineStart lo ta && cs.any (fun c => clusterOf c != clusterOf p.core)
    let s1 := if pays then s1.spend p.core 1 else s1
    if mine.any (fun c => s.bankShut p.core c (o / bankSize)) || (pays && !(s.core p.core).hasToken 1) then .wait
    else if ok.length ≠ mine.length then .stop cBADWIN ea
    else if mine.length ≠ cs.length then .note s1 cBADWIN ea
    else .ok s1

/-- The line that a move reads is paid for here: at its beginning, unless it has been paid already (R335). -/
def Post.paysRead (p : Post) (k lo ta : Nat) : Bool := lineStart lo ta && !p.paidRead.contains k

/-- A move that has read and must wait before it writes has paid for what it read. -/
def EMove.orPaid (m : EMove) (s : State) (pays : Bool) (core loc : Nat) : EMove :=
  match m with
  | .wait => if pays && decide (loc < 2 ^ 56) then .paid (s.spend core (bucketOf loc)) else .wait
  | m => m

/-- One doubleword of a COPY (R263; DEDUCED, assumption 36). -/
def State.copyMove (s : State) (p : Post) (w : Params) (k : Nat) : EMove :=
  let n := w.w0.toNat / 8
  let src := rowEa p.ops.ea w.w2 (k / n)
  let dst := rowEa p.ops.b w.w3 (k / n)
  let off := 8 * (k % n)
  let from_ := segTa p.ops.segs src
  let to_ := segTa p.ops.segs dst
  let pays := p.paysRead k from_ (from_ + off)
  match s.linePlace p.core pays (from_ + off) { r := true, sys := p.ops.sys } with
  | .absent => .wait
  | .fault c => .stop c (src + BitVec.ofNat 64 off)
  | .at loc =>
    ((s.lineNote p.core p.vf p.tag pays (from_ + off) loc false).postWrite p to_ (to_ + off) (dst + BitVec.ofNat 64 off)
      (s.entryAt loc)).orPaid s pays p.core loc

/-- Where entry i of a post finds its row: the place it has begun with, else the row's current place. -/
def State.entryPlace (s : State) (p : Post) (l : Latched) (i r : Nat) : Nat :=
  match alook p.places i with
  | some a => a
  | none =>
    let home := homePlace l.base l.shStride l.rowBytes l.shards r
    match l.old with
    | some fwd => (alook fwd r).getD home
    | none => match s.tableOf p.vf l.num with | some t => (alook t.fwd r).getD home | none => home

/-- SCAT updates of the row are held (R274 step 1; DEDUCED, assumption 35). -/
def State.rowHeld (s : State) (vf : Nat) (l : Latched) (r : Nat) : Bool :=
  l.old.isNone && (match s.tableOf vf l.num with | some t => t.held.contains r | none => false)

/-- A sum of BF16 patterns, rounded to nearest even (R267); NaN as for FADD. -/
def bf16Sum (a b : Nat) : Nat :=
  match bf16.decode a, bf16.decode b with
  | .nan _ _, _ => a ||| 0x40
  | _, .nan _ _ => b ||| 0x40
  | .inf s, .inf t => if s = t then a else bf16.defaultNaN
  | .inf _, _ => a
  | _, .inf _ => b
  | .num s m e, .num t n g =>
    let lo := min e g
    let v := scaled s m e lo + scaled t n g lo
    if v = 0 then (if m = 0 ∧ n = 0 ∧ s = t then bf16.pack s 0 0 else 0)
    else (bf16.round 0 ⟨decide (v < 0), v.natAbs, lo, false⟩).1

/-- A doubleword put together from lanes. -/
def lanes (w n : Nat) (f : Nat → Nat) : Word := BitVec.ofNat 64 ((List.range n).foldl (fun v i => v + f i % 2 ^ w * 2 ^ (w * i)) 0)

/-- The new table doubleword of a SCAT (R267). -/
def scatNew (op : Nat) (old win : Word) : Word :=
  let lane := fun (v : Word) (w i : Nat) => v.toNat / 2 ^ (w * i) % 2 ^ w
  match op with
  | 0 => win
  | 1 => lanes 32 2 (fun i => (fAdd 0 (BitVec.ofNat 32 (lane old 32 i)) (BitVec.ofNat 32 (lane win 32 i))).v.toNat)
  | 2 => lanes 16 4 (fun i => bf16Sum (lane old 16 i) (lane win 16 i))
  | _ => old + win

/-- Entry i has been deferred (R274); `over` leaves out those that have been applied or have failed. -/
def Post.deferred (p : Post) (i : Nat) (fin : Bool) : Bool := p.holds.any (fun h => h.entry == i && (fin || !h.fin))

/-- Every doubleword of entry i, of n, has been moved. -/
def Post.whole (p : Post) (n i : Nat) : Bool := (List.range n).all (fun d => p.moved.contains (i * n + d))

/-- An earlier entry of the same row has not made this doubleword's update, and has not failed (R267). -/
def Post.earlierDup (p : Post) (rows : List Nat) (i d n : Nat) : Bool :=
  (List.range i).any (fun j => rows.getD j 0 == rows.getD i 0 && !p.moved.contains (j * n + d) &&
    !p.holds.any (fun h => h.entry == j && h.fin))

/-- One doubleword of a GATH or SCAT: entry i, doubleword d (R266, R267; DEDUCED, assumption 35). A row address of 2^51 or above is on-chip
space of the poster's core (DESIGN CHOICE, assumption 35). -/
def State.rowMove (s : State) (p : Post) (l : Latched) (w : Params) (scat : Bool) (rows : List Nat) (k : Nat) : EMove :=
  let n := l.rowBytes / 8
  let i := k / n
  let d := k % n
  let r := rows.getD i 0
  let op := fldN w.w2 1 2
  let wea := p.ops.b + BitVec.ofNat 64 (i * windowStride w l.rowBytes + 8 * d)
  let wta := segTa p.ops.segs wea
  let row := s.entryPlace p l i r
  let ta := row + 8 * d
  if scat && ((alook p.places i).isNone && s.rowHeld p.vf l r || p.earlierDup rows i d n) then .wait
  else if scat then
    match s.dwPlace p.core wta { r := true }, s.agentPlace p.core row ta { r := op != 0, w := true, sys := p.ops.sys } with
    | .absent, _ => .wait
    | _, .absent => .wait
    | .fault c, _ => .stop c wea
    | _, .fault c => .stop c (BitVec.ofNat 64 ta)
    | .at wl, .at loc =>
      let a := s.entryAt loc
      let b := s.entryAt wl
      let s0 := s.rowLookup p.vf l (r % l.shards) ta loc (d == 0)
      let s1 := (if op ≠ 0 then s0.track p.vf p.tag ta loc false else s0).agentNote p.core p.vf p.tag row ta loc true
      if op ≠ 0 ∧ (a.poison ∨ b.poison) then .note (s1.setPoison loc true) cPOISON (if b.poison then wea else BitVec.ofNat 64 ta)
      else .ok (s1.putEntry loc ⟨scatNew op a.d b.d, b.poison⟩)
  else
    match s.agentPlace p.core row ta { r := true, sys := p.ops.sys } with
    | .absent => .wait
    | .fault c => .stop c (BitVec.ofNat 64 ta)
    | .at loc =>
      ((s.rowLookup p.vf l (r % l.shards) ta loc (d == 0)).agentNote p.core p.vf p.tag row ta loc false).postWrite p (wta - 8 * d) wta
        wea (s.entryAt loc)

/-- The new place of the row an RMIG moves. -/
def Table.newPlace (t : Table) (id : Nat) : Nat := ((t.moving.find? (fun m => m.2.1 == id)).map (fun m => m.2.2)).getD 0

/-- A SCAT has begun an update of the row and not finished it; what a stopped one has begun it does not finish, but for what was
deferred. -/
def State.rowInUse (s : State) (vf num r : Nat) (scatOnly : Bool) (place : Nat) : Bool :=
  (s.postsOn vf num).any (fun p =>
    match p.rows, p.table with
    | some rows, some l =>
      (match p.ins with | .scat _ _ _ _ => true | _ => !scatOnly) &&
      p.places.any (fun e => rows.getD e.1 0 == r && e.2 == place && (!p.stopped || p.deferred e.1 false) &&
        !p.whole (l.rowBytes / 8) e.1)
    | _, _ => false)

/-- One doubleword of the row an RMIG moves (R274 step 2). -/
def State.rmigMove (s : State) (p : Post) (l : Latched) (k : Nat) : EMove :=
  match s.tableOf p.vf l.num with
  | none => .stop cBADWIN 0
  | some t =>
    let r := p.ops.b.toNat
    let src0 := t.place r
    let dst0 := t.newPlace p.id
    let src := src0 + 8 * k
    let dst := dst0 + 8 * k
    if s.rowInUse p.vf l.num r true (t.place r) then .wait
    else
      let pays := p.paysRead k src0 src
      match s.linePlace p.core pays src { r := true, sys := p.ops.sys } with
      | .absent => .wait
      | .fault c => .stop c (BitVec.ofNat 64 src)
      | .at x =>
        let s1 := s.lineNote p.core p.vf p.tag pays src x false
        match s1.agentPlace p.core dst0 dst { w := true, sys := p.ops.sys } with
        | .absent => EMove.wait.orPaid s pays p.core x
        | .fault c => .stop c (if p.ops.ea = 0 then BitVec.ofNat 64 dst else p.ops.ea + BitVec.ofNat 64 (8 * k))
        | .at y => .ok ((s1.putEntry y (s.entryAt x)).agentNote p.core p.vf p.tag dst0 dst y true)

/-! ## Running a post -/

def State.modPost (s : State) (cl id : Nat) (f : Post → Post) : State :=
  s.modCluster cl (fun k => { k with engineRun := k.engineRun.map (fun p => if p.id = id then f p else p) })

def State.post (s : State) (cl id : Nat) : Option Post := (s.cluster cl).engineRun.find? (fun p => p.id == id)

/-- Doubleword moves of a post in all. -/
def Post.total (p : Post) : Nat :=
  match p.ins, p.table with
  | .copy _ _ _ w, _ => copyRows w * (w.w0.toNat / 8)
  | .gath _ _ _ w, some l => w.w1.toNat * (l.rowBytes / 8)
  | .scat _ _ _ w, some l => w.w1.toNat * (l.rowBytes / 8)
  | .rmig _ _ _ _ _, some l => l.rowBytes / 8
  | _, _ => 0

/-- Rows that have been moved whole: COUNT (R258). -/
def Post.rowsDone (p : Post) : Nat :=
  let per := match p.ins, p.table with
    | .copy _ _ _ w, _ => w.w0.toNat / 8
    | .gath _ _ _ _, some l => l.rowBytes / 8
    | .scat _ _ _ _, some l => l.rowBytes / 8
    | _, _ => 0
  if per = 0 then 0
  else ((List.range (p.total / per)).filter (fun q => (List.range per).all (fun d => p.moved.contains (q * per + d)))).length

/-- The rows an index tile names, from its doublewords (R264). -/
def tileRows (w : Params) (es : List Entry) : List Nat :=
  let base := (es.getD 0 ⟨0, false⟩).d.toNat % 2 ^ 40
  (List.range w.w1.toNat).map (fun i =>
    let (b, n) := if w.w2.getLsbD 0 then (2 * i, 2) else (i, 1)
    base + ((es.getD (1 + b / 8) ⟨0, false⟩).d.toNat / 2 ^ (8 * (b % 8))) % 2 ^ (8 * n))

/-- Stop a post with a status. -/
def State.stopPost (s : State) (cl id : Nat) (code : Nat) (ea : Word) : State :=
  s.modPost cl id (fun p => { p with status := some (p.status.getD (code, ea)), stopped := true })

/-- Pay for the lines of an index tile (R335): the state, and whether all are paid. -/
def State.payTile (s : State) (cl : Nat) (p : Post) (n : Nat) : State × Bool :=
  if taOnChip p.ops.ta then (s, true)
  else
    let lines := lineCount p.ops.ta n
    let (s1, i) := s.payFrom p.core p.ops.ta { r := true, sys := p.ops.sys } (lines - p.ops.paid) p.ops.paid
    (s1.modPost cl p.id (fun q => { q with ops := { q.ops with paid := i } }), decide (lines ≤ i))

/-- Read and check the index tile (R265): none while it must wait. A poisoned tile is consumed; a header whose reserved bits
are not 0 is ILLCFG (DEDUCED, assumption 35). -/
def State.readTile (s : State) (cl : Nat) (p : Post) (l : Latched) (w : Params) : Option State :=
  let n := (tileBytes w + 7) / 8
  let (s, paid) := s.payTile cl p n
  if !paid then some s
  else
  match s.agentRead p.core p.vf p.tag p.ops.sys p.ops.ta n 0 with
  | .error none => some s
  | .error (some (c, i)) => some (s.stopPost cl p.id c.toNat (p.ops.ea + BitVec.ofNat 64 (8 * i)))
  | .ok (es, s1) =>
    match poisonedAt es with
    | some i => some (s1.stopPost cl p.id cPOISON.toNat (p.ops.ea + BitVec.ofNat 64 (8 * i)))
    | none =>
      let rows := tileRows w es
      if !zeroBits (es.getD 0 ⟨0, false⟩).d 63 40 then some (s1.stopPost cl p.id cILLCFG.toNat p.ops.ea)
      else
        match rows.zipIdx.find? (fun x => decide (l.rows ≤ x.1)) with
        | some (_, i) => some (s1.stopPost cl p.id cBADWIN.toNat (BitVec.ofNat 64 i))
        | none => some (s1.modPost cl p.id (fun q => { q with rows := some rows }))

/-- Updates of a row that SCAT posts have deferred and that are not over: the number of each, its cluster, post and entry. -/
def State.deferredOf (s : State) (vf num r : Nat) : List (Nat × Nat × Nat × Nat) :=
  s.clusters.flatMap (fun k => k.2.engineRun.flatMap (fun q =>
    match q.rows, q.table with
    | some rows, some l =>
      if q.vf = vf ∧ l.num = num ∧ l.old.isNone then
        (q.holds.filter (fun h => !h.fin && rows.getD h.entry 0 == r && !q.whole (l.rowBytes / 8) h.entry)).map
          (fun h => (h.num, k.1, q.id, h.entry))
      else []
    | _, _ => []))

/-- An update that reaches the engine while its row is held is deferred, with the number of its arrival: none while 256 of the row
are, or while an earlier entry of the row has not reached it (R274, R275). -/
def State.defer (s : State) (cl : Nat) (p : Post) (l : Latched) (rows : List Nat) (i : Nat) : Option State :=
  let r := rows.getD i 0
  if p.deferred i true || decide (256 ≤ (s.deferredOf p.vf l.num r).length) ||
      (List.range i).any (fun j => rows.getD j 0 == r && !p.deferred j true && !p.whole (l.rowBytes / 8) j) then none
  else some { s.modPost cl p.id (fun q => { q with holds := q.holds ++ [⟨i, s.nextId, false⟩] }) with nextId := s.nextId + 1 }

/-- Perform move k of a post, after its index tile has been read: none while it must wait. -/
def State.postMove (s : State) (cl : Nat) (p : Post) (k : Nat) : Option State :=
  let apply := fun (m : EMove) =>
    match m with
    | .wait => none
    | .paid s' => some (s'.modPost cl p.id (fun q => { q with paidRead := k :: q.paidRead }))
    | .stop c ea => some (s.stopPost cl p.id c.toNat ea)
    | .ok s' => some (s'.modPost cl p.id (fun q => { q with moved := k :: q.moved }))
    | .note s' c ea => some (s'.modPost cl p.id (fun q => { q with moved := k :: q.moved, status := some (q.status.getD (c.toNat, ea)) }))
  match p.ins, p.table with
  | .copy _ _ _ w, _ => apply (s.copyMove p w k)
  | .rmig _ _ _ _ _, some l => apply (s.rmigMove p l k)
  | .gath _ _ _ w, some l | .scat _ _ _ w, some l =>
    match p.rows with
    | none => s.readTile cl p l w
    | some rows =>
      let scat := match p.ins with | .scat _ _ _ _ => true | _ => false
      let n := l.rowBytes / 8
      let i := k / n
      let place := s.entryPlace p l i (rows.getD i 0)
      if scat && (alook p.places i).isNone && s.rowHeld p.vf l (rows.getD i 0) then s.defer cl p l rows i
      else
      match apply (s.rowMove p l w scat rows k) with
      | none => none
      | some s1 =>
        let s2 := s1.modPost cl p.id (fun q => { q with places := if q.moved.contains k then aset q.places i place else q.places })
        let whole := match s2.post cl p.id with | some q => q.whole n i | none => false
        some (if whole then s2.count p.vf l (rows.getD i 0 % l.shards) (if scat then 1 else 0) else s2)
  | _, _ => some (s.stopPost cl p.id cBADWIN.toNat 0)

/-- One move of a running post, in any order (R259). -/
def State.postOne (s : State) (cl id k : Nat) : State :=
  match s.post cl id with
  | none => s
  | some p => if p.stopped ∨ p.total ≤ k ∨ p.moved.contains k then s else (s.postMove cl p k).getD s

/-- Moves k to k + n − 1 of a post, in order, even of a post that has stopped: the state, and whether all are made, or one has failed;
none while one must wait. -/
def State.forceRow (s : State) (cl id : Nat) (k : Nat) : Nat → State × Option Bool
  | 0 => (s, some true)
  | n + 1 =>
    match s.post cl id with
    | none => (s, some true)
    | some p =>
      if p.moved.contains k then s.forceRow cl id (k + 1) n
      else
        match s.postMove cl p k with
        | none => (s, none)
        | some s' =>
          if ((s'.post cl id).map (fun q => q.moved.contains k)).getD true then s'.forceRow cl id (k + 1) n else (s', some false)

/-- Apply a deferred update: whether it is over. -/
def State.applyOne (s : State) (cl id i : Nat) : State × Bool :=
  let per := ((s.post cl id).bind (fun q => q.table.map (fun l => l.rowBytes / 8))).getD 0
  let (s1, res) := s.forceRow cl id (i * per) per
  match res with
  | none => (s1, false)
  | some _ =>
    (s1.modPost cl id (fun q => { q with holds := q.holds.map (fun h => if h.entry = i then { h with fin := true } else h) }), true)

/-- The moves that remain, from number k on, until one stops the post or must wait. -/
def State.postAll (s : State) (cl id : Nat) : Nat → Nat → State
  | 0, _ => s
  | n + 1, k =>
    match s.post cl id with
    | none => s
    | some p =>
      if p.stopped then s
      else if p.moved.contains k then s.postAll cl id n (k + 1)
      else match s.postMove cl p k with | some s' => s'.postAll cl id n (k + 1) | none => s.postAll cl id n (k + 1)

/-- FUNC of a post (R258). -/
def postFunc (i : Instr) : Nat := fldN i.word 0 4

/-- An update of the row that has been made at a place is to be made again elsewhere. -/
def Post.redo (p : Post) (r place : Nat) : Post :=
  match p.ins, p.rows, p.table with
  | .scat _ _ _ _, some rows, some l =>
    let n := l.rowBytes / 8
    let back := fun (i : Nat) => rows.getD i 0 == r && alook p.places i == some place
    { p with moved := p.moved.filter (fun k => !back (k / n)), places := p.places.filter (fun e => !back e.1)
             holds := p.holds.map (fun h => if back h.entry then { h with fin := false } else h) }
  | _, _, _ => p

/-- An RMIG is over. If it has not forwarded its row, the updates that it held are made at the old place: none is lost (R275). -/
def State.rowFree (s : State) (p : Post) : State :=
  match p.ins, p.table with
  | .rmig _ _ _ _ _, some l =>
    let r := p.ops.b.toNat
    let new := ((s.tableOf p.vf l.num).map (fun t => t.newPlace p.id)).getD 0
    let s1 := s.modTable p.vf l.num (fun t =>
      { t with moving := t.moving.filter (fun m => m.2.1 != p.id), held := if p.forwarded then t.held else t.held.filter (· != r) })
    if p.forwarded then s1
    else
      { s1 with clusters := s1.clusters.map (fun (c : Nat × Cluster) =>
          (c.1, { c.2 with engineRun := c.2.engineRun.map (fun q =>
            if q.vf = p.vf ∧ tableNum q.ins = some l.num ∧ (q.table.map (fun x => x.old.isNone)).getD false then q.redo r new else q) })) }
  | _, _ => s

/-- A post ends: it leaves the engine and its message is posted (R258). -/
def State.postEnd (s : State) (cl : Nat) (p : Post) : State :=
  let (code, ea) := p.status.getD (0, 0)
  let s := s.rowFree p
  (s.modCluster cl (fun k => { k with engineRun := k.engineRun.filter (fun q => q.id != p.id) })).hwPost p.core
    (.ofWords (BitVec.ofNat 64 (code * 2 ^ 32 + postFunc p.ins * 256 + 0x30)) ea (BitVec.ofNat 64 p.rowsDone) s.stamp)

/-- The deferred update of a row that is next in arrival order (R274 step 3): the cluster and post of a SCAT and its entry. -/
def State.heldUpdate (s : State) (vf num r : Nat) : Option (Nat × Nat × Nat) :=
  ((s.deferredOf vf num r).foldl (fun best x => match best with
    | none => some x
    | some b => if x.1 < b.1 then some x else best) none).map (·.2)

/-- Updates of a post that an RMIG has applied at its row's new place and not yet released (R274 step 5). -/
def State.heldBack (s : State) (p : Post) : Bool :=
  match p.ins, p.rows, p.table with
  | .scat _ _ _ _, some rows, some l =>
    l.old.isNone && (match s.tableOf p.vf l.num with
      | some t => t.moving.any (fun m => t.held.contains m.1 && p.places.any (fun e => rows.getD e.1 0 == m.1 && e.2 == m.2.2))
      | none => false)
  | _, _, _ => false

/-- Apply the deferred updates of a row at its new place, in arrival order: whether none is left. -/
def State.applyHeld (s : State) (vf num r place : Nat) : Nat → State × Bool
  | 0 => (s, (s.heldUpdate vf num r).isNone)
  | m + 1 =>
    match s.heldUpdate vf num r with
    | none => (s, true)
    | some (cl, id, i) =>
      let (s1, fin) := (s.modPost cl id (fun q => { q with places := aset q.places i place })).applyOne cl id i
      if fin then s1.applyHeld vf num r place m else (s1, false)

/-- Deferred updates of a post that has stopped are not lost (R275): those whose row is held no more are applied, in arrival order;
whether none is left. -/
def State.drain (s : State) (cl id : Nat) : Nat → State × Bool
  | 0 => (s, false)
  | m + 1 =>
    match s.post cl id with
    | none => (s, true)
    | some p =>
      match p.rows, p.table with
      | some rows, some l =>
        let left := p.holds.filter (fun h => !h.fin && !p.whole (l.rowBytes / 8) h.entry)
        match left.find? (fun h => (alook p.places h.entry).isSome || !s.rowHeld p.vf l (rows.getD h.entry 0)) with
        | none => (s, left.isEmpty)
        | some h => let (s1, fin) := s.applyOne cl id h.entry; if fin then s1.drain cl id m else (s1, false)
      | _, _ => (s, true)

/-- Step 4 of R274: the forwarding entry is set, or freed for the home place, and the held updates may go on. -/
def State.forward (s : State) (cl : Nat) (p : Post) (l : Latched) : State :=
  let r := p.ops.b.toNat
  (s.modTable p.vf l.num (fun t =>
    let new := t.newPlace p.id
    { t with fwd := if new = homePlace t.base t.shStride t.rowBytes t.shards r then adel t.fwd r else aset t.fwd r new
             held := t.held.filter (· != r) })).modPost cl p.id (fun q => { q with forwarded := true })

/-- Run a post to its end, as far as it can go (R258, R259, R274). -/
def State.postRun (s : State) (cl id : Nat) : State :=
  match s.post cl id with
  | none => s
  | some p0 =>
    let s0 := match p0.rows, p0.table, p0.ins with
      | none, some l, .gath _ _ _ w => if p0.stopped then s else (s.readTile cl p0 l w).getD s
      | none, some l, .scat _ _ _ w => if p0.stopped then s else (s.readTile cl p0 l w).getD s
      | _, _, _ => s
    let ready := match s0.post cl id with
      | some p => p.rows.isSome || p.stopped || (match p.ins with | .gath _ _ _ _ | .scat _ _ _ _ => false | _ => true)
      | none => false
    if !ready then s0
    else
      let s1 := s0.postAll cl id p0.total 0
      match s1.post cl id with
      | none => s1
      | some p =>
        if p.stopped then
          let (s2, fin) := s1.drain cl id 4097
          match s2.post cl id with
          | none => s2
          | some q => if !fin || s2.heldBack q then s2 else s2.postEnd cl q
        else if !(List.range p.total).all (fun k => p.moved.contains k) then s1
        else
          match p.ins, p.table with
          | .rmig _ _ _ _ _, some l =>
            if p.forwarded then
              (if s1.rowInUse p.vf l.num p.ops.b.toNat false p.ops.c.toNat then s1 else s1.postEnd cl p)
            else
              let r := p.ops.b.toNat
              let (old, new) := match s1.tableOf p.vf l.num with | some t => (t.place r, t.newPlace p.id) | none => (0, 0)
              let (s1, applied) := s1.applyHeld p.vf l.num r new 4096
              if !applied then s1
              else
              let s2 := (s1.forward cl p l).modPost cl id (fun q => { q with ops := { q.ops with c := BitVec.ofNat 64 old } })
              if s2.rowInUse p.vf l.num p.ops.b.toNat false old then s2
              else match s2.post cl id with | some q => s2.postEnd cl q | none => s2
          | _, _ => if s1.heldBack p then s1 else s1.postEnd cl p

/-- R258, R354. -/
def execEnginePostComplete (cluster id : Nat) (s : State) : Out := .next (if s.gated then s else s.postRun cluster id)

/-! ## The directory's instructions (R271 to R273) -/

/-- Bits of a table descriptor from its doublewords (R268). -/
def descField (ds : List Word) (lo n : Nat) : Nat :=
  (ds.zipIdx.foldl (fun v p => v + p.1.toNat * 2 ^ (64 * p.2)) 0) / 2 ^ lo % 2 ^ n

def descTable (ds : List Word) : Table :=
  { base := descField ds 0 52, shStride := descField ds 64 52, rowBytes := descField ds 192 16, rows := descField ds 128 40
    shards := descField ds 208 4 + 1, version := BitVec.ofNat 32 (descField ds 256 32) }

/-- The reserved fields and limits of a descriptor (R268, R271). -/
def descOk (ds : List Word) : Bool :=
  let t := descTable ds
  descField ds 320 192 == 0 && descField ds 288 32 == 0 && descField ds 212 44 == 0 && descField ds 168 24 == 0 &&
  descField ds 116 12 == 0 && descField ds 52 12 == 0 && t.rowBytes % 8 == 0 && decide (8 ≤ t.rowBytes ∧ t.rowBytes ≤ 4096) &&
  t.base % 8 == 0 && decide (t.base < 2 ^ 51) && t.shStride % 8 == 0

/-- TBLSET with its descriptor read (R271): nothing has issued since, so its ILLOP is exact (R262; DEDUCED, assumption 35). -/
def State.tblsetAt (s : State) (r : Ref) (p : Pending) (d : Reg) (num : Nat) (es : List Entry) : State :=
  let vf := s.owner p.ops.core
  let ds := es.map (·.d)
  match poisonedAt es with
  | some i => s.lateFail r cPOISON (p.ops.ea + BitVec.ofNat 64 (8 * i))
  | none =>
    if !descOk ds then s.exactFail r p cILLOP (wordVal p.ins)
    else
      let s := s.modPend r (fun q => { q with cover := (cls q.ins).la })
      let prev := (s.tableOf vf num).map (fun t => BitVec.ofNat 64 t.base)
      if !(s.postsOn vf num).isEmpty then s.finish r { x := [(d, prev.getD 0)], bs := some bsBUSY }
      else
        let t := descTable ds
        (if t.rows = 0 then s.dropTable vf num else s.putTable vf num t).finish r { x := [(d, prev.getD 0)], bs := some bsOK }

/-- TBLSET (R271). It reads its descriptor before anything issues under its cover (R262; DEDUCED, assumption 35). -/
def tblset (i : Instr) (a : Reg) (w : Params) (t : Thread) (s : State) : Act :=
  let src := s.engineTa t (t.rx a) 64 8 false
  match firstFail [illopIf i (decide (64 ≤ w.w0.toNat)), extentFail src] with
  | some f => .trap f
  | none =>
    .ok (s.addPend s.curCore s.curSlot (t.flying i
      { ea := t.rx a, ta := extentVal src, n := 64, core := s.curCore, sys := t.sys, tgt := .paged (extentVal src) } 0 true true .flight))

/-- R271. -/
def execTblset (d a : Reg) (l : BitVec 4) (p : Params) (s : State) : Out :=
  issue (.tblset d a l p) s (fun t s => tblset (.tblset d a l p) a p t s)

/-- TBLSW (R272): the limits of its operand first, as R262 orders them (DEDUCED, assumption 35). -/
def tblsw (i : Instr) (a : Reg) (w : Params) (t : Thread) (s : State) : Act :=
  match firstFail [illopIf i (decide (64 ≤ w.w0.toNat) || !zeroBits (t.rx a) 2 0 || !zeroBits (t.rx a) 63 51),
      illcfgIf i (s.tableOf (s.owner s.curCore) w.w0.toNat).isNone] with
  | some f => .trap f
  | none => .ok (s.fly i { a := t.rx a, core := s.curCore } false false .queued)

/-- R272. -/
def execTblsw (d a : Reg) (l : BitVec 4) (p : Params) (s : State) : Out :=
  issue (.tblsw d a l p) s (fun t s => tblsw (.tblsw d a l p) a p t s)

/-- TBLSW goes on (R272): the switch once no RMIG of the table runs, the end once no post on the old version is left. A table that
has been deleted while TBLSW waited gives nothing to switch (DESIGN CHOICE, assumption 35). -/
def State.tblswAt (s : State) (r : Ref) (p : Pending) (d : Reg) (w : Params) : State :=
  let vf := s.owner p.ops.core
  let num := w.w0.toNat
  match s.tableOf vf num with
  | none => s.finish r { x := [(d, p.ops.b)], bs := some bsOK }
  | some t =>
    if p.ops.stage = 0 then
      if !t.moving.isEmpty then s
      else
        let mark := fun (q : Post) => if q.vf = vf ∧ tableNum q.ins = some num then
            { q with table := q.table.map (fun l => { l with old := some (l.old.getD t.fwd) }) } else q
        let s1 := { s with clusters := s.clusters.map (fun (c : Nat × Cluster) =>
          (c.1, { c.2 with engineQ := c.2.engineQ.map mark, engineRun := c.2.engineRun.map mark })) }
        (s1.modTable vf num (fun t => { t with base := p.ops.a.toNat, version := w.w1, fwd := [] })).modPend r
          (fun p => { p with ops := { p.ops with stage := 1, b := BitVec.ofNat 64 t.base } })
    else if (s.postsOn vf num).any (fun q => (q.table.map (fun l => l.old.isSome)).getD false) then s
    else s.finish r { x := [(d, p.ops.b)], bs := some bsOK }

/-- SHSTAT (R273): done at one instant. -/
def shstat (i : Instr) (d : Reg) (w : Params) (s : State) : Act :=
  let vf := s.owner s.curCore
  let num := w.w0.toNat
  let kind := fldN w.w2 1 2
  match s.tableOf vf num with
  | none => .trap ((illopIf i (decide (64 ≤ num) || kind == 3 || fldN w.w2 3 29 != 0)).getD ⟨(cILLCFG, wordVal i), none⟩)
  | some t =>
    if 64 ≤ num ∨ kind = 3 ∨ fldN w.w2 3 29 ≠ 0 ∨ t.shards ≤ w.w1.toNat then .illop i
    else
      let n := 3 * w.w1.toNat + kind
      let v := (alook t.counters n).getD 0
      let s1 := if w.w2.getLsbD 0 then s.modTable vf num (fun t => { t with counters := adel t.counters n }) else s
      .ok (s1.flyDone i { x := [(d, v)] })

/-- R273. -/
def execShstat (d : Reg) (l : BitVec 4) (p : Params) (s : State) : Out :=
  issue (.shstat d l p) s (fun _ s => shstat (.shstat d l p) d p s)

end Sys2Proof.Machine
end

