-- ==== Sys2Proof/Machine/Trace.lean ====
section
/-!
DEFINITION. Machine/Trace.lean: Contrail (R276 to R284): trace objects and tracked regions, block records, RELAUNCH.
-/
namespace Sys2Proof.Machine

/-! ## Block records (R280, R281) -/

/-- Stamp and writer tag of the physical tile that a tenant tile maps to; none where it maps to no HBM. -/
def State.tileStamp (s : State) (vf tile : Nat) : Option (Nat × Word32) :=
  match s.walk vf (tile * 4096) with
  | .leaf _ pa => (match paSpace pa with | .hbm _ => some (s.stampOf pa) | _ => none)
  | .absent => none

/-- Some tile of a set has a stamp and tag with a property. -/
def State.someTile (s : State) (vf : Nat) (set : List (Nat × Nat)) (f : Nat → Word32 → Bool) : Bool :=
  set.any (fun r => (List.range r.2).any (fun i => match s.tileStamp vf (r.1 + i) with | some (t, g) => f t g | none => false))

/-- A traced block starts: it records anew. -/
def State.traceStart (s : State) (tag : Tag) : State :=
  match s.traceOf tag with
  | none => s
  | some o => s.modRec o (tag.block.toNat % 2 ^ 24) (fun _ => { s := s.cycle, handle := tag.handle })

/-- A traced block completes: E, and what of its sets was disturbed (R280). -/
def State.traceEnd (s : State) (vf : Nat) (tag : Tag) : State :=
  match s.traceOf tag with
  | none => s
  | some o =>
    let mine := s.writerTag tag
    s.modRec o (tag.block.toNat % 2 ^ 24) (fun b =>
      let bad := s.someTile vf b.reads (fun t g => decide (b.s < t) && g != mine) || s.someTile vf b.writes (fun _ g => g != mine)
      { b with valid := true, e := s.cycle, unstable := b.unstable || bad })

/-- A block would be run again now (R281). -/
def State.wouldRerun (s : State) (vf : Nat) (b : BlockRec) : Bool :=
  !b.valid || b.all || b.unstable || s.someTile vf b.reads (fun t _ => decide (b.e < t)) ||
  s.someTile vf b.writes (fun t _ => decide (b.e < t))

/-- Every record of a virtual function that names a tile of a page is marked ALL (R276). -/
def State.pageMoved (s : State) (vf ta size : Nat) : State :=
  { s with traces := s.traces.map (fun (t : Nat × Trace) =>
      (t.1, if t.2.vf = vf then
        { t.2 with recs := t.2.recs.map (fun b =>
            (b.1, if (b.2.reads ++ b.2.writes).any (fun r => decide (r.1 * 4096 < ta + size ∧ ta < (r.1 + r.2) * 4096))
                  then { b.2 with all := true } else b.2)) }
       else t.2)) }

/-- A change of page tables remaps the tiles of which it changes the translation: records that name one are marked ALL (R276). -/
def State.remapped (old s : State) : State :=
  { s with traces := s.traces.map (fun (t : Nat × Trace) =>
      (t.1, { t.2 with recs := t.2.recs.map (fun b =>
        (b.1, if (b.2.reads ++ b.2.writes).any (fun r => (List.range r.2).any (fun i =>
            let pa := fun (w : Walk) => match w with | .leaf _ pa => some pa | .absent => none
            pa (old.walk t.2.vf ((r.1 + i) * 4096)) != pa (s.walk t.2.vf ((r.1 + i) * 4096))))
          then { b.2 with all := true } else b.2)) })) }

/-! ## TRREG (R278) -/

/-- A trace object by number: not in use is ILLCFG, another virtual function's is BADWIN (DEDUCED, assumption 37). -/
def State.objFails (s : State) (i : Instr) (n : Word32) : List (Option Fail) :=
  match alook s.traces n.toNat with
  | none => [illcfgIf i true]
  | some t => [if t.vf ≠ s.owner s.curCore then some ⟨(cBADWIN, n.setWidth 64), none⟩ else none]

def State.objRunning (s : State) (n : Word32) : Bool := match alook s.traces n.toNat with | some t => t.running | none => false

/-- CREATE. -/
def trregCreate (i : Instr) (d b : Reg) (t : Thread) (s : State) : Act :=
  let cap := (t.rx b).toNat
  let vf := s.owner s.curCore
  if cap < 1 ∨ 2 ^ 24 < cap then .illop i
  else
    let used := (s.traces.filter (fun x => x.2.vf == vf)).foldl (fun n x => n + x.2.cap) 0
    match (List.range 255).find? (fun n => (alook s.traces (n + 1)).isNone) with
    | some n =>
      if (s.vf vf).quota < used + cap then .ok (s.flyDone i { x := [(d, 0)], bs := some bsFULL })
      else
        .ok ({ s with traces := aset s.traces (n + 1) { vf := vf, cap := cap } }.flyDone i
          { x := [(d, BitVec.ofNat 64 (n + 1))], bs := some bsOK })
    | none => .ok (s.flyDone i { x := [(d, 0)], bs := some bsFULL })

/-- R278. -/
def execTrregCreate (d a b : Reg) (l : BitVec 4) (p : Params) (s : State) : Out :=
  issue (.trregCreate d a b l p) s (fun t s => trregCreate (.trregCreate d a b l p) d b t s)

/-- REGION; a base on chip is BADWIN (DEDUCED, assumption 35). -/
def trregRegion (i : Instr) (a b : Reg) (w : Params) (t : Thread) (s : State) : Act :=
  let vf := s.owner s.curCore
  let len := (t.rx b).toNat
  let ta := segTa t.g.toList (t.rx a)
  let other := (s.vf vf).regions.any (fun r => r.1 != w.w1.toNat && decide (ta < r.2.1 + r.2.2 ∧ r.2.1 < ta + len))
  let ext := s.engineTa t (t.rx a) len 4096 false
  match firstFail ([illopIf i (decide (16 ≤ w.w1.toNat) || len % 4096 != 0)] ++
      (if len = 0 then []
       else [illcfgIf i other, extentFail ext,
             if taOnChip (extentVal ext) then some ⟨(cBADWIN, t.rx a), none⟩ else none])) with
  | some f => .trap f
  | none =>
    if s.traces.any (fun x => x.2.vf == vf && x.2.running) then .ok (s.flyDone i { bs := some bsBUSY })
    else
      let put := fun (l : Assoc (Nat × Nat)) => if len = 0 then adel l w.w1.toNat else aset l w.w1.toNat (ta, len)
      .ok ((s.modVf vf (fun v => { v with regions := put v.regions })).flyDone i { bs := some bsOK })

/-- R278. -/
def execTrregRegion (d a b : Reg) (l : BitVec 4) (p : Params) (s : State) : Out :=
  issue (.trregRegion d a b l p) s (fun t s => trregRegion (.trregRegion d a b l p) a b p t s)

/-- ARM and FREE: the object's checks, then BUSY while it runs. -/
def trregObj (i : Instr) (w : Params) (s : State) (k : State → State) : Act :=
  match firstFail (s.objFails i w.w1) with
  | some f => .trap f
  | none => if s.objRunning w.w1 then .ok (s.flyDone i { bs := some bsBUSY }) else .ok ((k s).flyDone i { bs := some bsOK })

/-- R278. -/
def execTrregArm (d a b : Reg) (l : BitVec 4) (p : Params) (s : State) : Out :=
  issue (.trregArm d a b l p) s (fun _ s =>
    trregObj (.trregArm d a b l p) p s (fun s => s.putMe { s.me with armed := some p.w1.toNat }))

/-- R278. -/
def execTrregFree (d a b : Reg) (l : BitVec 4) (p : Params) (s : State) : Out :=
  issue (.trregFree d a b l p) s (fun _ s =>
    trregObj (.trregFree d a b l p) p s (fun s => { s with traces := adel s.traces p.w1.toNat }))

/-! ## RELAUNCH (R282, R283) -/

/-- RELAUNCH reads its patch, which it keeps (R282), once its lines are paid and no earlier access of the thread overlaps it.
Until then nothing issues under its cover. -/
def State.relaunchRead (s : State) (r : Ref) : State :=
  match s.pending r with
  | none => s
  | some p =>
    let n := p.ops.n / 8
    if p.ops.stage ≠ 0 ∨ !(s.thr r.core r.slot).mayPerform p then s
    else
      let s := s.landAll (s.thr r.core r.slot)
      let (s1, paid) := if n = 0 then (s, true) else s.payRange r r.core p.ops.ta n { r := true, sys := p.ops.sys }
      if !paid then s1
      else
        match s1.agentRead r.core (s.owner r.core) (s.thr r.core r.slot).tag p.ops.sys p.ops.ta n 0 with
        | .error none => s1
        | .error (some (c, i)) => s1.lateFail r c (p.ops.ea + BitVec.ofNat 64 (8 * i))
        | .ok (es, s2) =>
          s2.modPend r (fun p => { p with mem := false, cover := (cls p.ins).la, ops := { p.ops with got := es, stage := 1 } })

/-- RELAUNCH at issue (DEDUCED, assumption 37). -/
def relaunch (i : Instr) (a : Reg) (w : Params) (t : Thread) (s : State) : Act :=
  let n := w.w2.toNat
  let src := s.engineTa t (t.rx a) n 8 false
  let obj := s.objFails i w.w0
  let cfg := if (alook s.traces w.w0.toNat).isNone then obj else []
  match firstFail ([illopIf i (w.w1.toNat % 8 != 0 || n % 8 != 0 || decide (256 < n))] ++ cfg ++
      (if n = 0 then [] else [extentFail src]) ++ obj) with
  | some f => .trap f
  | none =>
    let ops : Operands :=
      { ea := t.rx a, ta := if n = 0 then 0 else extentVal src, n := n, core := s.curCore, sys := t.sys, segs := t.g.toList }
    .ok ((s.addPend s.curCore s.curSlot (t.flying i ops 0 true true .queued)).relaunchRead ⟨s.curCore, s.curSlot, s.nextId⟩)

/-- R282. -/
def execRelaunch (d a : Reg) (l : BitVec 4) (q : BitVec 1) (p : Params) (s : State) : Out :=
  issue (.relaunch d a l q p) s (fun t s => relaunch (.relaunch d a l q p) a p t s)

/-- A completion message of the relaunch engine (R258). -/
def State.runMsg (s : State) (core status fate : Nat) (handle : BitVec 32) (rerun kept : Nat) : State :=
  s.hwPost core (.ofWords (BitVec.ofNat 64 (status * 2 ^ 32 + fate * 2 ^ 12 + 2 * 256 + 0x31)) (handle.setWidth 64)
    (BitVec.ofNat 64 (rerun * 2 ^ 32 + kept)) s.stamp)

def State.modTrace (s : State) (obj : Nat) (f : Trace → Trace) : State :=
  match alook s.traces obj with
  | some t => { s with traces := aset s.traces obj (f t) }
  | none => s

/-- A request becomes a run: it takes an entry of the launch table of the die that recorded the launch. none: no entry is free. -/
def State.runBegin (s : State) (obj : Nat) (run : Run) : Option State :=
  match alook s.traces obj with
  | none => none
  | some t =>
    let die := match t.bound with | some b => b.die | none => dieOf run.core
    let zero : Params := ⟨0, 0, 1, 0⟩
    let b : Bound := t.bound.getD ⟨zero, 0, Vector.replicate 8 0, die⟩
    match (s.die die).freeEntry with
    | none => none
    | some e =>
      let d := s.die die
      let gen := nextGen ((alook d.gens e).getD 0)
      let h := handleOf die e gen
      let l : Launch := { handle := h, vf := t.vf, segs := b.segs, p := { b.p with w3 := 0 }, arg := b.arg, inbox := .relaunch obj
                          level := lwPrio b.p, entered := s.nextId, since := s.ungated, only := some [], trace := some obj }
      some ({ s.putDie die { d with launches := aset d.launches e l, gens := aset d.gens e gen } with nextId := s.nextId + 1 }.modTrace
        obj (fun t => { t with running := true, run := some { run with handle := h } }))

/-- RELAUNCH with its patch read (R282). An object freed since issue takes no request, BS ABSENT, and a run for
whose handle the launch table has no free entry is not accepted yet (DESIGN CHOICE, assumption 37). -/
def State.relaunchAt (s : State) (r : Ref) (p : Pending) (d : Reg) (q : Bool) (w : Params) : State :=
  let obj := w.w0.toNat
  let run : Run := { core := r.core, vf := s.owner r.core, sys := p.ops.sys, patch := p.ops.got, off := w.w1.toNat
                     tag := (s.thr r.core r.slot).tag }
  match alook s.traces obj with
  | none => s.finish r { x := [(d, 0)], bs := some bsABSENT }
  | some t =>
    if t.vf ≠ s.owner r.core then s.finish r { x := [(d, 0)], bs := some bsABSENT }
    else if t.running then
      if !q then s.finish r { x := [(d, 0)], bs := some bsBUSY }
      else
        let s1 := match t.queued with | some o => s.runMsg o.core 0 1 0 0 0 | none => s
        (s1.modTrace obj (fun t => { t with queued := some run })).finish r { x := [(d, 0)], bs := some bsOK }
    else
      match s.runBegin obj run with
      | none => s
      | some s1 =>
        let h := ((alook s1.traces obj).bind (fun t => t.run.map (·.handle))).getD 0
        s1.finish r { x := [(d, h.setWidth 64)], bs := some bsOK }

/-- The relaunch engine accepts a RELAUNCH whose patch has been read. -/
def State.relaunchAccept (s : State) (r : Ref) (p : Pending) (d : Reg) (q : Bool) (w : Params) : State :=
  if p.ops.stage = 0 then s.relaunchRead r else s.relaunchAt r p d q w

/-- R257. A post is accepted, in the program order of its thread (DEDUCED, assumption 13). -/
def execEnginePostAccept (core slot id : Nat) (s : State) : Out :=
  let r : Ref := ⟨core, slot, id⟩
  let post := fun (i : Instr) => isPost i || (match i with | .relaunch _ _ _ _ _ => true | _ => false)
  .next (match s.pending r with
    | none => s
    | some p =>
      if p.phase != .queued || !post p.ins ||
          (s.thr core slot).pend.any (fun q => decide (q.id < id) && post q.ins && q.phase == .queued) then s
      else
        match p.ins with
        | .relaunch d _ _ q w => s.relaunchAccept r p d (q == 1) w
        | _ => s.postAccept r p)

/-- What a launch keeps of one that has completed, if it waits for it (R238). -/
def Launch.heard (l : Launch) (h : BitVec 32) (st : Word32) : Launch :=
  if l.p.w3 = h ∧ l.depSt.isNone then { l with depSt := some st } else l

/-- Free a launch's entry; the launches that wait for it keep its STATUS, which also stays known until the entry is reused (R238). -/
def State.freeLaunch (s : State) (l : Launch) (status : Word32) : State :=
  let n := handleDie l.handle
  let e := handleEntry l.handle
  let d := s.die n
  let s1 := s.putDie n { d with launches := adel d.launches e, past := aset d.past e (l.handle, status, l.vf) }
  { s1 with dies := s1.dies.map (fun (x : Nat × Die) =>
      (x.1, { x.2 with launches := x.2.launches.map (fun (y : Nat × Launch) => (y.1, y.2.heard l.handle status)) })) }

/-- The object stops running, and the pending request becomes a run (R282). -/
def State.objStops (s : State) (obj : Nat) : State :=
  let s1 := s.modTrace obj (fun t => { t with running := false, run := none })
  match alook s1.traces obj with
  | some t =>
    match t.queued with
    | some q => (match s1.runBegin obj q with | some s2 => s2.modTrace obj (fun t => { t with queued := none }) | none => s1)
    | none => s1
  | none => s1

/-- End a run with its message, and free its handle. -/
def State.runEnd (s : State) (obj : Nat) (run : Run) (status : Nat) : State :=
  let s1 := if run.silent then s else s.runMsg run.core status 0 run.handle run.rerun run.kept
  let s2 := match s1.launchOf run.handle with | some l => s1.freeLaunch l (BitVec.ofNat 32 status) | none => s1
  s2.objStops obj

/-- The tenant address at which a patch goes. -/
def Bound.patchTa (b : Bound) (run : Run) : Nat := segTa b.segs.toList (b.arg + BitVec.ofNat 64 run.off)

/-- Where doubleword i of a patch goes: its place, or the cause that ends the run; none while it waits (DEDUCED,
assumption 37). -/
def State.patchPlace (s : State) (b : Bound) (run : Run) (i : Nat) : Option (Except Byte Nat) :=
  let ea := b.arg + BitVec.ofNat 64 (run.off + 8 * i)
  let g := (b.segs[ea.toNat / 2 ^ 61]?).getD 0
  let ta := segBase g + eaOffset ea
  if !segW g || (segP g && !run.sys) then some (.error cSEGRIGHT)
  else if segLimit g < eaOffset ea + 8 ∨ 2 ^ 52 ≤ ta then some (.error cSEGLIM)
  else if ta % 8 ≠ 0 then some (.error cALIGN)
  else
    match s.dwPlace run.core ta { w := true, sys := run.sys } with
    | .absent => none
    | .fault c => some (.error c)
    | .at loc => some (.ok loc)

/-- The patch of a run is written once every line of it is paid for, at the port of its poster's core (R335): the state, and whether
that is so. -/
def State.payPatch (s : State) (obj : Nat) (b : Bound) (run : Run) : State × Bool :=
  let n := run.patch.length
  let ta := b.patchTa run
  if n = 0 ∨ taOnChip ta ∨ (List.range n).any (fun i => match s.patchPlace b run i with | some (.error _) => true | _ => false) then (s, true)
  else
    let (s1, i) := s.payFrom run.core ta { w := true, sys := run.sys } (lineCount ta n - run.paid) run.paid
    (s1.modTrace obj (fun t => { t with run := t.run.map (fun r => { r with paid := i }) }), decide (lineCount ta n ≤ i))

/-- Write the patch, stamped with writer tag 0: done, a cause, or a wait (DEDUCED, assumption 37). -/
def State.writePatch (s : State) (b : Bound) (run : Run) : Option (Except Byte State) :=
  let ps := (List.range run.patch.length).map (fun i => s.patchPlace b run i)
  if ps.any (·.isNone) then none
  else
    match ps.findSome? (fun p => match p with | some (.error c) => some c | _ => none) with
    | some c => some (.error c)
    | none =>
      some (.ok (ps.zipIdx.foldl (fun s x => match x.1 with
        | some (.ok loc) =>
          let s1 := s.putEntry loc (run.patch.getD x.2 ⟨0, false⟩)
          if loc < 2 ^ 56 then s1.trackWrite run.vf {} 0 loc else s1
        | _ => s) s))

/-- A run writes its patch, decides at V, and has its re-run blocks dispatched (R281, R282). An object to which no launch was
ever bound has no recorded segments and no blocks (DEDUCED, assumption 37). -/
def State.runStart (s : State) (obj : Nat) : State :=
  match alook s.traces obj with
  | none => s
  | some t =>
    match t.run with
    | none => s
    | some run =>
      if run.decided then s
      else
        match t.bound with
        | none => if run.patch.isEmpty then s.runEnd obj run 0 else s.runEnd obj run cSEGRIGHT.toNat
        | some b =>
          let (s, paid) := s.payPatch obj b run
          if !paid then s else
          match s.writePatch b run with
          | none => s
          | some (.error c) => s.runEnd obj run c.toNat
          | some (.ok s1) =>
            let n := b.p.w1.toNat
            let again := (List.range n).filter (fun k => s1.wouldRerun t.vf ((alook t.recs k).getD {}))
            let run := { run with decided := true, rerun := again.length, kept := n - again.length }
            let s2 := s1.modTrace obj (fun t => { t with run := some run })
            if again.isEmpty then s2.runEnd obj run 0
            else
              match s2.launchOf run.handle with
              | none => s2
              | some l =>
                let die := handleDie run.handle
                let d := s2.die die
                s2.putDie die { d with launches := aset d.launches (handleEntry run.handle) { l with only := some again } }

/-- R282. -/
def execRelaunchRunStart (obj : Nat) (s : State) : Out := .next (if s.gated then s else s.runStart obj)

/-- Nothing that threads of a launch posted to engines or arrays, and none of their host stores, is unfinished (R240, R283). -/
def State.launchQuiet (s : State) (h : BitVec 32) : Bool :=
  !s.posted.any (fun q => q.tag.handle == h) && !s.patchDue (fun r => r.tag.handle == h) &&
  s.clusters.all (fun c =>
    !(c.2.engineQ ++ c.2.engineRun).any (fun p => p.tag.handle == h) && !c.2.xfers.any (fun x => x.tag.handle == h) &&
    !c.2.cmds.any (fun x => x.tag.handle == h))

/-- Blocks of a launch in all. -/
def Launch.blocks (l : Launch) : Nat := match l.only with | some b => b.length | none => l.p.w1.toNat

/-- Every block has completed or been abandoned. -/
def Launch.over (l : Launch) : Bool := decide (l.blocks ≤ l.done + l.abandoned)

/-- R283. -/
def execRelaunchComplete (obj : Nat) (s : State) : Out :=
  .next (match alook s.traces obj with
    | none => s
    | some t =>
      match t.run with
      | none => s
      | some run =>
        match s.launchOf run.handle with
        | none => s
        | some l => if run.decided && l.over && s.launchQuiet run.handle then s.runEnd obj run l.status.toNat else s)

/-! ## TRINFO (R284) -/

/-- One item of a record. -/
def State.recItem (s : State) (vf : Nat) (b : BlockRec) (item idx : Nat) : Word :=
  let range := fun (l : List (Nat × Nat)) => match l[idx]? with | some r => BitVec.ofNat 64 (r.2 * 2 ^ 40 + r.1) | none => 0
  match item with
  | 0 => BitVec.ofNat 64 (bit b.valid 63 + bit b.all 62 + bit b.unstable 61 + b.writes.length * 2 ^ 7 + b.reads.length)
  | 1 => BitVec.ofNat 64 b.s
  | 2 => BitVec.ofNat 64 b.e
  | 3 => range b.reads
  | 4 => range b.writes
  | 5 => if s.wouldRerun vf b then 1 else 0
  | _ => b.handle.setWidth 64

/-- TRINFO. -/
def trinfo (i : Instr) (d : Reg) (w : Params) (s : State) : Act :=
  let cap := match alook s.traces w.w0.toNat with | some t => t.cap | none => 2 ^ 32
  match firstFail ([illopIf i (decide (cap ≤ w.w1.toNat ∨ 6 < w.w2.toNat ∨ 63 < w.w3.toNat))] ++ s.objFails i w.w0) with
  | some f => .trap f
  | none =>
    match alook s.traces w.w0.toNat with
    | some t => .ok (s.flyDone i { x := [(d, s.recItem t.vf ((alook t.recs w.w1.toNat).getD {}) w.w2.toNat w.w3.toNat)] })
    | none => .ok s

/-- R284. -/
def execTrinfo (d : Reg) (l : BitVec 4) (p : Params) (s : State) : Out :=
  issue (.trinfo d l p) s (fun _ s => trinfo (.trinfo d l p) d p s)

end Sys2Proof.Machine
end

