-- ==== Sys2Proof/Machine/VTime.lean ====
section
/-!
DEFINITION. Machine/VTime.lean: virtual time (R285 to R309): TMODE, TSEND, TNEXT, TOUT and GVTRD, stragglers and rollback,
anti-messages, Horizon's rounds and the release of output.
-/
namespace Sys2Proof.Machine

/-! ## Keys, floors, ports (R285 to R287, R298) -/

/-- The VRT of a time sent from a core. -/
def vrtOf (time : Word) (coreId : Nat) : Word := time <<< 16 + BitVec.ofNat 64 coreId

/-- Keys compare as VRT first, then sequence. -/
def Key.lt (a b : Key) : Bool := a.vrt.ult b.vrt || (a.vrt == b.vrt && a.seq.ult b.seq)

/-- The least message of a list by key. -/
def leastMsg (l : List TMsg) : Option TMsg :=
  l.foldl (fun best m => match best with | none => some m | some b => if m.key.lt b.key then some m else best) none

/-- The greatest. -/
def greatestMsg (l : List TMsg) : Option TMsg :=
  l.foldl (fun best m => match best with | none => some m | some b => if b.key.lt m.key then some m else best) none

def VTime.unprocessed (v : VTime) : List TMsg := v.inbox.filter (fun m => !m.taken)

/-- The floor of a core. -/
def Core.floor (x : Core) : Nat := max (x.lvt.toNat / 2 ^ 16) (x.gvtCopy.toNat / 2 ^ 16)

def State.modVt (s : State) (c : Nat) (f : VTime → VTime) : State := s.modCore c (fun x => { x with vt := x.vt.map f })

/-- A timed message or anti-message leaves for a core of this package, in the colour of its port. -/
def State.sendTimed (s : State) (m : Timed) : State :=
  let col := (s.core m.src).colour
  let s := { s with timed := s.timed ++ [{ m with colour := col, vf := s.owner m.src }] }
  (s.countSent m.src col 1).modCore m.src (fun x => if m.key.vrt.ult x.leastSent then { x with leastSent := m.key.vrt } else x)

/-- It is for another package. -/
def Timed.far (m : Timed) : Bool := decide (65536 ≤ m.dst)

/-- Timed messages and anti-messages of this package that are not resolved: on their way, or held by a rollback that is due (R297). -/
def State.unresolved (s : State) : List Timed := s.timed.filter (fun m => !m.far) ++ s.cores.flatMap (fun x => (x.2.vt.map (·.antis)).getD [])

/-- Those of a virtual function that no port of its counts, for the core that sent them is no longer its own (R334). -/
def State.strays (s : State) (vf : Nat) : List Timed := s.unresolved.filter (fun m => m.vf == vf && s.owner m.src != vf)

/-- The tenant's rounds span other packages (DESIGN CHOICE, assumption 5). -/
def State.wide (s : State) (vf : Nat) : Bool := (s.vf vf).pkgs != 0 && (s.vf vf).pkgs != 2 ^ s.pkg.toNat
/-- This package begins the tenant's rounds: it is the one of the lowest index in PKGS, or PKGS is 0 (R299). -/
def State.leads (s : State) (vf : Nat) : Bool := (s.vf vf).pkgs == 0 || (s.vf vf).pkgs % 2 ^ (s.pkg.toNat + 1) == 2 ^ s.pkg.toNat

/-- The cores of a virtual function, each with its network port. -/
def State.ports (s : State) (vf : Nat) : List (Nat × Core) := s.cores.filter (fun c => s.owner c.1 == vf)

/-- The cores of a virtual function that take part in its rounds. -/
def State.participants (s : State) (vf : Nat) : List (Nat × Core) :=
  s.cores.filter (fun c => s.owner c.1 == vf && c.2.vt.isSome)

/-! ## TMODE (R288, R289, R305) -/

/-- TMODE.on, once nothing holds it back. -/
def tmodeOn (a : Reg) (t : Thread) (s : State) : Act :=
  let c := s.curCore
  let x := s.core c
  if x.vt.isSome then .ok (s.putMe { t with bs := bsBUSY })
  else if !x.free 14 then .ok (s.putMe { t with bs := bsFULL })
  else
    let s1 := (s.endWaiters c 13 bsRECONF).endWaiters c 14 bsRECONF
    let s2 := (s1.clear (bankLoc c 13 0) bankSize).clear (bankLoc c 14 0) bankSize
    let h := { helperThread t (t.rx a) c 14 s.cycle with tm := true, member := false }
    let key : Key := ⟨x.gvtCopy, 0⟩
    .ok (((s2.seat c 14 h).modCore c (fun x =>
      { x with lvt := x.gvtCopy, sendCount := 0, colour := (s.vf (s.owner c)).colour
               vt := some { restart := t.rx a, base := key, cur := key } })).modThr c s.curSlot (fun u => { u with bs := bsOK }))

/-- R305. -/
def execTmodeOn (a : Reg) (s : State) : Out := issue (.tmodeOn a) s (fun t s => tmodeOn a t s)

def isTnext (i : Instr) : Bool := match i with | .tnext _ _ => true | _ => false

/-- The timed thread sleeps in TNEXT. -/
def Thread.inTnext (t : Thread) : Bool := t.pend.any (fun p => p.phase == .asleep && isTnext p.ins)

/-- TMODE.off. -/
def tmodeOff (t : Thread) (s : State) : Act :=
  let c := s.curCore
  if !s.control then .priv .tmodeOff
  else
    match (s.core c).vt with
    | none => .ok (s.putMe { t with bs := bsOK })
    | some v =>
      if (s.thr c 14).inTnext && v.idle then
        .ok (((s.endThread c 14).vtOff c).modThr c s.curSlot (fun u => { u with bs := bsOK }))
      else .ok (s.putMe { t with bs := bsBUSY })

/-- R305. -/
def execTmodeOff (s : State) : Out := issue .tmodeOff s (fun t s => tmodeOff t s)

/-! ## TSEND (R306) -/

/-- What TSEND checks once its log entry is reserved: its record, then its target (R306). -/
def State.tsendRead (s : State) (t : Thread) (ea target : Word) : Except Trap (Nat × Target) :=
  match resolve s s.curCore t (needRecord ea 32 32) with
  | .error tr => .error tr
  | .ok (_, .foreign _ _) => .error (cBADWIN, ea)
  | .ok x => if s.badTarget target then .error (cBADWIN, target) else .ok x

/-- TSEND at issue: its operands, then its log entry is reserved, or it sleeps for one (R294, R306). -/
def tsend (i : Instr) (r a b : Reg) (t : Thread) (s : State) : Act :=
  let time := t.rx b
  let nd := needRecord (t.rx a) 32 32
  if !t.tm then .priv i
  else if (targetCore (t.rx r)).isNone then .fail cBADWIN (t.rx r)
  else if 2 ^ 48 ≤ time.toNat ∨ time.toNat ≤ (s.core s.curCore).floor then .fail cILLCFG time
  else if (s.core s.curCore).logRoom 1 then
    match s.tsendRead t (t.rx a) (t.rx r) with
    | .error tr => .trap ⟨tr, none⟩
    | .ok _ => access i nd (fun o => { o with a := t.rx r, b := time }) t s
  else
    .ok ((s.startStarving s.curCore).fly i { baseOps s t nd 0 .none with a := t.rx r, b := time, stage := stageLog } true false .asleep)

/-- R306. -/
def execTsend (r a b : Reg) (l : BitVec 4) (s : State) : Out :=
  issue (.tsend r a b l) s (fun t s => tsend (.tsend r a b l) r a b t s)

/-- An accepted TSEND: logged under the current key, counted (R286, R292; DEDUCED, assumption 24). -/
def State.tsendDone (s : State) (r : Ref) (target : Nat) (key : Key) : State :=
  ((s.addLog r.core (.send target key)).modCore r.core (fun x => { x with sendCount := x.sendCount + 1 })).finish r (Result.status bsOK)

/-- TSEND's record has been read: it leaves for its target. What a core of another package answers is free (assumption 17). -/
def State.tsendArrive (s : State) (r : Ref) (p : Pending) : State :=
  let vrt := vrtOf p.ops.b (s.coreId r.core)
  let m := Msg.ofEntries p.ops.got
  match targetCore p.ops.a with
  | none => s.lateFail r cBADWIN p.ops.a
  | some (pkg, c) =>
    if pkg = s.pkg.toNat then
      if !s.isCoreOf c (s.owner r.core) || s.coreOut c then s.lateFail r cBADWIN p.ops.a
      else
        (s.sendTimed { src := r.core, dst := c, key := ⟨vrt, 0⟩, anti := false, payload := m, colour := false, ref := some r }).setPhase r .queued
    else if !s.reaches (s.owner r.core) pkg then s.lateFail r cBADWIN p.ops.a
    else
      let (w, s) := s.freeWord
      match w.toNat % 4 with
      | 0 => ({ s with sent := s.sent ++ [(p.ops.a, m)] }).tsendDone r p.ops.a.toNat ⟨vrt, (s.core r.core).sendCount⟩
      | 1 => s.finish r (Result.status bsFULL)
      | 2 => s.finish r (Result.status bsABSENT)
      | _ => s.lateFail r cBADWIN p.ops.a

/-- Nothing that the same source sent to the same target before is still on its way (R296). -/
def State.timedFirst (s : State) (n : Nat) (m : Timed) : Bool :=
  (s.timed.take n).all (fun e => e.src != m.src || e.dst != m.dst)

/-- A rollback to a key becomes due; several waiting ones become one, to the least key (R295, R297). -/
def VTime.due (v : VTime) (k : Key) (incl : Bool) : VTime :=
  match v.straggler with
  | none => { v with straggler := some (k, incl) }
  | some (k0, i0) =>
    if k.lt k0 then { v with straggler := some (k, incl) }
    else if k = k0 then { v with straggler := some (k, i0 || incl) } else v

/-- A timed message reaches its target (R291, R295, R306): still a core of the tenant (R334), in service (R355). On a quad under
reset virtual time is off (R289). One whose sender has been stopped meanwhile is dropped (DEDUCED, assumption 24). -/
def State.timedAccept (s : State) (n : Nat) : State :=
  match s.timed[n]? with
  | none => s
  | some m =>
    if m.anti || !s.timedFirst n m then s
    else
      let s1 := { s with timed := s.timed.eraseIdx n }.uncount m
      let answer := fun (s : State) (b : BitVec 3) => match m.ref with | some r => s.finish r (Result.status b) | none => s
      if (m.ref.map (fun r => (s.pending r).isNone)).getD false then s1
      else if s.coreOut m.dst || s.owner m.dst != m.vf then
        (match m.ref with | some r => s1.lateFail r cBADWIN (BitVec.ofNat 64 (s.coreId m.dst)) | none => s1)
      else
      match (s1.core m.dst).vt with
      | none => answer s1 bsABSENT
      | some v =>
        if 640 ≤ v.inbox.length then answer s1 bsFULL
        else
          let key : Key := ⟨m.key.vrt, (s1.core m.src).sendCount⟩
          let s2 := s1.modVt m.dst (fun v =>
            let v := { v with inbox := v.inbox ++ [{ key := key, payload := m.payload }] }
            if key.lt v.cur then v.due key false else v)
          match m.ref with
          | some r => s2.tsendDone r (s.coreId m.dst) key
          | none => s2

/-- R306. -/
def execTimedMessageAccept (n : Nat) (s : State) : Out := .next (s.timedAccept n)

/-! ## TNEXT (R307) -/

/-- Take the least unprocessed message for a TNEXT; none when there is none, or a rollback is due. -/
def State.tnextTake (s : State) (r : Ref) (i : Instr) : Option State :=
  match (s.core r.core).vt, i with
  | some v, .tnext d a =>
    if v.straggler.isSome then none
    else
      match leastMsg v.unprocessed with
      | none => none
      | some m =>
        let s1 := s.modCore r.core (fun x => { x with
          lvt := m.key.vrt
          vt := x.vt.map (fun v => { v with
            cur := m.key
            inbox := v.inbox.map (fun e => if e.key = m.key then { e with taken := true } else e) }) })
        some (if a = 0 then s1.finish r { x := [(d, m.key.vrt)], bs := some bsOK }
          else s1.modPend r (fun p =>
            { p with phase := .flight, ops := { p.ops with a := m.key.vrt, got := m.payload.words, stage := 1 } }))
  | _, _ => none

/-- TNEXT at issue: the address of its record, then the least message, or sleep (DEDUCED, assumption 24). -/
def tnext (i : Instr) (a : Reg) (t : Thread) (s : State) : Act :=
  let go := fun (o : Operands) =>
    let r : Ref := ⟨s.curCore, s.curSlot, s.nextId⟩
    let s1 := s.fly i o (a != 0) false .asleep
    Act.ok ((s1.tnextTake r i).getD s1)
  if s.curSlot ≠ 14 ∨ !t.tm then .priv i
  else if a = 0 then go { core := s.curCore, tm := true, sys := t.sys }
  else
    let nd := needRawRecord (t.rx a) false
    match resolve s s.curCore t nd with
    | .error tr => .trap ⟨tr, none⟩
    | .ok (_, .foreign _ _) => .fail cBADWIN (t.rx a)
    | .ok (ta, tgt) => go (baseOps s t nd ta tgt)

/-- R307. -/
def execTnext (d a : Reg) (s : State) : Out := issue (.tnext d a) s (fun t s => tnext (.tnext d a) a t s)

/-! ## TOUT (R308) -/

/-- The write TOUT queues: right W, a doubleword; T not needed. -/
def needTout (t : Thread) (a : Reg) : Need := { ea := t.rx a, n := 8, align := 8, w := true, dbl := true, sysOk := true }

/-- The log and the output queue have room. -/
def Core.outRoom (x : Core) : Bool :=
  x.logRoom 1 && (match x.vt with | some v => decide (v.out.length < 64) | none => true)

/-- Queue a write and log it. -/
def State.queueOut (s : State) (c : Nat) (ta v : Word) (sys : Bool) : State :=
  (s.addLog c (.out ta v)).modVt c (fun x => { x with out := x.out ++ [⟨x.cur, ta, v, sys⟩] })

/-- TOUT. -/
def tout (i : Instr) (r a : Reg) (t : Thread) (s : State) : Act :=
  let nd := needTout t a
  if !t.tm then .priv i
  else
    match resolve s s.curCore t nd with
    | .error tr => .trap ⟨tr, none⟩
    | .ok (ta, tgt) =>
      if taOnChip ta then .fail cBADWIN (t.rx a)
      else if (s.core s.curCore).outRoom then .ok (s.queueOut s.curCore (BitVec.ofNat 64 ta) (t.rx r) t.sys)
      else
        .ok ((s.startStarving s.curCore).fly i { baseOps s t nd ta tgt with a := t.rx r, stage := stageLog } false false .asleep)

/-- R308. -/
def execTout (r a : Reg) (s : State) : Out := issue (.tout r a) s (fun t s => tout (.tout r a) r a t s)

/-! ## GVTRD (R309) -/

/-- R309. -/
def execGvtrd (d : Reg) (s : State) : Out :=
  issue (.gvtrd d) s (fun t s => writeX d (s.core s.curCore).gvtCopy t s)

/-- GVTRD.W sleeps until the core's copy of GVT is above x[ra]. -/
def gvtrdW (i : Instr) (d a : Reg) (t : Thread) (s : State) : Act :=
  let g := (s.core s.curCore).gvtCopy
  if (t.rx a).ult g then writeX d g t s
  else .ok (s.fly i { core := s.curCore, a := t.rx a } false false .asleep)

/-- R309. -/
def execGvtrdW (d a : Reg) (s : State) : Out :=
  issue (.gvtrdW d a) s (fun t s => gvtrdW (.gvtrdW d a) d a t s)

/-! ## Rollback (R295, R297) -/

/-- The key lies beyond the rollback's. -/
def beyond (k : Key) (incl : Bool) (e : Key) : Bool := k.lt e || (incl && k == e)

/-- Where a logged doubleword stands now: paged space as its page is mapped, whatever its rights; none while it is not. -/
def State.undoPlace (s : State) (c ta loc : Nat) : Option Nat :=
  if 2 ^ 56 ≤ loc then some loc
  else match s.walkAt (clusterOf c) (s.owner c) ta with | .leaf _ pa => some pa | .absent => none

/-- Write a logged doubleword back: in memory, or in the host's behind the stores of the timed thread (R172, R292). What a device
behind a root port holds is its own (R338). -/
def State.writeBack (s : State) (c ta at_ : Nat) (old : Word) (full poison : Bool) : State :=
  let t := s.thr c 14
  let plain := fun (s : State) => ((s.write at_ 8 old.toNat).setFull at_ full).setPoison at_ poison
  if 2 ^ 56 ≤ at_ then
    let o := at_ - 2 ^ 56
    (plain s).serveBank (o / scratchSize) (o % scratchSize / bankSize)
  else
    match paSpace at_ with
    | .host => if poison then plain (s.landAll t) else { s with posted := s.posted ++ [⟨t.home, t.homeSlot, at_, 8, old.toNat, t.tag⟩] }
    | .root => s
    | _ => (plain s).trackWrite (s.owner c) t.tag ta at_

/-- Undo one action of the log (R292, R293, R296). An anti-message for another package waits at its port (R335). -/
def State.undo (s : State) (c : Nat) (u : Undo) : State :=
  match u with
  | .word ta loc old full poison =>
    match s.undoPlace c ta loc with
    | some at_ => s.writeBack c ta at_ old full poison
    | none => s
  | .sysreg d reg old => match s.storeCoreReg c d reg old with | .ok s' => s' | .error _ => s
  | .bank bc b conf op =>
    if (s.bank bc b).conf = conf then (s.scatter bc b ((s.gather bc b).invert op)).serveBank bc b else s
  | .send target key =>
    if target / 2048 = s.pkg.toNat then
      s.sendTimed { src := c, dst := target % 2048, key := key, anti := true, payload := Msg.ofWords 0 0 0 0, colour := false }
    else
      { s with timed := s.timed ++ [{ src := c, dst := 65536 + target, key := key, anti := true, payload := Msg.ofWords 0 0 0 0
                                      colour := false, vf := s.owner c }] }
  | .out _ _ => s

/-- The place in memory that an entry of the log is undone at: it costs a token of its bucket (R335). -/
def State.undoLine (s : State) (c : Nat) (e : LogEntry) : Option Nat :=
  match e.undo with
  | .word ta loc _ _ _ => (s.undoPlace c ta loc).filter (fun a => decide (a < 2 ^ 56))
  | _ => none

/-- An entry can be undone now: its page is mapped (R146), and its line has a token (R335). -/
def State.undoReady (s : State) (c : Nat) (e : LogEntry) : Bool :=
  (match e.undo with | .word ta loc _ _ _ => (s.undoPlace c ta loc).isSome | _ => true) &&
  (match s.undoLine c e with | some a => (s.core c).hasToken (bucketOf a) | none => true)

/-- Undo an entry: all that its action changed. -/
def State.undoEntry (s : State) (c : Nat) (e : LogEntry) : State :=
  let s1 := match s.undoLine c e with | some a => s.spend c (bucketOf a) | none => s
  e.also.foldl (fun s u => s.undo c u) (s1.undo c e.undo)

/-- A message and its anti-message vanish. -/
def State.annihilate (s : State) (c : Nat) (m : Timed) : State :=
  (s.modVt c (fun v => { v with inbox := v.inbox.filter (fun e => e.key != m.key) })).uncount m

/-- A sleep of the timed thread that a rollback withdraws. -/
def rollsBack (p : Pending) : Bool :=
  p.phase == .asleep &&
  (match p.ins with
   | .tnext _ _ | .gvtrdW _ _ | .exit => true
   | _ => p.ops.stage == stageLog)

/-- The thread is at a boundary at which it may roll back: nothing it issued is outstanding, and it is not Trapped. -/
def Thread.atBoundary (t : Thread) : Bool := t.st == .run && t.tm && t.stop.isNone && t.pend.all rollsBack

/-- Undo the log entries beyond a key, newest first, and remove them: whether all are, or one has to wait (DEDUCED, assumption 24).
`l` holds those that are left, newest first. -/
def State.undoLog (s : State) (c : Nat) : List LogEntry → State × Bool
  | [] => (s, true)
  | e :: l =>
    if s.undoReady c e then
      ((s.undoEntry c e).modVt c (fun v => { v with log := (v.log.reverse.erase e).reverse })).undoLog c l
    else (s, false)

/-- What a rollback to a key does once the log is undone (R295): `v` is virtual time as the rollback found it. The thread is in rotation
again from the next cycle (R93). A word of XEC that waits is executed first at the restart PC (R322). -/
def State.rolledTo (s : State) (c : Nat) (v : VTime) (k : Key) (incl : Bool) : State :=
  let s2 := s.modVt c (fun v =>
    let inbox := v.inbox.map (fun m => if beyond k incl m.key then { m with taken := false } else m)
    let cur := match greatestMsg (inbox.filter (fun m => m.taken)) with | some m => m.key | none => v.base
    { v with log := v.log.filter (fun e => !beyond k incl e.key), out := v.out.filter (fun e => !beyond k incl e.key)
             inbox := inbox, cur := cur, straggler := none, antis := [] })
  let s3 := s2.modCore c (fun x => { x with lvt := match x.vt with | some v => v.cur.vrt | none => x.lvt })
  let s4 := s3.modThr c 14 (fun t => { t with pend := [], pc := v.restart, bs := bsRECONF, back := s.cycle + 1 })
  v.antis.foldl (fun s m => s.annihilate c m) s4

/-- Roll back to a key (R295), as far as the log can be undone now. -/
def State.rollTo (s : State) (c : Nat) (v : VTime) (k : Key) (incl : Bool) : State :=
  let (s1, fin) := s.undoLog c (v.log.filter (fun e => beyond k incl e.key)).reverse
  if fin then s1.rolledTo c v k incl else s1

/-- R295 (DEDUCED, assumption 24). -/
def execRollback (core : Nat) (s : State) : Out :=
  .next (match (s.core core).vt with
    | none => s
    | some v =>
      match v.straggler with
      | some (k, incl) => if (s.thr core 14).atBoundary then s.rollTo core v k incl else s
      | none => s)

/-- R296, R297. An anti-message reaches its target. To leave the cluster it costs a network token (R335). -/
def State.antiAccept (s : State) (n : Nat) : State :=
  match s.timed[n]? with
  | none => s
  | some m =>
    let pays := clusterOf m.dst != clusterOf m.src
    if !m.anti || !s.timedFirst n m || (pays && !(s.core m.src).hasToken 1) then s
    else
      let s1 := (if pays then s.spend m.src 1 else s)
      let s1 := { s1 with timed := s1.timed.eraseIdx n }
      if m.far then { s1 with sent := s1.sent ++ [(BitVec.ofNat 64 (m.dst - 65536), Msg.ofWords m.key.vrt (m.key.seq.setWidth 64) 1 0)] }
      else
      match (if s.owner m.dst = m.vf then (s1.core m.dst).vt else none) with
      | none => s1.uncount m
      | some v =>
        match v.inbox.find? (fun e => e.key == m.key) with
        | none => s1.uncount m
        | some e =>
          if e.taken then s1.modVt m.dst (fun v => { v.due m.key true with antis := v.antis ++ [m] })
          else s1.annihilate m.dst m

/-- R297. -/
def execAntiMessageArrive (n : Nat) (s : State) : Out := .next (s.antiAccept n)

/-! ## Horizon (R298 to R301) -/

/-- The contribution of a core (R298). -/
def State.contribution (s : State) (c : Nat) (x : Core) : Word :=
  let ones : Word := 0xFFFF_FFFF_FFFF_FFFF
  match x.vt with
  | none => ones
  | some v =>
    let a := match leastMsg v.unprocessed with | some m => m.key.vrt | none => ones
    let b := if (x.slot 14).inTnext then ones else vrtOf (BitVec.ofNat 64 x.floor) (s.coreId c)
    if a.ult b then a else b

/-- A round begins: the tenant's colour flips, which each port follows when the flip reaches it. Where another package of the tenant
begins the rounds, the flip may reach this one in any cycle. With no core of the tenant enabled, its GVT becomes 0 (R289); of
cores in other packages of a wide tenant this package knows nothing (DEDUCED, assumption 23). -/
def State.roundStart (s : State) (vf : Nat) : State :=
  let v := s.vf vf
  if v.round || (s.leads vf && decide (s.cycle % 4096 ≠ 0)) || v.roundAt == s.cycle then s
  else
    let (other, s) := if s.wide vf then (let (w, s') := s.freeWord; (w.getLsbD 0, s')) else (false, s)
    if (s.participants vf).isEmpty && !other then
      s.modVf vf (fun v => { v with gvt := 0, gvtPrev := 0, roundAt := s.cycle })
    else
      s.modVf vf (fun v => { v with round := true, roundAt := s.cycle, colour := !v.colour, roundResult := none })

/-- The flip of a round reaches a port, which changes its colour and counts afresh what it sends in the new one (R299 step 1). -/
def State.flipPort (s : State) (c : Nat) : State :=
  let v := s.vf (s.owner c)
  if (s.core c).colour = v.colour then s
  else s.modCore c (fun x => { x with colour := v.colour, leastSent := 0xFFFF_FFFF_FFFF_FFFF })

/-- R299 step 1. -/
def execHorizonRoundStart (vf : Nat) (s : State) : Out := .next (s.roundStart vf)

/-- Reports of the participating cores, once the flip has reached every port, repeated until the old colour's counts add up to 0. The port of a core that has left
virtual time is counted too while what it sent is in flight, for no message may be overtaken (R300; DEDUCED, assumption 23). A wide tenant's other packages
report something of their own (DESIGN CHOICE, assumption 5). -/
def State.report2 (s : State) (vf : Nat) : State :=
  let v := s.vf vf
  if !v.round || v.roundResult.isSome then s
  else
    let ps := s.ports vf
    let old := ps.foldl (fun (n : Int) c => n + (if v.colour then c.2.count0 else c.2.count1)) 0
    if ps.any (fun c => c.2.colour != v.colour) || decide (old ≠ 0) || (s.strays vf).any (fun m => m.colour != v.colour) then s
    else
      let least := ps.foldl (fun (g : Word) c =>
        let a := s.contribution c.1 c.2
        let a := if c.2.leastSent.ult a then c.2.leastSent else a
        if a.ult g then a else g) 0xFFFF_FFFF_FFFF_FFFF
      let least := (s.strays vf).foldl (fun (g : Word) m => if m.key.vrt.ult g then m.key.vrt else g) least
      if s.wide vf then
        let (w, s) := s.freeWord
        s.modVf vf (fun v => { v with roundResult := some (if w.ult least then w else least) })
      else s.modVf vf (fun v => { v with roundResult := some least })

/-- R299 steps 2 and 3 (DEDUCED, assumption 23). -/
def execHorizonReport (vf : Nat) (s : State) : Out := .next (s.report2 vf)

/-- An action that sleeps for a log or output-queue entry is offered again (R294). A TSEND makes then the checks that follow
its reservation. -/
def State.offerOne (s : State) (c : Nat) (p : Pending) : State :=
    let r : Ref := ⟨c, 14, p.id⟩
    match p.ins with
    | .tout _ _ =>
      if (s.core c).outRoom then (s.queueOut c (BitVec.ofNat 64 p.ops.ta) p.ops.a p.ops.sys).finish r {} else s
    | .tsend _ _ _ _ =>
      if !(s.core c).logRoom 1 then s
      else
        let at_ := { s with curCore := c, curSlot := 14 }
        let t := s.thr c 14
        match at_.tsendRead t p.ops.ea p.ops.a with
        | .error tr => s.exactFail r p tr.1 tr.2
        | .ok (ta, tgt) =>
          s.modPend r (fun p =>
            { p with phase := .flight
                     ops := { baseOps at_ t (needRecord p.ops.ea 32 32) ta tgt with a := p.ops.a, b := p.ops.b } })
    | _ =>
      if (s.core c).logRoom 1 then s.modPend r (fun p => { p with phase := .flight, ops := { p.ops with stage := 0 } }) else s

/-- All that sleep for an entry are offered again, the oldest first. -/
def State.offerAgain (s : State) (c : Nat) : State :=
  ((s.thr c 14).pend.filter Pending.forLog).foldl (fun (s : State) p => s.offerOne c p) s

/-- The action that no publication has served raises LOGFULL, exactly (R294): a fault at issue that waits for it, of a younger
instruction, gives way and arises again, and a stop that is asked for comes first. -/
def State.logFull (s : State) (c : Nat) (p : Pending) : State :=
  let tv : Word := match p.ins with | .tsend _ _ _ _ => 0 | _ => p.ops.ea
  match (s.thr c 14).stop with
  | some st =>
    if st.asked then s
    else (s.modThr c 14 (fun t => { t with stop := none })).interrupt c 14 cLOGFULL tv (some p.id)
  | none => s.interrupt c 14 cLOGFULL tv (some p.id)

/-- The queued write of least key whose VRT is below the published value. -/
def VTime.release (v : VTime) (g : Word) : Option OutEntry :=
  (v.out.filter (fun e => e.key.vrt.ult g)).foldl (fun best e =>
    match best with
    | none => some e
    | some b => if e.key.lt b.key then some e else best) none

/-- A publication of g at a core: fossil collection, and the action that sleeps for an entry (R294, R301). It frees an entry of
the output queue if it can release one now, not if that waits for the pager (DEDUCED, assumption 24). -/
def State.publishAt (s : State) (g : Word) (c : Nat) : State :=
  match (s.core c).vt with
  | none => s
  | some v =>
    let log := v.log.filter (fun e => !e.key.vrt.ult g)
    let out := match v.release g with
      | some e => s.dwPlace c e.ta.toNat { w := true, sys := e.sys } != .absent
      | none => false
    let freed := decide (log.length < v.log.length) || out
    let s1 := s.modVt c (fun v => { v with
      log := log, inbox := v.inbox.filter (fun m => !(m.taken && m.key.vrt.ult g)) })
    match (s1.thr c 14).pend.find? Pending.forLog with
    | none => s1
    | some p =>
      if freed then (s1.modVt c (fun v => { v with starved := 0 })).offerAgain c
      else if v.starved + 1 < 2 then s1.modVt c (fun v => { v with starved := v.starved + 1 })
      else s1.logFull c p

/-- The round ends and GVT is published (R299 step 4, R301; DEDUCED, assumption 23). -/
def State.publish (s : State) (vf : Nat) : State :=
  let v := s.vf vf
  match v.roundResult with
  | none => s
  | some w =>
    let g := if v.gvt.ult w then w else v.gvt
    let s1 := s.modVf vf (fun v => { v with round := false, roundResult := none, gvtPrev := v.gvt, gvt := g })
    (s.participants vf).foldl (fun s c => s.publishAt g c.1) s1

/-- R299 step 4. -/
def execGvtPublish (vf : Nat) (s : State) : Out := .next (s.publish vf)

/-- Release one queued write at the core's port (R302). One that is dropped is reported to the core's inbox (DEDUCED,
assumption 24). -/
def State.releaseOut (s : State) (c : Nat) : State :=
  match (s.core c).vt with
  | none => s
  | some v =>
    match v.release (s.vf (s.owner c)).gvt with
    | none => s
    | some e =>
      let s1 := (s.modVt c (fun v => { v with out := v.out.erase e })).offerAgain c
      let drop := fun (code : Byte) =>
        s1.hwPost c (.ofWords (BitVec.ofNat 64 (code.toNat * 2 ^ 32 + 0x40)) e.ta e.key.vrt s.stamp)
      match s.agentPlace c e.ta.toNat e.ta.toNat { w := true, sys := e.sys } with
      | .absent => s
      | .fault code => drop code
      | .at loc =>
        if s.poisoned loc then drop cPOISON
        else (s1.store loc 8 e.v.toNat).agentNote c (s.owner c) (s.thr c 14).tag e.ta.toNat e.ta.toNat loc true

/-- R302. -/
def execOutputRelease (core : Nat) (s : State) : Out := .next (s.releaseOut core)

/-- The core's copy may take the newest published value (R301; DEDUCED, assumption 23). -/
def State.copyReady (s : State) (c : Nat) : Bool :=
  let v := s.vf (s.owner c)
  (s.core c).gvtCopy != v.gvt &&
  (match (s.core c).vt with | some t => (t.release v.gvt).isNone | none => true) &&
  (s.participants (s.owner c)).all (fun x => match x.2.vt with | some t => (t.release v.gvtPrev).isNone | none => true)

/-- R301 step 3 (DEDUCED, assumption 23). -/
def execGvtCopyUpdate (core : Nat) (s : State) : Out :=
  .next (if s.copyReady core then s.modCore core (fun x => { x with gvtCopy := (s.vf (s.owner core)).gvt }) else s)

end Sys2Proof.Machine
end

