-- ==== Sys2Proof/Machine/System.lean ====
section
/-!
DEFINITION. Machine/System.lean: TRAP, ERET, SYSRD, SYSWR, XEC, ICINV, TLBINV, SWAPCTX, SNAP, HALT and BRK (R320 to R331),
register writes from outside a thread (R66, R163, R254, R337, R351), the all-asleep detector (R315, R316), debugger stops
(R319), and the firmware's service loop (R312, R332, R358).
-/
namespace Sys2Proof.Machine

/-! ## TRAP, BRK, ERET (R321, R322, R331) -/

/-- R321. -/
def execTrap (n : BitVec 12) (s : State) : Out :=
  issue (.trap n) s (fun _ _ => .fail cTRAP (n.setWidth 64))

/-- R319, R331. -/
def execBrk (s : State) : Out := issue .brk s (fun _ _ => .fail cBRK 0)

/-- ERET (R322): `sys` is what it makes of TSW.SYS (DEDUCED, assumption 42). -/
def eret (i : Instr) (a : Reg) (sys : Option Bool) (t : Thread) (s : State) : Act :=
  let c := s.curCore
  let k := (t.rx a).toNat
  if s.curSlot ≠ 15 then .priv i
  else if 15 ≤ k then .fail cILLCFG (t.rx a)
  else
    let u := s.thr c k
    if u.st != .trapped || !u.returned then .ok (s.putMe { t with bs := bsABSENT })
    else
      let s1 := s.putThr c k { u with sys := sys.getD u.sys }
      .ok ((s1.resumed c k).modThr c s.curSlot (fun t => { t with bs := bsOK }))

/-- R322. -/
def execEret (a : Reg) (s : State) : Out := issue (.eret a) s (fun t s => eret (.eret a) a none t s)

/-- R322. -/
def execEretSys (a : Reg) (s : State) : Out := issue (.eretSys a) s (fun t s => eret (.eretSys a) a (some true) t s)

/-- R322. -/
def execEretUser (a : Reg) (s : State) : Out := issue (.eretUser a) s (fun t s => eret (.eretUser a) a (some false) t s)

/-! ## SYSRD, SYSWR (R323) -/

/-- The fault of a refused register access: TVAL is the word. -/
def regFail (i : Instr) (e : RegErr) : Act := match e with | .illop => .illop i | .priv => .priv i

/-- R65, R323. -/
def execSysrd (d : Reg) (n : BitVec 12) (s : State) : Out :=
  issue (.sysrd d n) s (fun t s =>
    match s.readReg s.curCore s.curSlot n.toNat with
    | .ok v => writeX d v t s
    | .error e => regFail (.sysrd d n) e)

/-- R65, R66, R323. -/
def execSyswr (a : Reg) (n : BitVec 12) (s : State) : Out :=
  issue (.syswr a n) s (fun t s =>
    match s.writeReg s.curCore s.curSlot n.toNat (t.rx a) with
    | .ok s' => .ok s'
    | .error e => regFail (.syswr a n) e)

/-- A register write that is refused writes nothing (DEDUCED, assumption 40). -/
def orSame (s : State) (r : Except RegErr State) : Out := .next (match r with | .ok s' => s' | .error _ => s)

/-- R66 (DEDUCED, assumption 40). -/
def execTswWrite (core slot : Nat) (v : Word) (s : State) : Out :=
  orSame s (match (s.thr core slot).writeTsw slot v with
    | .ok t => .ok (s.putThr core slot t)
    | .error e => .error e)

/-- R254. A write of TCCBASE or TCCCTL (DEDUCED, assumption 40). -/
def execTccctlWrite (core reg : Nat) (v : Word) (s : State) : Out :=
  orSame s (if reg = 0x210 ∨ reg = 0x211 then s.writeCoreReg core reg v else .error .illop)

/-- R337 (DEDUCED, assumption 40). -/
def execQosWrite (core reg : Nat) (v : Word) (s : State) : Out :=
  orSame s (if 0x240 ≤ reg ∧ reg ≤ 0x242 then s.writeCoreReg core reg v else .error .illop)

/-- R351 (DEDUCED, assumption 40). -/
def execSnapctlWrite (core : Nat) (v : Word) (s : State) : Out := orSame s (s.writeCoreReg core 0x220 v)

/-- R163, R65. The control die writes SCOPEPOL; a value with a reserved bit set is not written (DEDUCED, assumption 40), and a FENCE that waits
keeps the check it passed. -/
def execScopepolWrite (vf : Nat) (v : Word) (s : State) : Out :=
  orSame s (if scopepolOk v then .ok (s.writeScopepol vf v) else .error .illop)

/-! ## XEC, ICINV, TLBINV, SNAP (R324 to R327, R329) -/

/-- XEC (R324). -/
def xec (i : Instr) (r a : Reg) (t : Thread) (s : State) : Act :=
  let k := (t.rx r).toNat
  if s.curSlot ≠ 15 then .priv i
  else if 15 ≤ k then .fail cILLCFG (t.rx r)
  else
    let u := s.thr s.curCore k
    if u.st != .trapped then .ok (s.putMe { t with bs := bsABSENT })
    else
      let w : Option Word32 := if a = 0 then none else some ((t.rx a).setWidth 32)
      .ok ((s.putThr s.curCore k { u with xw := w }).modThr s.curCore s.curSlot (fun t => { t with bs := bsOK }))

/-- R324. -/
def execXec (r a : Reg) (s : State) : Out := issue (.xec r a) s (fun t s => xec (.xec r a) r a t s)

/-- Invalidate lines in every instruction cache of the package (R326; DESIGN CHOICE, assumption 9). -/
def State.dropLines (s : State) (f : Line → Bool) : State :=
  { s with cores := s.cores.map (fun (x : Nat × Core) => (x.1, { x.2 with icache := x.2.icache.filter (fun l => !f l) })) }

/-- The tenant address of an ea. -/
def Thread.taOf (t : Thread) (ea : Word) : Nat := segBase (t.segOf ea) + eaOffset ea

/-- R326. Its address has been checked and its wait is over. Host stores that have been performed reach the host before it (R159;
DESIGN CHOICE, assumption 56). -/
def execIcinv (a : Reg) (s : State) : Out :=
  issue (.icinv a) s (fun t s =>
    let vf := s.owner s.curCore
    .ok (s.landEvery.dropLines (fun l => l.vf == vf && (a == 0 || l.ta == t.taOf (t.rx a) / 128 * 128))))

/-- Steps 4 and 6 of R119 for TLBINV, which must name paged space (R327). -/
def tlbinvFault (a : Reg) (t : Thread) : Option Trap :=
  let ea := t.rx a
  let g := t.segOf ea
  let ta := segBase g + eaOffset ea
  if a = 0 then none
  else if segLimit g ≤ eaOffset ea ∨ 2 ^ 52 ≤ ta then some (cSEGLIM, ea)
  else if taOnChip ta then some (cBADWIN, ea)
  else none

/-- R327. An access that used an entry was performed when it was translated. -/
def execTlbinv (a : Reg) (s : State) : Out :=
  issue (.tlbinv a) s (fun t s =>
    match tlbinvFault a t with
    | some tr => .trap ⟨tr, none⟩
    | none =>
      let vf := s.owner s.curCore
      .ok (s.dropTlb (fun e => e.vf == vf && (a == 0 || e.maps vf (t.taOf (t.rx a))))))

/-- The trigger of R351, from the pin or from SNAP: one that is under way is joined (DEDUCED, assumption 30). -/
def State.trigger (s : State) (pin : Bool) : Nat × State :=
  match s.snapAt with
  | some n => (n, { s with snapPin := s.snapPin && pin })
  | none => (s.cycle + Config.snapDelay, { s with snapAt := some (s.cycle + Config.snapDelay), snapPin := pin })

/-- R329 (DEDUCED, assumption 30). -/
def execSnap (d : Reg) (s : State) : Out :=
  issue (.snap d) s (fun t s =>
    if !t.sys then .priv (.snap d)
    else let (n, s') := s.trigger false; writeX d (BitVec.ofNat 64 n) t s')

/-! ## HALT (R311, R330) -/

/-- The service word of R311. -/
def serviceWord (kind slot entry : Nat) : Word := BitVec.ofNat 64 (entry * 2 ^ 16 + kind * 2 ^ 8 + slot)

/-- What slot 15 is asked to do next. -/
inductive Service where
  | trap (slot : Nat)
  | request (q : SvcReq)
  deriving DecidableEq, Repr

/-- The next service of a core (R311). A restore whose fill has failed waits until TCCERR is cleared (R255; DEDUCED, assumption 22). -/
def Core.nextService (x : Core) : Option Service :=
  match (List.range 15).find? (fun k => (x.slot k).st == .trapped && !(x.slot k).returned) with
  | some k => some (.trap k)
  | none => (x.svc.find? (fun q => (x.slot q.slot).st != .trapped && !(q.failed && x.tccErr.getLsbD 63))).map .request

/-- Mark a service returned, and its word. -/
def Core.takeService (x : Core) (v : Service) : Word × Core :=
  match v with
  | .trap k => (serviceWord 0 k 0, x.putSlot k { x.slot k with returned := true })
  | .request q =>
    (serviceWord q.kind q.slot q.entry,
     { x with svc := x.svc.erase q, svcLast := aset x.svcLast q.slot q.entry })

/-- HALT with a service pending (R330). -/
def State.haltDone (s : State) (c : Nat) : Option (Word × State) :=
  (s.core c).nextService.map (fun v => let (w, x) := (s.core c).takeService v; (w, s.putCore c x))

/-- HALT. -/
def halt (i : Instr) (d : Reg) (s : State) : Act :=
  if s.curSlot ≠ 15 then .priv i
  else
    match s.haltDone s.curCore with
    | some (w, s') => writeX d w s'.me s'
    | none => .ok (s.fly i { core := s.curCore } false false .asleep)

/-- R330. -/
def execHalt (d : Reg) (s : State) : Out := issue (.halt d) s (fun _ s => halt (.halt d) d s)

/-! ## SWAPCTX (R328) -/

/-- What a swap comes to. -/
inductive Swap where
  /-- it goes on later: what it needs has not happened, or not all lines of a write-back or fill are paid for -/
  | wait (s : State)
  | bs (b : BitVec 3) (s : State)

/-- The thread of a slot may be saved now. -/
def State.maySave (s : State) (c k : Nat) : Bool := !s.holdsLease c k && (s.thr c k).savable

/-- Slots 0 to 10 of a core that members of a gang occupy. -/
def Core.membersOf (x : Core) (g : Gang) : List Nat :=
  (List.range 11).filter (fun k => ((x.slot k).st != .idle || (x.slot k).held) && (x.slot k).member &&
    (x.slot k).tag == ⟨g.handle, g.block⟩)

/-- Every member of a gang that is being taken out has been saved or has ended, those that have been started meanwhile as well. -/
def State.allOut (s : State) (g : Gang) : Bool :=
  ((g.saving.map (·.1)).getD []).all (fun m => (s.core m.1).free m.2.1) && g.cores.all (fun c => ((s.core c).membersOf g).isEmpty)

/-- The gang is out once no member is left (R252). -/
def State.gangOut (s : State) (c : Nat) : State :=
  s.modCluster (clusterOf c) (fun k => { k with gangs := k.gangs.map (fun g =>
    match g.saving with
    | some (_, h) =>
      if s.allOut g then
        { g with saving := none, claim := some h
                 out := some (s.outOf g, s.ungated) }
      else g
    | none => g) })

/-- The context of an entry, filled from its backing if it is not resident (R254, R328). -/
inductive Fill where
  | ok (x : Ctx) (s : State)
  | absent (s : State)
  | wait (s : State)

def State.fill (s : State) (c e k : Nat) : Fill :=
  match alook (s.core c).tcc e with
  | none => .absent s
  | some ctx =>
    let dropped := fun (s : State) => s.modCore c (fun x => x.backDone false e)
    let checked := fun (x : Option Ctx) (s : State) =>
      match x with
      | some x => if x.malformed k then Fill.absent (dropped s) else .ok x s
      | none => .absent (dropped s)
    if (s.core c).resident.contains e then checked (some ctx) s
    else
      let (s1, paid) := s.payBack c false e
      if !paid then .wait s1
      else
        match s1.backRead c (tccN (s.core c).tccCtl) e 256 0 with
        | .ok w => checked (Ctx.ofWords ctx w) s1
        | .fail s2 code ta => .absent (s2.tccFail c code ta)
        | .wait s2 => .wait s2

/-- The gang of the context is being restored, so its thread waits for the others (R253). -/
def State.restoring (s : State) (c k e : Nat) : Bool :=
  (s.cluster (clusterOf c)).gangs.any (fun g => match g.restoring with | some ms => ms.contains (c, k, e) | none => false)

/-- The entry holds no context any more. -/
def Core.dropEntry (x : Core) (e : Nat) : Core :=
  { (x.backDone false e).backDone true e with tcc := adel x.tcc e, resident := x.resident.filter (· != e) }

/-- SWAPCTX.out. A failed write-back that leaves no room saves nothing: BS FULL (DEDUCED, assumption 22). -/
def State.swapOut (s : State) (c k e : Nat) : Swap :=
  let x := s.core c
  if (x.slot k).held then .bs bsBUSY s
  else if (x.slot k).st == .idle then .bs bsABSENT s
  else if (alook x.tcc e).isSome then .bs bsFULL s
  else if !s.maySave c k then .wait s
  else
    match s.tccRoom c with
    | .wait s1 => .wait s1
    | .fail s' code ta => .bs bsFULL (s'.tccFail c code ta)
    | .ok s1 =>
      let (ctx, s2) := s1.takeOut c k
      .bs bsOK ((s2.tccPut c e ctx).gangOut c)

/-- SWAPCTX.in. -/
def State.swapIn (s : State) (c k e : Nat) : Swap :=
  let x := s.core c
  if (x.slot k).held then .bs bsBUSY s
  else if (alook x.tcc e).isNone then .bs bsEMPTY s
  else if (x.slot k).st != .idle then .bs bsBUSY s
  else
    match s.fill c e k with
    | .wait s' => .wait s'
    | .absent s' => .bs bsABSENT s'
    | .ok ctx s => .bs bsOK ((s.modCore c (fun x => x.dropEntry e)).putBack c k ctx (s.restoring c k e))

/-- SWAPCTX. -/
def State.swapBoth (s : State) (c k e : Nat) : Swap :=
  let x := s.core c
  if (x.slot k).held then .bs bsBUSY s
  else if (x.slot k).st == .idle then .bs bsABSENT s
  else if (alook x.tcc e).isNone then .bs bsEMPTY s
  else
    match s.fill c e k with
    | .wait s' => .wait s'
    | .absent s' => .bs bsABSENT s'
    | .ok ctx s =>
      if !s.maySave c k then .wait s
      else
        match (if x.resident.contains e then .ok s else s.tccRoom c) with
        | .wait s' => .wait s'
        | .fail s' code ta => .bs bsFULL (s'.tccFail c code ta)
        | .ok s1 =>
          let (mine, s2) := s1.takeOut c k
          .bs bsOK (((s2.putBack c k ctx (s.restoring c k e)).tccPut c e mine).gangOut c)

/-- The value limits of SWAPCTX, then the swap. A swap that waits changes nothing but what it pays for its lines, and is tried again
(DEDUCED, assumption 42). -/
def swapctx (e a : Reg) (f : Nat → Nat → Swap) (t : Thread) (s : State) : Act :=
  let c := s.curCore
  let x := s.core c
  let k := (t.rx a).toNat
  let n := (t.rx e).toNat
  if 15 ≤ k then .fail cILLCFG (t.rx a)
  else if tccN x.tccCtl ≤ n then .fail cILLCFG (t.rx e)
  else if x.dispatcherEntry n && alook x.svcLast k != some n then .fail cILLCFG (t.rx e)
  else
    match f k n with
    | .wait s' => .gone s'
    | .bs b s' => .ok (s'.modThr c s.curSlot (fun t => { t with bs := b }))

/-- R328. -/
def execSwapctx (e a : Reg) (s : State) : Out :=
  issue (.swapctx e a) s (fun t s => swapctx e a (s.swapBoth s.curCore) t s)

/-- R328. -/
def execSwapctxOut (e a : Reg) (s : State) : Out :=
  issue (.swapctxOut e a) s (fun t s => swapctx e a (s.swapOut s.curCore) t s)

/-- R328. -/
def execSwapctxIn (e a : Reg) (s : State) : Out :=
  issue (.swapctxIn e a) s (fun t s => swapctx e a (s.swapIn s.curCore) t s)

/-! ## Debugger stops (R319) -/

/-- R319. A stop of slot 15 is a double trap (R313; DEDUCED, assumption 19). -/
def execDebuggerStop (core slot : Nat) (s : State) : Out :=
  .next (if slot = 15 then
      (if (s.thr core 15).st == .run then s.doubleTrap core (s.thr core 15).pc (causeWord cBRK false 0) else s)
    else s.interrupt core slot cBRK 1)

/-! ## The all-asleep detector (R303, R315, R316) -/

/-- A thread of a tenant counts as asleep: it sleeps, or waits in a collective with its window exhausted (DEDUCED,
assumption 44). One whose EXIT waits is Waiting (R93, R241). -/
def Thread.countsAsleep (t : Thread) : Bool :=
  t.st == .idle && !t.held ||
  (t.st == .run && !t.frozen && t.yieldUntil.isNone && t.fetchPark.isNone && t.stop.isNone &&
   t.pend.all (fun p => p.phase == .asleep || p.phase == .retry || (p.phase == .queued && keepsPlace p.ins && p.ins != .exit)) &&
   (t.asleep || t.pend.any (fun p => p.cover == 0)) &&
   !t.pend.any (fun p => match p.ins with | .gvtrdW _ _ => true | _ => false))

/-- A core is asleep for its tenant: no thread on it is in rotation, slot 15's included (R303; DEDUCED, assumption 44). -/
def Core.allAsleep (x : Core) : Bool :=
  (List.range 16).all (fun k => (x.slot k).countsAsleep) &&
  !x.tcc.any (fun e => x.dispatcherEntry e.1) && x.arrivals.isEmpty && x.offers.isEmpty && x.hwHeld.isEmpty &&
  (match x.vt with | some v => v.log.isEmpty && v.out.isEmpty | none => true)

/-- The detector's AND for a virtual function within this package (DEDUCED, assumption 44). -/
def State.allAsleep (s : State) (vf : Nat) : Bool :=
  s.cores.all (fun c => s.owner c.1 != vf || c.2.allAsleep) &&
  s.packets.all (fun m => s.owner m.src != vf) && s.timed.all (fun m => m.vf != vf) &&
  s.clusters.all (fun c => (c.2.engineQ ++ c.2.engineRun).all (fun p => p.vf != vf) && c.2.xfers.all (fun x => x.vf != vf) &&
    c.2.cmds.all (fun x => x.vf != vf)) &&
  s.traces.all (fun t => t.2.vf != vf || (t.2.queued.isNone && (t.2.run.map (·.decided)).getD true))

/-- The lowest-numbered core of a virtual function whose slot 0 is not Idle (DEDUCED, assumption 44). -/
def State.lowestLive (s : State) (vf : Nat) : Option Nat :=
  (s.cores.find? (fun c => s.owner c.1 == vf && (c.2.slot 0).st != .idle)).map (·.1)

/-- A sample of the detector, one in a cycle. Other packages of a wide tenant may hold the AND down, or the lowest core (DEDUCED,
assumption 44, DESIGN CHOICE, assumption 5). -/
def State.sample (s : State) (vf : Nat) : State :=
  if (s.vf vf).sampledAt = some s.cycle then s
  else
  let s := s.modVf vf (fun v => { v with sampledAt := some s.cycle })
  let (w, s) := if s.wide vf then s.freeWord else ((3 : Word), s)
  let now := s.allAsleep vf && w.getLsbD 0
  let v := s.vf vf
  if !now then s.modVf vf (fun v => { v with asleepHeld := false, asleepRaised := false })
  else if !v.asleepHeld then s.modVf vf (fun v => { v with asleepHeld := true })
  else if v.asleepRaised then s
  else
    let s1 := s.modVf vf (fun v => { v with asleepRaised := true })
    match (if w.getLsbD 1 then s1.lowestLive vf else none) with
    | some c => s1.interrupt c 0 cASLEEP 0
    | none => s1.report ⟨0, 0, BitVec.ofNat 64 cASLEEP.toNat, 0, BitVec.ofNat 64 vf⟩

/-- R315, R316. -/
def execAsleepSample (vf : Nat) (s : State) : Out := .next (if s.cycle % 1024 = 0 then s.sample vf else s)

/-- Between samples: an AND that ceases to hold is noted (R315, R316). -/
def State.watchAsleep (s : State) : State :=
  let out := s.vfs.filter (fun v => (v.2.asleepHeld || v.2.asleepRaised) && !s.allAsleep v.1)
  out.foldl (fun s v => s.modVf v.1 (fun v => { v with asleepHeld := false, asleepRaised := false })) s

/-! ## The firmware's service loop (R312, R332, R358) -/

/-- The service loop sleeps in HALT (DESIGN CHOICE, assumption 18). -/
def State.loopSleeps (s : State) (c : Nat) : State :=
  (s.modCore c (fun x => { x with firmware := true, serving := none })).seat c 15 (haltThread c s.cycle)

/-- Report a slot's trap to the control die, unless it has been told of this one; the thread stays Trapped. -/
def State.reportTrap (s : State) (c k : Nat) : State :=
  let t := s.thr c k
  if t.told then s else (s.modThr c k (fun t => { t with told := true })).report ⟨c, k, t.cause, t.epc, t.tval⟩

/-- The trap codes a fault routine receives (R332). -/
def routineCode (code : Nat) : Bool :=
  decide (3 ≤ code ∧ code ≤ 6) || decide (8 ≤ code ∧ code ≤ 0x0C) || code == 0x10 || code == 0x11 || code == 0x18

/-- Slot 15 as a fault routine finds it; what R332 leaves unspecified is free (DESIGN CHOICE, assumption 18). -/
def routineThread (r : Routine) (k : Nat) (t : Thread) (c free now : Nat) : Thread :=
  { st := .run, sys := true, pc := r.pc, g := r.segs, back := now + 1, home := c, homeSlot := 15
    fcsr := BitVec.ofNat 64 ((Config.freeWord (free + 64)).toNat % 2 ^ 8)
    ovfc := BitVec.ofNat 64 ((Config.freeWord (free + 65)).toNat % 2 ^ 32)
    mxsb := BitVec.ofNat 64 ((Config.freeWord (free + 66)).toNat % 2 ^ 52)
    live := BitVec.ofNat 64 ((Config.freeWord (free + 67)).toNat / 2 * 2)
    bs := BitVec.ofNat 3 ((Config.freeWord (free + 68)).toNat % 7)
    cbk := Vector.ofFn (fun i : Fin 16 => Config.freeWord (free + 69 + i.val))
    x := Vector.ofFn (fun i : Fin 32 =>
      match i.val with
      | 0 => 0
      | 1 => returnPc
      | 10 => BitVec.ofNat 64 k
      | 11 => t.cause
      | 12 => t.epc
      | 13 => t.tval
      | n => Config.freeWord (free + n))
    f := Vector.ofFn (fun i : Fin 32 => Config.freeWord (free + 32 + i.val)) }

/-- TRAP 0xF01 (R332; DESIGN CHOICE, assumption 18). -/
def State.register (s : State) (c k : Nat) : State :=
  let t := s.thr c k
  let pc := t.rx 7
  let s1 := if k = 0 ∧ !t.mig ∧ (s.vf (s.owner c)).routines then
      s.modCore c (fun x =>
        let rest := x.routines.filter (fun r => r.tag != t.tag)
        { x with routines := if pc = 0 then rest else rest ++ [⟨t.tag, pc, t.g⟩] })
    else s
  (s1.modThr c k (fun t => { t with epc := t.epc + 4 })).resumed c k

/-- The loop serves a trap by its cause (R358; DESIGN CHOICE, assumption 18). -/
def State.serveTrap (s : State) (c k : Nat) : State :=
  let t := s.thr c k
  let code := t.cause.toNat % 256
  if code = cTRAP.toNat ∧ t.tval = 0xF01 then s.register c k
  else
    match (if routineCode code && (s.vf (s.owner c)).routines then (s.core c).routines.find? (fun r => r.tag == t.tag) else none) with
    | some r =>
      { (s.modCore c (fun x => { x with serving := some k })).seat c 15 (routineThread r k t c s.free s.cycle) with
        free := s.free + 96 }
    | none => s.reportTrap c k

/-- The word that ends a thread through EXIT (R325). -/
def exitWord : Word32 := 0xD0000003

/-- ERET of the loop: the slot resumes if it is Trapped and its trap has been returned (R322). -/
def State.loopEret (s : State) (c k : Nat) : State :=
  let t := s.thr c k
  if t.st == .trapped && t.returned then s.resumed c k else s

/-- XEC of the loop (R324). -/
def State.loopXec (s : State) (c k : Nat) (w : Word32) : State :=
  s.modThr c k (fun t => if t.st = .trapped then { t with xw := some w } else t)

/-- A fault routine has returned (R332; DESIGN CHOICE, assumption 18). The slot may have left Trapped meanwhile (R243), or the
routine may have resumed it. -/
def State.routineReturn (s : State) (c k : Nat) : State :=
  let u := s.thr c 15
  let s1 :=
    if u.rx 10 = 0 then (s.modThr c k (fun t => { t with epc := u.rx 12 })).loopEret c k
    else if u.rx 10 = 1 then (s.loopXec c k exitWord).loopEret c k
    else if (s.thr c k).st == .trapped && (s.thr c k).returned then s.reportTrap c k
    else s
  s1.loopSleeps c

/-- While a fault routine runs, a further trap of the core is not served, but the control die is told of it (R332; DEDUCED,
assumption 18). -/
def State.reportWaiting (s : State) (c : Nat) : State :=
  match (List.range 15).find? (fun k =>
      let t := s.thr c k
      t.st == .trapped && !t.returned && !t.told) with
  | some k => s.reportTrap c k
  | none => s

/-- A restore that the loop was asked for and whose fill has failed is kept, to be tried again (R255; DEDUCED, assumption 22). -/
def State.retryRestore (s : State) (c : Nat) (q : SvcReq) : State :=
  if (s.core c).tccErr.getLsbD 63 && q.kind == 2 && (alook (s.core c).tcc q.entry).isSome then
    s.modCore c (fun x => { x with svc := x.svc ++ [{ q with failed := true }] })
  else s

/-- The loop serves one service, or takes back the core from a routine that has returned (DESIGN CHOICE, assumption 18). -/
def State.firmwareTurn (s : State) (c : Nat) : State :=
  let x := s.core c
  if !x.firmware || x.stopped then s
  else
    match x.serving with
    | some k =>
      let u := x.slot 15
      if u.pc = returnPc ∧ u.pend.isEmpty then s.routineReturn c k else s.reportWaiting c
    | none =>
      match x.nextService with
      | none => s
      | some (.trap k) =>
        let (_, x') := x.takeService (.trap k)
        (s.putCore c x').serveTrap c k
      | some (.request q) =>
        let (_, x') := x.takeService (.request q)
        let s1 := s.putCore c x'
        match (if (x.slot q.slot).held then .wait s1 else if q.kind = 1 then s1.swapOut c q.slot q.entry else s1.swapIn c q.slot q.entry) with
        | .wait s2 => s2.modCore c (fun y => { y with svc := x.svc, svcLast := x.svcLast })
        | .bs b s2 => if b = bsABSENT then s2.retryRestore c q else s2

/-- The trap of a slot has been reported, and stands. -/
def State.reported (s : State) (c k : Nat) : Bool :=
  let t := s.thr c k
  t.st == .trapped && t.returned && t.told

/-- The party that a report was passed to has the loop resume the Trapped thread, after XEC of a word if it gives one (R358). The
loop does so while it serves nothing else. -/
def State.directed (s : State) (c k : Nat) (w : Option Word32) : State :=
  if (s.core c).firmware && !(s.core c).stopped && (s.core c).serving.isNone && s.reported c k then
    (match w with | some v => s.loopXec c k v | none => s).loopEret c k
  else s

end Sys2Proof.Machine
end

