-- ==== Sys2Proof/Machine/Collect.lean ====
section
/-!
DEFINITION. Machine/Collect.lean: the collectives CRED and CBCAST (R346 to R348).
-/
namespace Sys2Proof.Machine

/-- The domain of a scope for a core (R346): the core, its cluster, the package, or the whole virtual function. -/
def domainOf (scope core : Nat) : Nat := match scope with | 0 => core | 1 => clusterOf core | _ => 0

/-- A core lies in a domain. -/
def inDomain (scope dom core : Nat) : Bool := match scope with | 0 => core == dom | 1 => clusterOf core == dom | _ => true

/-- Threads of a virtual function in a domain whose slots are not Idle. A tenant on several packages has others beyond this
one: how many is free (DEDUCED, assumption 25, DESIGN CHOICE, assumption 5). -/
def State.liveIn (s : State) (vf scope dom : Nat) : Nat × State :=
  let here := (s.cores.filter (fun c => s.owner c.1 == vf && inDomain scope dom c.1)).foldl
    (fun n c => n + ((List.range 15).filter (fun k => (c.2.slot k).st != .idle)).length) 0
  if 3 ≤ scope && s.wide vf then let (w, s') := s.freeWord; (here + w.toNat, s') else (here, s)

/-- CRED's identity (R347). -/
def credIdentity (op : Nat) (int : Bool) : Word :=
  match int, op with
  | false, 0 => 0
  | false, 1 => 0x7F80_0000
  | false, _ => 0xFF80_0000
  | true, 0 => 0
  | true, 1 => 0x7FFF_FFFF_FFFF_FFFF
  | true, _ => 0x8000_0000_0000_0000

/-- One integer combination. -/
def credInt (op : Nat) (a b : Word) : Word :=
  match op with
  | 0 => a + b
  | 1 => if b.slt a then b else a
  | _ => if a.slt b then b else a

/-- One level of a tree of doublewords: neighbours are combined, an odd last value passes up. -/
def pairLevel (f : Word → Word → Word) : List Word → List Word
  | a :: b :: r => f a b :: pairLevel f r
  | l => l

/-- The tree of R194 over doublewords: `n` bounds its levels. -/
def pairTree (f : Word → Word → Word) : Nat → List Word → Word
  | 0, l => l.headD 0
  | n + 1, l => if l.length ≤ 1 then l.headD 0 else pairTree f n (pairLevel f l)

/-- The result of CRED over the values in order. -/
def credResult (op : Nat) (int : Bool) (vs : List Word) : Word :=
  let f := fun (a b : Word) =>
    if int then credInt op a b else ((redOp 0 op (a.setWidth 32) (b.setWidth 32)).v).setWidth 64
  pairTree f vs.length vs

/-- Arrivals in ascending core and slot: insertion. -/
def arrivalPut (a : Ref × Word) : List (Ref × Word) → List (Ref × Word)
  | [] => [a]
  | b :: r => if a.1.core < b.1.core ∨ (a.1.core = b.1.core ∧ a.1.slot < b.1.slot) then a :: b :: r else b :: arrivalPut a r

/-- The open instance an arrival belongs to. -/
def State.instanceOf (s : State) (vf inst scope dom : Nat) : Option Collective :=
  s.collectives.find? (fun c => c.vf == vf && c.inst == inst && c.scope == scope && c.dom == dom)

/-- The instance limits of R346 are reached. -/
def State.instancesFull (s : State) (vf : Nat) : Bool :=
  decide (1024 ≤ s.collectives.length) || decide (64 ≤ (s.collectives.filter (fun c => c.vf == vf)).length)

/-- Put an instance back with its arrivals, or take it away. -/
def State.putInstance (s : State) (c : Collective) : State :=
  { s with collectives := s.collectives.map (fun x =>
      if x.vf = c.vf ∧ x.inst = c.inst ∧ x.scope = c.scope ∧ x.dom = c.dom then c else x) }

def State.dropInstance (s : State) (c : Collective) : State :=
  { s with collectives := s.collectives.filter (fun x =>
      !(x.vf == c.vf && x.inst == c.inst && x.scope == c.scope && x.dom == c.dom)) }

/-- A participant names the root (R348). -/
def isRoot (p : Pending) : Bool := match p.ins with | .cbcast _ _ _ _ w => fldN w.w2 3 1 == 1 | _ => false

/-- Places of a buffer's doublewords. -/
def State.bufferPlaces (s : State) (p : Pending) (k : Ask) : Except (Option (Byte × Nat)) (List Nat) :=
  placesOf (s.recordPlace p.ops.core p.ops { k with sys := p.ops.sys }) (p.ops.n / 8)

/-- The block tag of the thread that an instruction belongs to, wherever it is. -/
def State.tagOf (s : State) (r : Ref) : Tag :=
  if (s.pending r).isSome then (s.thr r.core r.slot).tag
  else ((s.cores.findSome? (fun x => x.2.threads.find? (fun t => (t.pending r.id).isSome))).map (·.tag)).getD {}

/-- Write a buffer's doublewords, poison kept, full/empty bits unchanged. -/
def State.bufferWrite (s : State) (vf : Nat) (g : Tag) (ta : Nat) (locs : List Nat) (es : List Entry) : State :=
  (locs.zip es).zipIdx.foldl (fun s x => (s.putEntry x.1.1 x.1.2).track vf g (ta + 8 * x.2) x.1.1 true) s

/-- Pay for lines of the root's bytes that go to other clusters, as far as the network bucket goes (R335); `stage` of its operands
counts those that have been paid. -/
def State.payNet (s : State) (r : Ref) (core : Nat) : Nat → State
  | 0 => s
  | n + 1 =>
    if (s.core core).hasToken 1 then
      ((s.spend core 1).modPendAny r (fun p => { p with ops := { p.ops with stage := p.ops.stage + 1 } })).payNet r core n
    else s

/-- The lines of a broadcast are paid for: every buffer in memory, and the root's bytes on their way to other clusters (R335): the
state, and whether all is paid. -/
def State.bcastPay (s : State) (c : Collective) (ps : List (Ref × Pending)) : State × Bool :=
  ps.foldl (fun (a : State × Bool) x =>
    let o := x.2.ops
    let (s1, ok) := a.1.payRange x.1 o.core o.ta (o.n / 8) { r := isRoot x.2, w := !isRoot x.2, sys := o.sys }
    let lines := if isRoot x.2 ∧ 2 ≤ c.scope then (o.n + 127) / 128 else 0
    let s2 := s1.payNet x.1 o.core (lines - o.stage)
    (s2, a.2 && ok && decide (lines ≤ ((s2.pendingAny x.1).map (·.ops.stage)).getD lines))) (s, true)

/-- Complete a participant. -/
def State.participantDone (s : State) (r : Ref) (v : Word) : State :=
  s.modPendAny r (fun p =>
    match p.ins with
    | .cred d _ _ _ | .cbcast d _ _ _ _ => { p with phase := .done { x := [(d, v)], bs := some bsOK } }
    | _ => p)

def State.participantFault (s : State) (r : Ref) (code : Byte) (tv : Word) : State :=
  s.modPendAny r (fun p => { p with phase := .fault code tv })

/-- A participant's buffer faults at doubleword i. -/
def State.bufferFault (s : State) (r : Ref) (p : Pending) (e : Option (Byte × Nat)) : State :=
  let (code, i) := e.getD (0, 0)
  s.participantFault r code (p.ops.ea + BitVec.ofNat 64 (8 * i))

/-- The places of a buffer are not known yet. -/
def bufferWaits (x : Except (Option (Byte × Nat)) (List Nat)) : Bool := match x with | .error none => true | _ => false

/-- The instance of CBCAST ends: the root's bytes reach every other buffer. A participant whose own buffer faults raises
that fault; a root that cannot read its buffer leaves the others to complete without bytes of it being written
(DEDUCED, assumption 25). -/
def State.bcastEnd (s : State) (c : Collective) : State :=
  let ps := c.arrived.filterMap (fun a => (s.pendingAny a.1).map (fun p => (a, p)))
  match ps.find? (fun x => isRoot x.2) with
  | none => s
  | some (ra, rp) =>
    let read := s.bufferPlaces rp { r := true }
    let writes := (ps.filter (fun x => x.1.1 != ra.1)).map (fun x => (x, s.bufferPlaces x.2 { w := true }))
    let (s0, paid) := s.bcastPay c (ps.map (fun x => (x.1.1, x.2)))
    if bufferWaits read || writes.any (fun x => bufferWaits x.2) then s
    else if !paid then s0
    else
      let s2 := match read with
        | .ok l => l.zipIdx.foldl (fun (s : State) (x : Nat × Nat) => s.track c.vf (s.tagOf ra.1) (rp.ops.ta + 8 * x.2) x.1 false)
            (s0.participantDone ra.1 ra.2)
        | .error e => s0.bufferFault ra.1 rp e
      (writes.foldl (fun (s : State) x =>
        let r := x.1.1.1
        match x.2, read with
        | .error e, _ => s.bufferFault r x.1.2 e
        | .ok locs, .ok l =>
          (s.bufferWrite c.vf (s.tagOf r) x.1.2.ops.ta locs (l.map (fun loc => s0.entryAt loc))).participantDone r ra.2
        | .ok _, .error _ => s.participantDone r ra.2) s2).dropInstance c

/-- The instance of a CBCAST whose root is on another package ends: how much it sends, and what, is free (R346; DESIGN CHOICE,
assumption 25). -/
def State.bcastFar (s : State) (c : Collective) : State :=
  let ps := c.arrived.filterMap (fun a => (s.pendingAny a.1).map (fun p => (a, p)))
  let writes := ps.map (fun x => (x, s.bufferPlaces x.2 { w := true }))
  let (s0, paid) := s.bcastPay c (ps.map (fun x => (x.1.1, x.2)))
  if writes.any (fun x => bufferWaits x.2) then s
  else if !paid then s0
  else
    let f := s0.free
    let es : List Entry := (List.range ((Config.freeWord (f + 1)).toNat % 513)).map (fun i =>
      ⟨Config.freeWord (f + 2 + i), Config.freeBit (f * 65536 + i)⟩)
    (writes.foldl (fun (s : State) x =>
      match x.2 with
      | .error e => s.bufferFault x.1.1.1 x.1.2 e
      | .ok locs =>
        (s.bufferWrite c.vf (s.tagOf x.1.1.1) x.1.2.ops.ta locs es).participantDone x.1.1.1 (Config.freeWord f))
      { s0 with free := f + 515 }).dropInstance c

/-- Every arrival of an instance raises ILLCFG (R348; DEDUCED, assumption 25). -/
def State.collectiveFail (s : State) (c : Collective) : State :=
  (c.arrived.foldl (fun s a => match s.pendingAny a.1 with
    | some p => s.participantFault a.1 cILLCFG (wordVal p.ins)
    | none => s) s).dropInstance c

/-- What the participants of an instance that are on other packages have done: none where the instance has none (R346). -/
def State.farOf (s : State) (c : Collective) : Option Bool :=
  if 3 ≤ c.scope ∧ s.wide c.vf then Config.farArrivals c.inst s.cycle else none

/-- Every participant of an instance completes with a value. -/
def State.collectiveDone (s : State) (c : Collective) (v : Word) : State :=
  (c.arrived.foldl (fun s a => s.participantDone a.1 v) s).dropInstance c

/-- A collective instance in which W1 participants have arrived ends (R346). Those that are missing here may have arrived on other
packages: what they bring is free (DESIGN CHOICE, assumption 25). -/
def State.collectiveEnd (s : State) (c : Collective) : State :=
  if c.arrived.length < c.n then
    match s.farOf c with
    | none => s
    | some false => s.collectiveFail c
    | some true =>
      if c.bcast then
        (if c.arrived.any (fun a => ((s.pendingAny a.1).map isRoot).getD false) then s.bcastEnd c else s.bcastFar c)
      else let (w, s1) := s.freeWord; s1.collectiveDone c w
  else if c.bcast then s.bcastEnd c
  else s.collectiveDone c (credResult (fldN c.ctl 0 2) (fldN c.ctl 2 1 == 1) (c.arrived.map (·.2)))

/-- Arrive at an open instance. -/
def State.arriveAt (s : State) (r : Ref) (i : Instr) (v : Word) (c : Collective) (n : Nat) (ctl : Word32) (bcast : Bool) : State :=
  if c.bcast != bcast then s.lateFail r cILLCFG (wordVal i)
  else if c.n ≠ n then s.lateFail r cILLCFG (BitVec.ofNat 64 n)
  else if !bcast && (fldN c.ctl 0 3 != fldN ctl 0 3) then s.lateFail r cILLCFG (wordVal i)
  else
    let c' := { c with arrived := arrivalPut (r, v) c.arrived }
    let roots : Nat := (c'.arrived.filter (fun (a : Ref × Word) => ((s.pendingAny a.1).map isRoot).getD false)).length
    let s1 := s.putInstance c'
    if bcast && (decide (1 < roots) || (decide (c'.arrived.length = n) && roots == 0)) then s1.collectiveFail c'
    else s1.collectiveEnd c'

/-- The arrival of a collective: n, its instance, and a first arrival that opens it (DEDUCED, assumption 25). One that leaves its
cluster costs a network token (R335). -/
def collectiveArrive (i : Instr) (d : Reg) (inst n : Nat) (ctl : Word32) (bcast : Bool) (ops : Operands) (s : State) : Act :=
  let vf := s.owner s.curCore
  let scope := fldN ctl 4 3
  let dom := domainOf scope s.curCore
  let (live, s) := s.liveIn vf scope dom
  let no := fun (b : BitVec 3) => Act.ok (s.flyDone i { bs := some b })
  if live < n then no bsOVERCOUNT
  else
    let s := if 2 ≤ scope then s.spend s.curCore 1 else s
    match s.instanceOf vf inst scope dom with
    | none =>
      if s.instancesFull vf then no bsFULL
      else
        let r : Ref := ⟨s.curCore, s.curSlot, s.nextId⟩
        let c : Collective := ⟨vf, inst, scope, dom, n, ctl, bcast, [(r, ops.a)]⟩
        .ok { s.fly i ops false false .queued with collectives := s.collectives ++ [c] }
    | some c =>
      let r : Ref := ⟨s.curCore, s.curSlot, s.nextId⟩
      .ok ((s.fly i ops false false .queued).arriveAt r i ops.a c n ctl bcast)

/-- CRED (R347), its checks and its wait done. -/
def cred (i : Instr) (d a : Reg) (w : Params) (t : Thread) (s : State) : Act :=
  let n := w.w1.toNat
  let op := fldN w.w2 0 2
  let int := fldN w.w2 2 1 == 1
  let own : Word := if int then t.rx a else ((t.rx a).setWidth 32).setWidth 64
  let now := fun (v : Word) => Act.ok (s.flyDone i { x := [(d, v)], bs := some bsOK })
  if n = 0 then now (credIdentity op int)
  else if n = 1 then now own
  else collectiveArrive i d (fldN w.w0 0 16) n w.w2 false { core := s.curCore, a := own } s

/-- R347. -/
def execCred (d a : Reg) (l : BitVec 4) (p : Params) (s : State) : Out :=
  issue (.cred d a l p) s (fun t s => cred (.cred d a l p) d a p t s)

/-- CBCAST (R348), its checks and its wait done (DEDUCED, assumption 25). The root's buffer is read behind its own host stores (R172). -/
def cbcast (i : Instr) (d a b : Reg) (w : Params) (t : Thread) (s : State) : Act :=
  let n := w.w1.toNat
  let now := fun (v : Word) => Act.ok (s.flyDone i { x := [(d, v)], bs := some bsOK })
  if n = 0 then now 0
  else if n = 1 then (if fldN w.w2 3 1 = 1 then now (t.rx a) else .ok (s.fly i { core := s.curCore } false false (.fault cILLCFG (wordVal i))))
  else
    match s.readTarget t (needCbcast t b w) with
    | .error tr => .trap ⟨tr, none⟩
    | .ok o =>
      let s := if fldN w.w2 3 1 = 1 then s.landAll t else s
      collectiveArrive i d (fldN w.w0 0 16) n w.w2 true
        { core := s.curCore, a := t.rx a, ea := t.rx b, n := w.w3.toNat, ta := o.ta, tgt := o.tgt, here := o.here, sys := t.sys } s

/-- R348. -/
def execCbcast (d a b : Reg) (l : BitVec 4) (p : Params) (s : State) : Out :=
  issue (.cbcast d a b l p) s (fun t s => cbcast (.cbcast d a b l p) d a b p t s)

end Sys2Proof.Machine
end

