-- ==== Sys2Proof/Machine/Perform.lean ====
section
/-!
DEFINITION. Machine/Perform.lean: the steps in which what is in flight goes on: an access arrives at its bank or port (R128,
R139, R157, R335), the pager's wake (R146), completion and late faults (R59, R61, R310), messages, threads and bank
conversions on their way (R123, R124, R134, R140).
-/
namespace Sys2Proof.Machine

/-! ## Tokens (R335) -/

/-- The core that a record goes to after it has been read. -/
def Pending.recordTarget (p : Pending) : Option Word :=
  match p.ins with
  | .send _ _ _ | .spawn _ _ _ | .tsend _ _ _ _ => if p.ops.stage = 1 then some p.ops.a else none
  | _ => none

/-- A table or descriptor that is read whole pays for its own lines. -/
def paysItself (i : Instr) : Bool :=
  match i with | .launch _ _ _ _ _ | .tblset _ _ _ _ | .bankjoin _ _ => true | _ => false

/-- The bucket that the next move of an access is charged to: a line to memory, or a transfer to another cluster (R335; DEDUCED,
assumption 47). -/
def State.bucketFor (s : State) (c : Nat) (p : Pending) : Option Nat :=
  if paysItself p.ins then none
  else
  match p.recordTarget with
  | some v =>
    match targetCore v with
    | some (pkg, d) => if pkg = s.pkg.toNat ∧ clusterOf d = clusterOf c then none else some 1
    | none => none
  | none =>
    match p.ops.tgt with
    | .paged ta => (match s.walkAt (clusterOf c) (s.owner c) ta with | .leaf _ pa => some (bucketOf pa) | .absent => none)
    | .sysreg d _ => if clusterOf d = clusterOf c then none else some 1
    | _ => none

/-- The bucket holds a token, if one is needed. -/
def State.tokenFor (s : State) (c : Nat) (p : Pending) : Bool :=
  match s.bucketFor c p with | some b => (s.core c).hasToken b | none => true

/-! ## At a bank (R128) -/

/-- LAUNCH reads its segment table. -/
def State.launchTable (s : State) (r : Ref) (p : Pending) (d : Reg) (w : Params) : State :=
  let ask : Ask := { r := true, sys := p.ops.sys }
  let place := s.recordPlace r.core p.ops ask
  match placesOf place 16 with
  | .error none => s.waitAt r p
  | .error (some (c, i)) => s.lateFail r c (p.ops.ea + BitVec.ofNat 64 (8 * i))
  | .ok locs =>
    let (s1, paid) := s.payRange r r.core p.ops.ta 16 ask
    if paid then (s1.trackRange r place p.ops.ta 16).launchRead r p d w (locs.map (fun l => s.entryAt l)) else s1

/-- TBLSET reads its descriptor. -/
def State.tableDescriptor (s : State) (r : Ref) (p : Pending) (d : Reg) (n : Nat) : State :=
  let (s, paid) := s.payRange r r.core p.ops.ta 8 { r := true, sys := p.ops.sys }
  if !paid then s
  else
    match s.agentRead r.core (s.owner r.core) (s.thr r.core r.slot).tag p.ops.sys p.ops.ta 8 0 with
    | .error none => s.waitAt r p
    | .error (some (c, i)) => s.lateFail r c (p.ops.ea + BitVec.ofNat 64 (8 * i))
    | .ok (es, s1) => s1.tblsetAt r p d n es

/-- The access is performed by an event of its bank: it does not go to a memory port. -/
def Pending.atBank (p : Pending) : Bool :=
  match p.ins with
  | .launch _ _ _ _ _ | .tblset _ _ _ _ | .bankjoin _ _ => true
  | _ =>
    match p.ops.tgt with
    | .paged _ => p.recordTarget.isSome
    | .foreign _ _ => false
    | .none => match p.ins with | .dq _ _ _ _ => true | _ => false
    | _ => true

/-- Perform an access at its bank, inbox or dispatcher. A table that its thread may have stored in host memory is read behind those
stores (R172). -/
def State.performAt (s : State) (r : Ref) (p : Pending) : State :=
  let s := if paysItself p.ins then s.landAll (s.thr r.core r.slot) else s
  match p.ins with
  | .launch d _ _ _ w => s.launchTable r p d w
  | .tblset d _ _ w => s.tableDescriptor r p d w.w0.toNat
  | .bankjoin _ _ => s.bankjoinArrive r p
  | .dq d _ _ w => if p.ops.stage = 0 then s.dqArrive r p d (w == 1) else s.arrive r p
  | .send _ _ _ => if p.ops.stage = 1 then s.sendArrive r p else s.arrive r p
  | .spawn _ _ _ => if p.ops.stage = 1 then s.spawnArrive r p else s.arrive r p
  | .tsend _ _ _ _ => if p.ops.stage = 1 then s.tsendArrive r p else s.arrive r p
  | _ => s.arrive r p

/-- A record's target lies on another quad that is being reset, so it is held (R350). -/
def State.targetDown (s : State) (c : Nat) (p : Pending) : Bool :=
  match p.recordTarget.bind targetCore with
  | some (pkg, d) => pkg == s.pkg.toNat && s.quadDown d && decide (quadOf d ≠ quadOf c)
  | none => false

/-- An access in flight may now be performed at its bank. -/
def State.bankReady (s : State) (r : Ref) (p : Pending) : Bool :=
  p.phase == .flight && p.atBank && !s.targetDown r.core p && (s.thr r.core r.slot).mayPerform p && s.tokenFor r.core p

def State.bankStep (s : State) (r : Ref) : State :=
  match s.pending r with
  | none => s
  | some p =>
    if s.bankReady r p then
      let s1 := match s.bucketFor r.core p with
        | some b => s.spend r.core b
        | none => s
      s1.performAt r p
    else s

/-- R128. -/
def execBankAccessPerformed (core slot id : Nat) (s : State) : Out := .next (s.bankStep ⟨core, slot, id⟩)

/-- Sleepers that found the waiter table full are offered again (R139). What one that is performed makes possible for the bank's
sleepers is done (R130, R137). -/
def State.retry (s : State) (c b : Nat) : List Ref → State
  | [] => s
  | r :: rs =>
    let drop := fun (k : Bank) => { k with retriers := k.retriers.filter (· != r) }
    (match s.trySleeper r with
     | some s' => (s'.modBank c b drop).serveBank c b
     | none =>
       if (s.bank c b).waiters.length < 64 then
         (s.modBank c b (fun k => { drop k with waiters := k.waiters ++ [r] })).setPhase r .asleep
       else s).retry c b rs

/-- R139. -/
def execWaiterRetry (core bank : Nat) (s : State) : Out :=
  .next (if s.cycle % 64 = 0 then s.retry core bank (s.bank core bank).retriers else s)

/-! ## At a memory port (R157) -/

/-- An access in flight may now leave for its memory port. -/
def State.portReady (s : State) (r : Ref) (p : Pending) : Bool :=
  p.phase == .flight && !p.atBank && (match p.ops.tgt with | .paged _ => true | _ => false) &&
  (s.thr r.core r.slot).mayPerform p && s.tokenFor r.core p

/-- The access has written: not a compare and swap that found another value. -/
def didWrite (old : State) (p : Pending) (pa : Nat) : Bool :=
  match p.ins with
  | .cas _ _ _ _ z => old.read pa (amoSize z) == p.ops.a.toNat % 2 ^ (8 * amoSize z)
  | _ => (askOf p.ins).w

/-- The bytes and the size of a store that the endpoint accepts before it reaches the host (R172; DESIGN CHOICE, assumption 56). -/
def hostStore (p : Pending) : Option (Nat × Nat) :=
  match p.ins with
  | .st _ _ _ _ sz _ => some (storeSize sz, p.ops.a.toNat + 2 ^ 64 * p.ops.b.toNat)
  | .stf _ _ _ _ sz _ => some (storeSize sz, p.ops.a.toNat)
  | _ => none

/-- An access at the endpoint: a store is accepted, and that of the timed thread logged with what its own stores before it leave there
(R292); any other access comes behind the stores of its own thread (R172). -/
def State.hostAt (s : State) (r : Ref) (p : Pending) (pa : Nat) : State :=
  let t := s.thr r.core r.slot
  match hostStore p with
  | some (n, v) =>
    if !s.logRoom p 1 then s.sleepLog r p
    else
      ({ s.logSeen (s.landAll t) p pa n with
          posted := s.posted ++ [⟨t.home, t.homeSlot, pa, n, v, t.tag⟩] } : State).finish r {}
  | none => (s.landAll t).bytesAt r p pa

/-- An access to a device behind a root port: what it reads there is free, and what it writes is the device's (R338; DESIGN CHOICE,
assumption 20). -/
def State.deviceAt (s : State) (r : Ref) (p : Pending) (pa : Nat) : State :=
  let at_ := fun (u : State) (i : Nat) => u.store (dword pa + 8 * i) 8 (Config.freeWord (s.free + i)).toNat
  { (((List.range 4).foldl at_ { s with free := s.free + 4 }).bytesAt r p pa) with mem := s.mem, poisons := s.poisons }

/-- An access at its place: of HBM, of host memory, or of root-port space (R338). -/
def State.placeAt (s : State) (r : Ref) (p : Pending) (pa : Nat) : State :=
  match paSpace pa with
  | .host => s.hostAt r p pa
  | .root => s.deviceAt r p pa
  | _ => s.bytesAt r p pa

/-- Perform an access at its port: translation and rights, the token, the block records of Contrail, the bytes. What an application
core of the control die writes may be page tables (R276; PRESUMED, assumption 51). -/
def State.portAt (s : State) (r : Ref) (p : Pending) (ta : Nat) : Out :=
  let vf := s.owner r.core
  let ask := { askOf p.ins with sys := p.ops.sys }
  match s.translate (clusterOf r.core) vf ta ask (hostAtomic p.ins) with
  | .absent => .next (s.setPhase r .parked)
  | .fault c => .next (s.lateFail r c p.ops.ea)
  | .ok pa =>
    let g := (s.thr r.core r.slot).tag
    let s1 := s.spend r.core (bucketOf pa)
    let s2 := if ask.r then s1.trackRead vf g ta pa else s1
    let s3 := s2.placeAt r p pa
    let done := match s3.pending r with
      | some q => (match q.phase with | .done _ => true | _ => false)
      | none => true
    let s4 := if ask.w && done && didWrite s2 p pa then s3.trackWrite vf g ta pa else s3
    .next (if coreCount ≤ r.core then s4.remapped s else s4)

def State.portStep (s : State) (r : Ref) : Out :=
  match s.pending r with
  | none => .next s
  | some p =>
    if s.portReady r p then (match p.ops.tgt with | .paged ta => s.portAt r p ta | _ => .next s) else .next s

/-- R157. -/
def execPortAccessPerformed (core slot id : Nat) (s : State) : Out := s.portStep ⟨core, slot, id⟩

/-- Instructions of a core in flight, by number. -/
def State.inFlight (s : State) (c : Nat) : List (Ref × Pending) :=
  (List.range 16).flatMap (fun k => ((s.thr c k).pend.filter (fun p => p.phase == .flight)).map (fun p => (⟨c, k, p.id⟩, p)))

/-- The oldest of a list of instructions. -/
def oldest (l : List (Ref × Pending)) : Option (Ref × Pending) :=
  l.foldl (fun best x => match best with | none => some x | some b => if x.2.id < b.2.id then some x else best) none

/-- R335. The oldest line that waits for a bucket leaves. -/
def execLineSend (core res : Nat) (s : State) : Out :=
  match oldest ((s.inFlight core).filter (fun x =>
      s.bucketFor core x.2 == some res && (s.portReady x.1 x.2 || s.bankReady x.1 x.2))) with
  | none => .next s
  | some (r, p) => if p.atBank then .next (s.bankStep r) else s.portStep r

/-! ## The pager's wake (R146) -/

/-- Bytes of the page that maps a tenant address: of its leaf, or of the smallest page while there is none. -/
def pageShift (s : State) (ta : Nat) : List (Nat × Nat) → Nat → Nat
  | [], _ => 16
  | (sh, w) :: below, table =>
    let e := s.readW (table + 8 * (ta / 2 ^ sh % 2 ^ w))
    if !pteV e || !pteSound e sh then 16 else if pteL e then sh else pageShift s ta below (pteFrame e)

def State.pageOf (s : State) (vf ta : Nat) : Nat :=
  match (s.vf vf).root with
  | none => 16
  | some root => pageShift s ta [(30, 21), (21, 9), (16, 5)] root

/-- Bytes that a parked instruction waits for. -/
def Pending.parkSpan (p : Pending) : Nat := match p.ins with | .mcb _ _ _ => 32 | _ => max p.span 1

/-- A parked instruction that waits for bytes lo to hi − 1 goes on: an array command is queued again, an access is walked again. -/
def unpark (lo hi : Nat) (p : Pending) : Pending :=
  if p.phase = .parked ∧ p.ops.ta < hi ∧ lo < p.ops.ta + p.parkSpan then
    { p with phase := if counted p.ins then .queued else .flight } else p

/-- Release what is held at a memory port for a page of a virtual function: `page` is the port's cluster × 2^40 + the page's tenant
address divided by 65,536 (DEDUCED, assumption 38). -/
def State.wakePage (s : State) (vf page : Nat) : State :=
  let cl := page / 2 ^ 40
  let at_ := page % 2 ^ 40 * 2 ^ 16
  let sh := s.pageOf vf at_
  let lo := at_ / 2 ^ sh * 2 ^ sh
  let hi := lo + 2 ^ sh
  let wake := fun (t : Thread) =>
    ({ t with pend := t.pend.map (unpark lo hi)
              fetchPark := match t.fetchPark with | some a => if lo ≤ a ∧ a < hi then none else some a | none => none }
      : Thread).backFrom t s.cycle
  let s1 := { s with cores := s.cores.map (fun (c : Nat × Core) =>
    (c.1, if s.owner c.1 = vf ∧ clusterOf c.1 = cl then { c.2 with slots := c.2.slots.map wake } else c.2)) }
  s1.pageMoved vf lo (2 ^ sh)

/-- R146, R276 (DEDUCED, assumption 38). -/
def execPagerWake (vf page : Nat) (s : State) : Out := .next (s.wakePage vf page)

/-! ## Completion (R59) -/

/-- Every push of a result can take its index (R184). -/
def Thread.canApply (t : Thread) (r : Result) : Bool := r.f.all (fun x => t.canPush x.1)

/-- An EXIT that has waited ends its thread (R241, R248, R289). -/
def State.exitGo (s : State) (r : Ref) : State :=
  if s.exitMay r.core r.slot then (s.modThr r.core r.slot (fun t => t.dropPend r.id)).exitEnd r.core r.slot else s

/-- A sleep whose condition may have come about: its instruction done, or as it was. -/
def State.wakeSleeper (s : State) (r : Ref) (p : Pending) : State :=
  match p.ins with
  | .reap _ =>
    if (s.core r.core).free p.ops.n && !s.keptSlot r.core p.ops.n (s.thr r.core r.slot).tag then s.finish r {} else s
  | .halt d =>
    if (s.core r.core).firmware && (s.core r.core).serving.isNone then s
    else match s.haltDone r.core with | some (w, s') => s'.finish r { x := [(d, w)] } | none => s
  | .gvtrdW d _ =>
    let g := (s.core r.core).gvtCopy
    if p.ops.a.ult g then s.finish r { x := [(d, g)] } else s
  | .tnext _ _ => (s.tnextTake r p.ins).getD s
  | .exit =>
    if (match (s.core r.core).vt with | some v => v.idle && v.straggler.isNone | none => true) then s.exitGo r else s
  | _ => s

/-- An access that is reissued from here takes its thread to the core it names, once all before it has completed (R123, R126). A
MIGRATE whose thread is there already has nothing left to do. -/
def State.depart (s : State) (r : Ref) (p : Pending) (dst : Nat) : State :=
  if (s.thr r.core r.slot).pend.head?.map (·.id) != some p.id then s
  else if (match p.ins with | .migrate _ => dst == r.core | _ => false) then s.finish r {}
  else
    match s.mayLeave r.core r.slot p.ops.ea with
    | some tr => s.lateFail r tr.1 tr.2
    | none => { s.setPhase r .leaving with packets := s.packets ++ [⟨r.core, r.slot, dst⟩] }

/-- An instruction goes on by itself: it completes, wakes, or takes its next step. -/
def State.advance (s : State) (r : Ref) : State :=
  match s.pending r with
  | none => s
  | some p =>
    match p.phase with
    | .done res => if (s.thr r.core r.slot).canApply res then s.completePend r res else s
    | .asleep => s.wakeSleeper r p
    | .flight => match p.ops.tgt with | .foreign dst _ => s.depart r p dst | _ => s
    | .queued =>
      match p.ins with
      | .exit => s.exitGo r
      | .tblsw d _ _ w => s.tblswAt r p d w
      | .cred _ _ _ _ | .cbcast _ _ _ _ _ =>
        (match s.collectives.find? (fun c => c.arrived.any (fun a => a.1.id == r.id)) with
         | some c => s.collectiveEnd c
         | none => s)
      | _ => s
    | _ => s

/-- R59. -/
def execLongLatencyComplete (core slot id : Nat) (s : State) : Out := .next (s.advance ⟨core, slot, id⟩)

/-! ## Late faults (R61, R310) -/

/-- R61. -/
def execLateFault (core slot : Nat) (s : State) : Out := .next (s.stopThread core slot)

/-! ## Messages, threads and banks -/

/-- R140. -/
def execHwMessageDeliver (core : Nat) (s : State) : Out := .next (s.hwDeliver core)

/-- R134. -/
def execBankConversionDone (core bank : Nat) (s : State) : Out := .next (s.conversionDone core bank)

/-- Lines of the packet of a thread: PC, TSW, the registers that LIVE names and the segments (R69, R335). -/
def Thread.packetLines (t : Thread) : Nat :=
  (16 + 8 * ((List.range 64).filter (fun i => t.live.getLsbD i)).length + 128 + 127) / 128

/-- Lines of a packet that are still to be paid for; `paid` of the operands of what takes the thread away counts the others. -/
def Thread.unpaid (t : Thread) : Nat :=
  match t.pend.find? (fun p => p.phase == .leaving) with
  | some p => t.packetLines - p.ops.paid
  | none => 0

/-- The packet of a thread has n lines that are paid for. -/
def Thread.withPaid (t : Thread) (n : Nat) : Thread :=
  { t with pend := t.pend.map (fun p => if p.phase = .leaving then { p with ops := { p.ops with paid := n } } else p) }

/-- Pay for lines of a packet, as far as the tokens of its core go. -/
def State.payPacket (s : State) (m : Move) : Nat → State
  | 0 => s
  | n + 1 =>
    let t := s.thr m.src m.slot
    if (s.core m.src).hasToken 1 then
      ((s.spend m.src 1).modThr m.src m.slot (fun u => u.withPaid (t.packetLines - n))).payPacket m n
    else s

/-- A packet bound for another cluster leaves once each of its lines has spent a token of its core's network bucket (R335; DEDUCED,
assumption 47). -/
def State.packetStep (s : State) (n : Nat) : State :=
  match s.packets[n]? with
  | none => s
  | some m =>
    if clusterOf m.src = clusterOf m.dst ∨ s.quadDown m.dst then s.migrateArrive n
    else
      let s1 := s.payPacket m (s.thr m.src m.slot).unpaid
      if (s1.thr m.src m.slot).unpaid = 0 then (s1.modThr m.src m.slot (fun t => t.withPaid 0)).migrateArrive n else s1

/-- R123. -/
def execMigrationArrival (n : Nat) (s : State) : Out := .next (s.packetStep n)

/-- R124. -/
def execArrivalQueueAdmit (core : Nat) (s : State) : Out := .next (s.letIn core)

/-- R124. -/
def execMigrationReoffer (core : Nat) (s : State) : Out := .next (if s.cycle % 256 = 0 then s.reoffer core else s)

end Sys2Proof.Machine
end

