-- ==== Sys2Proof/Machine/Dispatchers.lean ====
section
/-!
DEFINITION. Machine/Dispatchers.lean: the dispatchers of the compute dies: placing blocks, promotion and reservation (R234 to
R238), block and launch completion (R239, R240, R241), abandonment (R243), pre-emption (R251 to R253, R255).
-/
namespace Sys2Proof.Machine

/-! ## Dispatch order (R234) -/

/-- Launch a comes before launch b. -/
def Launch.before (a b : Launch) : Bool := decide (b.level < a.level) || (a.level == b.level && decide (a.entered < b.entered))

def launchPut (l : Launch) : List Launch → List Launch
  | [] => [l]
  | m :: r => if l.before m then l :: m :: r else m :: launchPut l r

/-- The launches of a dispatcher in dispatch order. -/
def Die.order (d : Die) : List Launch := d.launches.foldl (fun acc p => launchPut p.2 acc) []

/-- The next block to start, if one waits. -/
def Launch.waiting (l : Launch) : Option Nat :=
  if l.dead then none
  else
    match l.only with
    | some b => b[l.next]?
    | none => if l.next < l.p.w1.toNat then some l.next else none

/-- What has become of the launch that a launch waits for (R238). -/
inductive Dep where
  | ready
  | wait
  | failed (status : Word32)
  deriving DecidableEq, Repr

def State.depOf (s : State) (l : Launch) : Dep :=
  if l.p.w3 = 0 then .ready
  else
    match l.depSt with
    | some st => if st = 0 then .ready else .failed st
    | none =>
      match s.named l.p.w3 with
      | .active _ => .wait
      | .ended _ st => if st = 0 then .ready else .failed st
      | .gone => .ready

/-! ## Quads (R235) -/

/-- Logical clusters of a die. -/
def clustersOf (die : Nat) : List Nat := (List.range 8).map (fun i => 8 * die + i)

/-- A gang holds its quads: until it is out, and again from the beginning of its restore. -/
def Gang.holds (g : Gang) (q : Nat) : Bool := (g.out.isNone || g.restoring.isSome) && g.quads.contains q

/-- Quads kept for the launch for which a gang was taken out. -/
def Gang.keeps (g : Gang) (q : Nat) (h : BitVec 32) : Bool :=
  match g.claim with | some c => c != h && g.quads.contains q | none => false

/-- A quad that a launch may take: no gang holds it (R235; DEDUCED, assumption 21). A NOPRE launch does not take quads of a gang that is
out, for it could not be made to give them back (R253). The free quads counted with a victim's are not kept while it is taken out (R251;
DESIGN CHOICE, assumption 21). -/
def State.quadFree (s : State) (q vf : Nat) (h : BitVec 32) : Bool :=
  let k := s.cluster (q / 16)
  let nopre := ((s.launchOf h).map (fun l => lwNopre l.p)).getD false
  s.quadOwner q == vf && !k.out && !k.resetting.contains q &&
    !k.gangs.any (fun g => g.holds q || g.keeps q h || (nopre && g.out.isSome && g.quads.contains q))

/-- The free quads of a cluster. -/
def State.freeQuads (s : State) (cl vf : Nat) (h : BitVec 32) : List Nat :=
  ((List.range 16).map (fun i => 16 * cl + i)).filter (fun q => s.quadFree q vf h)

/-- Another launch has reserved the cluster, unless this one has reserved it too and comes before that in dispatch order (R235;
DEDUCED, assumption 21). -/
def State.reservedFor (s : State) (cl : Nat) (h : BitVec 32) : Bool :=
  let ls := (s.die (cl / 8)).launches.map (·.2)
  let mine := ls.find? (fun l => l.handle == h && l.reserve == some cl)
  ls.any (fun l => l.reserve == some cl && l.handle != h && !(match mine with | some m => m.before l | none => false))

/-- A gang of the die was taken out for this launch, in this cluster. -/
def State.claimed (s : State) (die : Nat) (h : BitVec 32) : Option Nat :=
  (clustersOf die).find? (fun cl => (s.cluster cl).gangs.any (fun g => g.claim == some h && g.handle != h))

/-- Where the next block of a launch goes: its cluster and quads (DEDUCED, assumption 21). -/
def State.placement (s : State) (die : Nat) (l : Launch) : Option (Nat × List Nat) :=
  let n := lwGang l.p
  let fits := fun (cl : Nat) => decide (n ≤ (s.freeQuads cl l.vf l.handle).length) && !s.reservedFor cl l.handle
  match (match s.claimed die l.handle with
      | some cl => if fits cl then some cl else none
      | none => (clustersOf die).find? fits) with
  | some cl => some (cl, (s.freeQuads cl l.vf l.handle).take n)
  | none => none

/-- The greatest level of a gang that is out in the die: no block of that level or below starts before its restore
(R253; DEDUCED, assumption 22). -/
def State.outLevel (s : State) (die : Nat) : Option Nat :=
  (clustersOf die).foldl (fun best cl => (s.cluster cl).gangs.foldl (fun best g =>
    if g.out.isSome then
      let lv := match s.launchOf g.handle with | some l => l.level | none => 0
      some (max lv (best.getD 0))
    else best) best) none

def State.levelOpen (s : State) (die : Nat) (l : Launch) : Bool :=
  match s.outLevel die with | some lv => decide (lv < l.level) | none => true

/-! ## Block start (R236) -/

/-- Slot 0 of a gang core at block start. -/
def blockThread (l : Launch) (block idx core now : Nat) : Thread :=
  freshThread (l.p.w0.setWidth 64)
    [BitVec.ofNat 64 block, BitVec.ofNat 64 idx, BitVec.ofNat 64 (4 * lwGang l.p), l.arg, l.handle.setWidth 64, 0]
    l.segs 0 ⟨l.handle, BitVec.ofNat 32 block⟩ true core 0 now

/-- Slot 0 of a core takes the thread of a block. No thread of a gang can be there; one that is there for all that ends
(DEDUCED, assumption 21). -/
def State.seatBlock (s : State) (c : Nat) (t : Thread) : State :=
  (if (s.core c).free 0 then s else s.endThread c 0).seat c 0 t

/-- Start the next block of a launch on these quads. -/
def State.startBlock (s : State) (l : Launch) (block cl : Nat) (quads : List Nat) : State :=
  let g : Gang := { handle := l.handle, block := BitVec.ofNat 32 block, quads := quads, started := s.cycle
                    nopre := lwNopre l.p, banks := lwBanks l.p }
  let cores := quads.flatMap (fun q => (List.range 4).map (fun i => 4 * q + i))
  let s1 := cores.zipIdx.foldl (fun (s : State) (c : Nat × Nat) => s.seatBlock c.1 (blockThread l block c.2 c.1 s.cycle)) s
  let given := fun (x : Gang) => if x.claim = some l.handle then { x with claim := none } else x
  let s2 := s1.modCluster cl (fun k => { k with gangs := k.gangs.map given ++ [g] })
  let s3 := s2.modLaunch l.handle (fun l =>
    { l with next := l.next + 1, started := l.started + 1, since := s.ungated, reserve := none, spared := false })
  s3.traceStart ⟨l.handle, BitVec.ofNat 32 block⟩

/-- The first launch in dispatch order whose next block fits (DEDUCED, assumption 21). -/
def State.place (s : State) (die : Nat) : Option (Launch × Nat × Nat × List Nat) :=
  (s.die die).order.findSome? (fun l =>
    match l.waiting, s.depOf l with
    | some b, .ready => if s.levelOpen die l then (s.placement die l).map (fun x => (l, b, x.1, x.2)) else none
    | _, _ => none)

/-- R235, R236. -/
def execDispatchBlockPlace (die : Nat) (s : State) : Out :=
  .next (match s.place die with
    | some (l, b, cl, qs) => s.startBlock l b cl qs
    | none => s)

/-! ## Promotion and reservation (R234, R235) -/

/-- A block waits, for which the launch named in W3 is over, and none has started for 2^20 ungated cycles (R234; DEDUCED,
assumption 21). -/
def State.overdue (s : State) (l : Launch) : Bool :=
  l.waiting.isSome && s.depOf l == .ready && decide (l.since + 2 ^ 20 ≤ s.ungated)

/-- R234 (DEDUCED, assumption 21). -/
def execLaunchPromotion (die entry : Nat) (s : State) : Out :=
  .next (match alook (s.die die).launches entry with
    | none => s
    | some l =>
      if s.overdue l && decide (l.level < 7) then
        { s.modLaunch l.handle (fun l => { l with level := l.level + 1, entered := s.nextId, since := s.ungated }) with
          nextId := s.nextId + 1 }
      else s)

/-- The cluster with the most of something, ties to the lowest. -/
def mostOf (f : Nat → Nat) (l : List Nat) : Option Nat :=
  l.foldl (fun best c => match best with | none => some c | some b => if f b < f c then some c else best) none

/-- Quads of a virtual function in a cluster. -/
def State.owned (s : State) (cl vf : Nat) : Nat := ((List.range 16).filter (fun i => s.quadOwner (16 * cl + i) == vf)).length

/-- R235. A launch at level 7 reserves the cluster where its virtual function has the most free quads (DEDUCED,
assumption 21). -/
def execLaunchReserve (die entry : Nat) (s : State) : Out :=
  .next (match alook (s.die die).launches entry with
    | none => s
    | some l =>
      if s.overdue l && l.level == 7 && l.reserve.isNone then
        let own := (clustersOf die).filter (fun cl => !(s.cluster cl).out && decide (0 < s.owned cl l.vf))
        s.modLaunch l.handle (fun x => { x with reserve := mostOf (fun cl => (s.freeQuads cl l.vf l.handle).length) own })
      else s)

/-! ## Completion (R239, R240) -/

/-- A thread with a block tag exists on a core: in a slot, in a held slot, waiting to arrive, or saved. -/
def Core.hasTag (x : Core) (g : Tag) : Bool :=
  (List.range 16).any (fun k => ((x.slot k).st != .idle || (x.slot k).held) && (x.slot k).tag == g) ||
  x.arrivals.any (fun p => p.th.tag == g) || x.tcc.any (fun e => e.2.th.tag == g)

def State.tagLives (s : State) (g : Tag) : Bool := s.cores.any (fun c => c.2.hasTag g)

/-- The gang of a block in a die. -/
def State.gangIn (s : State) (die : Nat) (g : Tag) : Option (Nat × Gang) :=
  (clustersOf die).findSome? (fun cl => (s.gang cl g).map (fun x => (cl, x)))

/-- The gang gives up its quads. -/
def State.dropGang (s : State) (cl : Nat) (g : Tag) : State :=
  s.modCluster cl (fun k => { k with gangs := k.gangs.filter (fun x => !(x.handle == g.handle && x.block == g.block)) })

/-- A block may complete. -/
def State.blockOver (s : State) (g : Gang) : Bool :=
  decide (4 * g.quads.length ≤ g.gone.length) && !s.tagLives ⟨g.handle, g.block⟩

/-- R239. -/
def execBlockComplete (handle block : Nat) (s : State) : Out :=
  let tag : Tag := ⟨BitVec.ofNat 32 handle, BitVec.ofNat 32 block⟩
  .next (match s.gangIn (handleDie tag.handle) tag with
    | none => s
    | some (cl, g) =>
      if s.blockOver g then
        ((s.traceEnd ((s.launchOf tag.handle).map (·.vf) |>.getD 0) tag).dropGang cl tag).modLaunch tag.handle (fun l => { l with done := l.done + 1 })
      else s)

/-- GANG exceeds what the virtual function owns in every enabled cluster of the die (DEDUCED, assumption 21). -/
def State.neverFits (s : State) (die : Nat) (l : Launch) : Bool :=
  l.started == 0 && l.waiting.isSome &&
  (clustersOf die).all (fun cl => (s.cluster cl).out || decide (s.owned cl l.vf < lwGang l.p))

/-- The launch completes now, with this STATUS. -/
def State.launchEnds (s : State) (die : Nat) (l : Launch) : Option Word32 :=
  if l.dead then some l.status
  else if s.neverFits die l then some 0x10
  else
    match s.depOf l with
    | .wait => none
    | .failed st => if l.started = 0 then some st else none
    | .ready =>
      if l.over && s.launchQuiet l.handle then some l.status
      else none

/-- A completion entry of a mailbox waits for its ring (R341, R343). -/
def State.mbPush (s : State) (fn : Nat) (e : MbEntry) : State :=
  let m := (alook s.mailboxes fn).getD {}
  { s with mailboxes := aset s.mailboxes fn { m with waiting := m.waiting ++ [e] } }

/-- A launch completes: its message is posted and its entry freed (R240, R342). A core that has passed to another virtual function
gets none (R334). -/
def State.endLaunch (s : State) (l : Launch) (st : Word32) : State :=
  let count : Word := BitVec.ofNat 64 (l.abandoned * 2 ^ 32 + l.done)
  let s1 := match l.inbox with
    | .core c => if s.owner c ≠ l.vf then s else s.hwPost c (.ofWords (BitVec.ofNat 64 (st.toNat * 2 ^ 32 + 0x20)) (l.handle.setWidth 64) count s.stamp)
    | .mailbox fn tag =>
      s.mbPush fn [BitVec.ofNat 64 (st.toNat * 2 ^ 32 + 0x20), BitVec.ofNat 64 (tag.toNat * 2 ^ 32 + l.handle.toNat), count, s.stamp]
    | .relaunch _ => s
  let s2 := s1.freeLaunch l st
  match l.trace with
  | some o => s2.objStops o
  | none => s2

/-- R240. A run of RELAUNCH that never fits runs no block and goes on to its own completion. -/
def execLaunchComplete (die entry : Nat) (s : State) : Out :=
  .next (match alook (s.die die).launches entry with
    | none => s
    | some l =>
      match l.inbox with
      | .relaunch _ => if s.neverFits die l then s.modLaunch l.handle (fun l => { l with only := some [], status := 0x10 }) else s
      | _ => match s.launchEnds die l with | some st => s.endLaunch l st | none => s)

/-! ## Abandonment (R243) -/

/-- A leaseholder is stopped: its lease ends with its last counted command, and keeps the thread's streams for those that still read
them (R201; DEDUCED, assumption 48). -/
def State.orphanLease (s : State) (cl : Nat) : State :=
  (s.modCluster cl (fun k => { k with lease := k.lease.map (fun l =>
    { l with orphan := true, ghost := some (s.thr l.core l.slot) }) })).orphanEnd cl

/-- Stop the thread of a slot. -/
def State.stopSlot (s : State) (c k : Nat) : State :=
  let s1 := if s.holdsLease c k && !s.quadDown c then s.orphanLease (clusterOf c) else s
  let s2 := { s1 with packets := s1.packets.filter (fun m => !(m.src == c && m.slot == k)) }
  (s2.modCore c (fun x => { x with offers := x.offers.filter (fun m => m.slot != k) })).endThread c k

/-- Stop every thread of a core that has a property: in its slots, waiting to arrive, or saved. -/
def State.stopOn (s : State) (c : Nat) (f : Thread → Bool) : State :=
  let s1 := (List.range 16).foldl (fun (s : State) k =>
    let t := s.thr c k
    if (t.st != .idle || t.held) && f t then s.stopSlot c k else s) s
  let away := (s1.core c).arrivals.filter (fun p => f p.th)
  let s2 := away.foldl (fun (s : State) p => s.releaseHome p.th) s1
  let s3 := ((s2.core c).tcc.filter (fun e => f e.2.th)).foldl (fun (s : State) e =>
    e.2.th.pend.foldl (fun s p => s.unarrive ⟨c, e.2.slot, p.id⟩ e.2.th.home) s) s2
  s3.modCore c (fun x =>
    let tcc := x.tcc.filter (fun e => !f e.2.th)
    { x with arrivals := x.arrivals.filter (fun p => !f p.th), tcc := tcc
             resident := x.resident.filter (fun e => (alook tcc e).isSome)
             backPaid := x.backPaid.filter (fun q => (alook tcc (q.1 / 2)).isSome) })

/-- Saves and restores that a gang's members wait for are asked for no more. -/
def State.dropRequests (s : State) (g : Gang) : State :=
  g.saved.foldl (fun (s : State) m => s.modCore m.1 (fun x =>
    { x with svc := x.svc.filter (fun q => !(q.slot == m.2.1 && q.entry == m.2.2)) })) s

/-- A block is abandoned with a STATUS. -/
def State.abandonBlock (s : State) (cl : Nat) (g : Gang) (status : Word32) : State :=
  let tag : Tag := ⟨g.handle, g.block⟩
  let s1 := ((s.cores.map (·.1)).foldl (fun (s : State) c => s.stopOn c (fun t => t.tag == tag)) s).dropRequests g
  (s1.dropGang cl tag).modLaunch g.handle (fun l =>
    { l with abandoned := l.abandoned + 1, status := if l.status = 0 then status else l.status })

/-! ## Pre-emption (R251, R252) -/

/-- Entries of the dispatcher that hold nothing and are not promised. -/
def Core.freeEntries (x : Core) : List Nat :=
  ((List.range (tccCount x.tccCtl)).map (fun i => tccFirst x.tccCtl + i)).filter (fun e =>
    (alook x.tcc e).isNone && !x.svc.any (fun q => q.kind == 1 && q.entry == e))

/-- The victim's members with the entries they are saved into. -/
def State.memberEntries (s : State) (g : Gang) : List (Nat × Nat × Nat) :=
  g.cores.flatMap (fun c => ((s.core c).membersOf g).zip (s.core c).freeEntries |>.map (fun x => (c, x.1, x.2)))

/-- Every core of a gang has dispatcher entries (R254), and as many free ones as members. -/
def State.entriesEnough (s : State) (g : Gang) : Bool :=
  g.cores.all (fun c => decide (0 < tccCount (s.core c).tccCtl ∧ ((s.core c).membersOf g).length ≤ (s.core c).freeEntries.length))

/-- Members of a gang that is being taken out for which no entry has been asked yet: they have been started since, or no entry was
free. -/
def State.joiners (s : State) (g : Gang) (ms : List (Nat × Nat × Nat)) : List (Nat × Nat × Nat) :=
  g.cores.flatMap (fun c =>
    (((s.core c).membersOf g).filter (fun k => !ms.any (fun m => m.1 == c && m.2.1 == k))).zip (s.core c).freeEntries
      |>.map (fun x => (c, x.1, x.2)))

/-- A gang may be taken out for a launch (R251). -/
def State.candidate (s : State) (cl : Nat) (g : Gang) (h : Launch) : Bool :=
  match s.launchOf g.handle with
  | none => false
  | some l =>
    l.vf == h.vf && g.out.isNone && g.saving.isNone && g.restoring.isNone && !g.nopre &&
    decide (l.level < h.level) && (g.banks &&& lwBanks h.p) == 0 &&
    decide (lwGang h.p ≤ g.quads.length + (s.freeQuads cl h.vf h.handle).length) && !s.reservedFor cl h.handle && s.entriesEnough g

/-- Fewest quads, then the lowest level, then the latest start. -/
def State.betterVictim (s : State) (a b : Nat × Gang) : Bool :=
  let lv := fun (g : Gang) => match s.launchOf g.handle with | some l => l.level | none => 0
  decide (a.2.quads.length < b.2.quads.length) ||
  (a.2.quads.length == b.2.quads.length &&
    (decide (lv a.2 < lv b.2) || (lv a.2 == lv b.2 && decide (b.2.started < a.2.started))))

def State.victimFor (s : State) (die : Nat) (h : Launch) : Option (Nat × Gang) :=
  let cands := (clustersOf die).flatMap (fun cl => ((s.cluster cl).gangs.filter (fun g => s.candidate cl g h)).map (fun g => (cl, g)))
  cands.foldl (fun best x => match best with | none => some x | some b => if s.betterVictim x b then some x else best) none

/-- Where the thread of a held slot is now: core and slot. -/
def State.awayFrom (s : State) (c k : Nat) : Option (Nat × Nat) :=
  s.cores.findSome? (fun x => ((List.range 16).find? (fun n =>
    let t := x.2.slot n
    t.st != .idle && t.home == c && t.homeSlot == k && (x.1 != c || n != k))).map (fun n => (x.1, n)))

/-- Bring home the thread of a held slot (R252; DEDUCED, assumption 22). -/
def State.fetchHome (s : State) (c k : Nat) : State :=
  match s.awayFrom c k with
  | some (c', k') => s.sendHome c' k'
  | none =>
    match s.cores.find? (fun x => x.2.arrivals.any (fun p => p.th.home == c && p.th.homeSlot == k)) with
    | none => s
    | some x =>
      match x.2.arrivals.find? (fun p => p.th.home == c && p.th.homeSlot == k) with
      | none => s
      | some p =>
        (s.modCore x.1 (fun y => { y with arrivals := y.arrivals.filter (fun q => !(q.th.home == c && q.th.homeSlot == k)) })).install
          c k p.th.turnedBack

/-- Slot 15 of each core is asked to save members; those that are away come home (R252; DEDUCED, assumption 22). -/
def State.askSaves (s : State) (ms : List (Nat × Nat × Nat)) : State :=
  let s1 := ms.foldl (fun (s : State) m => if (s.thr m.1 m.2.1).held then s.fetchHome m.1 m.2.1 else s) s
  ms.foldl (fun (s : State) m => s.modCore m.1 (fun x => { x with svc := x.svc ++ [{ kind := 1, slot := m.2.1, entry := m.2.2 }] })) s1

/-- Take a gang out for a launch (R252). -/
def State.takeGang (s : State) (cl : Nat) (g : Gang) (h : BitVec 32) : State :=
  let ms := s.memberEntries g
  let s3 := (s.askSaves ms).modGang cl ⟨g.handle, g.block⟩ (fun x => { x with saving := some (ms, h) })
  match g.cores with
  | c :: _ => s3.gangOut c
  | [] => s3

/-- The launch at the head of dispatch order, if its block waits, fits nowhere and it may pre-empt. -/
def State.headLaunch (s : State) (die : Nat) : Option Launch :=
  match (s.die die).order.find? (fun l => l.waiting.isSome && s.depOf l == .ready) with
  | none => none
  | some l =>
    let busy := (clustersOf die).any (fun cl => (s.cluster cl).gangs.any (fun g =>
      (match g.saving with | some (_, h) => h == l.handle | none => false) || g.claim == some l.handle))
    if lwNopre l.p || l.spared || busy || (s.placement die l).isSome || !s.levelOpen die l then none else some l

/-- A member of a gang that is being taken out has left its core again. -/
def State.strayed (s : State) (die : Nat) : Option (Nat × Nat) :=
  (clustersOf die).findSome? (fun cl => (s.cluster cl).gangs.findSome? (fun g =>
    match g.saving with
    | some (ms, _) => (ms.find? (fun m => (s.thr m.1 m.2.1).held)).map (fun m => (m.1, m.2.1))
    | none => none))

/-- A gang that is being taken out has members still to be asked for. -/
def State.joined (s : State) (die : Nat) : Option (Nat × Gang × List (Nat × Nat × Nat)) :=
  (clustersOf die).findSome? (fun cl => (s.cluster cl).gangs.findSome? (fun g =>
    match g.saving with
    | some (ms, _) => let js := s.joiners g ms; if js.isEmpty then none else some (cl, g, js)
    | none => none))

/-- A gang that is being taken out has no member left (R252). -/
def State.emptied (s : State) (die : Nat) : Option Nat :=
  (clustersOf die).find? (fun cl => (s.cluster cl).gangs.any (fun g => g.saving.isSome && s.allOut g))

/-- R251, R252. -/
def execPreempt (die : Nat) (s : State) : Out :=
  .next (match s.strayed die, s.joined die, s.emptied die with
    | some (c, k), _, _ => s.fetchHome c k
    | none, some (cl, g, js), _ =>
      (s.askSaves js).modGang cl ⟨g.handle, g.block⟩ (fun x => { x with saving := x.saving.map (fun v => (v.1 ++ js, v.2)) })
    | none, none, some cl => s.gangOut (64 * cl)
    | none, none, none =>
      match s.headLaunch die with
      | none => s
      | some l => match s.victimFor die l with | some (cl, g) => s.takeGang cl g l.handle | none => s)

/-! ## Restore (R253) -/

/-- Whoever the quads of a gang were kept for has started its block, or is gone. -/
def State.claimDone (s : State) (g : Gang) : Bool :=
  match g.claim with
  | none => true
  | some h => h == g.handle || (s.launchOf h).isNone

/-- No other gang holds a quad of the victim, and the slots its members left are Idle. -/
def State.mayRestore (s : State) (cl : Nat) (g : Gang) (ms : List (Nat × Nat × Nat)) : Bool :=
  s.claimDone g && !(s.cluster cl).gangs.any (fun x => g.quads.any (fun q => x.holds q)) &&
  ms.all (fun m => (s.core m.1).free m.2.1)

/-- A victim's restore begins, or, once every member is in its slot, all of them enter rotation (DEDUCED, assumption 22). -/
def State.restoreStep (s : State) (cl : Nat) (g : Gang) : State :=
  let tag : Tag := ⟨g.handle, g.block⟩
  match g.restoring, g.out with
  | some ms, _ =>
    if ms.all (fun m => (s.thr m.1 m.2.1).frozen) then
      (ms.foldl (fun (s : State) m => s.modThr m.1 m.2.1 (fun t => { t with frozen := false, back := s.cycle + 1 })) s).modGang cl tag
        (fun x => { x with restoring := none, out := none })
    else s
  | none, some (ms, _) =>
    if s.mayRestore cl g ms then
      let s1 := ms.foldl (fun (s : State) m => s.modCore m.1 (fun x => { x with svc := x.svc ++ [{ kind := 2, slot := m.2.1, entry := m.2.2 }] })) s
      s1.modGang cl tag (fun x => { x with claim := none, restoring := some ms })
    else s
  | none, none => s

/-- A victim is named by cluster × 1,024 + its index among the cluster's gangs. -/
def State.victim (s : State) (n : Nat) : Option (Nat × Gang) :=
  ((s.cluster (n / 1024)).gangs[n % 1024]?).map (fun g => (n / 1024, g))

/-- R253. -/
def execVictimRestore (victim : Nat) (s : State) : Out :=
  .next (match s.victim victim with | some (cl, g) => s.restoreStep cl g | none => s)

/-- A gang that holds quads of a victim. Its members wait for free entries, if need be. -/
def State.holderOf (s : State) (cl : Nat) (g : Gang) : Option Gang :=
  (s.cluster cl).gangs.find? (fun x =>
    x.out.isNone && x.saving.isNone && x.restoring.isNone && g.quads.any (fun q => x.quads.contains q))

/-- 65,536 ungated cycles after the swap-out ended, the holders of the victim's quads become victims themselves
(DEDUCED, assumption 22). -/
def State.deadline (s : State) (cl : Nat) (g : Gang) : State :=
  match g.out with
  | none => s
  | some (_, t) =>
    if s.ungated < t + 65536 || g.restoring.isSome then s
    else
      let s1 := s.modGang cl ⟨g.handle, g.block⟩ (fun x => { x with claim := none })
      match s1.holderOf cl g with
      | some x => s1.takeGang cl x g.handle
      | none => s1

/-- R253. -/
def execRestoreDeadline (victim : Nat) (s : State) : Out :=
  .next (match s.victim victim with | some (cl, g) => s.deadline cl g | none => s)

/-- R255. -/
def execTccTransferFail (core : Nat) (code : Byte) (ta : Word) (s : State) : Out := .next (s.tccFail core code ta.toNat)

end Sys2Proof.Machine
end

