-- ==== Sys2Proof/Machine/Tenancy.lean ====
section
/-!
DEFINITION. Machine/Tenancy.lean: resets and reassignment (R126, R133, R207, R334, R349, R350, R355), QoS settings
and token buckets (R333, R336), links (R344, R345), errors (R138, R349), power (R354), snapshots (R351), boot and attestation (R352, R353).
-/
namespace Sys2Proof.Machine

/-! ## Quad reset (R334, R350) -/

def coresOf (q : Nat) : List Nat := (List.range 4).map (fun i => 4 * q + i)

/-- A thread whose home is on another quad (R126). -/
def Thread.guestOf (t : Thread) (q : Nat) : Bool := t.st != .idle && quadOf t.home != q

/-- Guests of a core go home, whether they run on it, are saved there or wait to arrive, once what they have in flight allows it (R126, R173). -/
def State.guestsHome (s : State) (c : Nat) : State :=
  let s1 := (List.range 16).foldl (fun (s : State) k => if (s.thr c k).guestOf (quadOf c) then s.sendHome c k else s) s
  let away := ((s1.core c).tcc.filter (fun e => e.2.th.guestOf (quadOf c))).map (·.2.th) ++ (s1.core c).arrivals.map (·.th.turnedBack)
  away.foldl (fun (s : State) t => s.install t.home t.homeSlot t) (s1.modCore c (fun x =>
    { x with arrivals := [], tcc := x.tcc.filter (fun e => !e.2.th.guestOf (quadOf c)) }))

/-- A guest is still on the quad. -/
def State.guestsLeft (s : State) (q : Nat) : Bool :=
  (coresOf q).any (fun c => (List.range 16).any (fun k => (s.thr c k).guestOf q))

/-- The STATUS of the blocks that a quad's reset abandons: DOUBLE after a double trap, else RESET (R313, R350). -/
def State.resetStatus (s : State) (q : Nat) : Word32 := if (coresOf q).any (fun c => (s.core c).stopped) then 0x24 else 0x100

/-- A post leaves the engine without a message; a row that it was moving stays where it was (R243, R259). -/
def State.dropPost (s : State) (cl : Nat) (p : Post) : State :=
  (s.rowFree p).modCluster cl (fun k =>
    { k with engineQ := k.engineQ.filter (fun q => q.id != p.id), engineRun := k.engineRun.filter (fun q => q.id != p.id) })

/-- Requests of a quad to the relaunch engine are discarded (R259): a pending one, and a run that has not decided yet. One that has
re-runs no further block and posts no message (DEDUCED, assumption 29). -/
def State.dropRuns (s : State) (q : Nat) : State :=
  (s.traces.map (·.1)).foldl (fun (s : State) o =>
    let s1 := s.modTrace o (fun t => { t with queued := t.queued.filter (fun r => quadOf r.core != q) })
    match (alook s1.traces o).bind (fun t => t.run) with
    | none => s1
    | some run =>
      if quadOf run.core ≠ q then s1
      else if run.decided then
        (s1.modTrace o (fun t => { t with run := some { run with silent := true } })).modLaunch run.handle (fun l =>
          { l with only := l.only.map (fun b => b.take l.next) })
      else s1.runEnd o { run with silent := true } 0) s

/-- The quad's lease is revoked and its posts and transfers discarded, without messages (R201, R259). -/
def State.dropWork (s : State) (q : Nat) : State :=
  let cl := q / 16
  let mine := fun (c : Nat) => quadOf c == q
  let s1 := ((s.cluster cl).engineQ ++ (s.cluster cl).engineRun).foldl (fun (s : State) p => if mine p.core then s.dropPost cl p else s) s
  (s1.modCluster cl (fun k =>
    { k with cmds := k.cmds.filter (fun c => !mine c.ref.core), xfers := k.xfers.filter (fun x => !mine x.core)
             leaseQ := k.leaseQ.filter (fun r => !mine r.ref.core)
             lease := match k.lease with | some l => if mine l.core then none else some l | none => none })).dropRuns q

/-- Sleepers on the quad's banks, and on groups with a member on the quad, wake with RECONF (R133); accesses held at a locked
bank wait for the end of the reset instead. -/
def State.wakeBanks (s : State) (q : Nat) : State :=
  let banks := (coresOf q).flatMap (fun c => (List.range 16).map (fun b => (c, b)))
  banks.foldl (fun (s : State) cb =>
    let (tc, tb) := s.tableBank cb.1 cb.2
    let s1 := (s.endWaiters tc tb bsRECONF).endWaiters cb.1 cb.2 bsRECONF
    let k := s1.bank cb.1 cb.2
    let refs := k.held ++ k.locked.toList
    let s2 := refs.foldl (fun (s : State) r => s.holdAtQuad r cb.1) s1
    s2.modBank cb.1 cb.2 (fun k => { k with held := [], locked := none })) s

/-- A member of a dissolved group keeps its personality and CAP and holds no entries (R133; DEDUCED, assumption 29). -/
def State.emptyBank (s : State) (c b : Nat) : State :=
  s.modBank c b (fun k => { k with pers := Pers.empty k.pers.code k.cap, rank := 0 })

/-- Groups with a member on the quad exist no longer. -/
def State.dissolveOn (s : State) (q : Nat) : State :=
  let cl := q / 16
  let hit := (s.cluster cl).groups.filter (fun g => g.2.members.any (fun m => quadOf m.1 == q))
  hit.foldl (fun (s : State) g =>
    g.2.members.foldl (fun (s : State) m => s.emptyBank m.1 m.2) (s.dissolve cl g.1)) s

/-- Every thread of the quad ends, wherever it is; a guest that is still to go home does not (DEDUCED, assumption 29). -/
def State.endThreads (s : State) (q : Nat) : State :=
  (s.cores.map (·.1)).foldl (fun (s : State) c => s.stopOn c (fun t => quadOf t.home == q && t.st != .idle)) s

/-- A scrubbed core (R334 step 3): its 64 slots' registers, banks, inbox, thread-context cache and bit tiles at their reset values,
virtual time off, and the service loop in place again, as in a fresh core. The registers of the core itself stay (R69, R287, R298,
R333), as do messages that their sources hold, which are no state of the quad (R140; DEDUCED, assumption 29). -/
def Core.scrubbed (x fresh : Core) : Core :=
  { fresh with lend := x.lend, depc := x.depc, dcause := x.dcause, tccBase := x.tccBase, tccCtl := x.tccCtl, tccErr := x.tccErr
               snapCtl := x.snapCtl, snap := x.snap, qhbm := x.qhbm, qnet := x.qnet, qwgt := x.qwgt, qhbmNow := x.qhbmNow
               qnetNow := x.qnetNow, hbmTok := x.hbmTok, netTok := x.netTok, lvt := x.lvt, gvtCopy := x.gvtCopy
               sendCount := x.sendCount, count0 := x.count0, count1 := x.count1, leastSent := x.leastSent, colour := x.colour
               icache := x.icache, hwHeld := x.hwHeld }

/-- A core as its release, or before it the reset of the package, leaves it. -/
def State.freshCore (s : State) (c : Nat) : Core := if s.booted then Core.released c else Core.fresh

/-- Scrub the quad (R334 step 3). -/
def State.scrub (s : State) (q : Nat) : State :=
  let s1 := (coresOf q).foldl (fun (s : State) c => s.clear (scratchLoc c 0) scratchSize) s
  { s1 with cores := s1.cores.map (fun c => if quadOf c.1 = q then (c.1, c.2.scrubbed (s1.freshCore c.1)) else c) }

/-- Timed messages and anti-messages addressed to the quad's cores are discarded (R289). A TSEND among them is answered ABSENT, as
where virtual time is off (DEDUCED, assumption 24). -/
def State.discardTimed (s : State) (q : Nat) : State :=
  (s.timed.filter (fun m => quadOf m.dst == q)).foldl (fun (s : State) m =>
      match m.ref with | some r => (s.uncount m).finish r (Result.status bsABSENT) | none => s.uncount m)
    { s with timed := s.timed.filter (fun m => quadOf m.dst != q) }

/-- A reset of a quad begins (R350; DEDUCED, assumption 29): guests go home, its blocks are abandoned, its threads, leases, posts
and virtual time end, and what waits on its banks wakes. -/
def State.resetQuad (s : State) (q : Nat) (status : Word32) : State :=
  let cl := q / 16
  let s0 := s.modCluster cl (fun k => { k with resetting := k.resetting ++ [q] })
  let s1 := (coresOf q).foldl (fun (s : State) c => s.guestsHome c) s0
  let s2 := ((s1.cluster cl).gangs.filter (fun g => g.quads.contains q)).foldl (fun (s : State) g => s.abandonBlock cl g status) s1
  let s3 := (s2.endThreads q).dropWork q
  let s4 := (coresOf q).foldl (fun (s : State) c => if (s.core c).vt.isSome then s.vtOff c else s) (s3.discardTimed q)
  let s5 := { s4 with packets := s4.packets.filter (fun m => quadOf m.src != q || (s4.thr m.src m.slot).guestOf q) }
  s5.wakeBanks q

/-- R350. A reset that follows an error of the quad's logic is logged; a double trap has been reported (R313, R349). -/
def execQuadReset (quad : Nat) (s : State) : Out :=
  .next (if 512 ≤ quad ∨ (s.cluster (quad / 16)).resetting.contains quad then s
    else if (coresOf quad).any (fun c => (s.core c).stopped) then s.resetQuad quad (s.resetStatus quad)
    else (s.logError .core quad).resetQuad quad (s.resetStatus quad))

/-- Zero and disown operand-B bands (R207). -/
def State.zeroBands (s : State) (cl : Nat) (f : Nat → Bool) : State :=
  let gone := (s.cluster cl).bands.filter (fun b => f b.2)
  let s1 := gone.foldl (fun (s : State) b =>
    (List.range 480).foldl (fun (s : State) sl => s.clear (anvilLoc cl sl (4096 * b.1)) 4096) s) s
  s1.modCluster cl (fun k => { k with bands := k.bands.filter (fun b => !f b.2) })

/-- The control die writes a virtual function's QoS settings to the cores of a quad (R337). -/
def State.settings (s : State) (q vf : Nat) : State :=
  let v := s.vf vf
  (coresOf q).foldl (fun (s : State) c =>
    let x := s.core c
    if x.qhbm = v.qhbm ∧ x.qnet = v.qnet ∧ x.qwgt = v.qwgt then s
    else s.putCore c { x with qhbm := v.qhbm, qnet := v.qnet, qwgt := v.qwgt }) s

/-- A core for a new owner: no register of its own keeps what the old owner left there (R334), its port counts what it once sent
for the new owner and is still under way, and its copy of GVT is the new owner's (DEDUCED, assumption 23). -/
def State.coreFor (s : State) (vf c : Nat) : Core :=
  let own := s.unresolved.filter (fun m => m.src == c && m.vf == vf)
  let col := (s.vf vf).colour
  { s.freshCore c with
      gvtCopy := (s.vf vf).gvt, colour := col, count0 := (own.filter (fun m => !m.colour)).length, count1 := (own.filter (fun m => m.colour)).length
      leastSent := (own.filter (fun m => m.colour == col)).foldl (fun (g : Word) m => if m.key.vrt.ult g then m.key.vrt else g)
        0xFFFF_FFFF_FFFF_FFFF }

/-- Step 4 of R334. Nothing that was on its way to the old owner reaches the new one. -/
def State.newOwner (s : State) (q vf : Nat) : State :=
  let cl := q / 16
  let old := s.quadOwner q
  let s1 := if old = vf then s else (coresOf q).foldl (fun (s : State) c => s.putCore c (s.coreFor vf c)) s
  let s2 := { s1 with quads := aset s1.quads q vf }
  let s3 := if old ≠ vf ∧ s2.owned cl old = 0 then s2.zeroBands cl (fun v => v == old) else s2
  s3.settings q vf

/-- The reset of a quad ends (R350), once the last guest has left: it is scrubbed, its groups are gone, it gets its new owner if it
is being reassigned (R334), and what was held in the cluster arrives again: it is performed, held before another quad, or refused under the owner that stands now (DEDUCED,
assumption 29). -/
def State.resetDone (s : State) (q : Nat) : State :=
  let cl := q / 16
  if !(s.cluster cl).resetting.contains q then s
  else
    let s0 := (coresOf q).foldl (fun (s : State) c => s.guestsHome c) s
    if s0.guestsLeft q then s0
    else
      let next := alook (s0.cluster cl).reassigning q
      let s1 := ((s0.dissolveOn q).scrub q).modCluster cl (fun k =>
        { k with resetting := k.resetting.filter (· != q), reassigning := adel k.reassigning q })
      let s2 := match next with | some v => s1.newOwner q v | none => s1
      (s2.modCluster cl (fun k => { k with heldAcc := [] })).arriveAll (s2.cluster cl).heldAcc

/-- R350. -/
def execQuadResetDone (quad : Nat) (s : State) : Out := .next (s.resetDone quad)

/-- Reassignment of a quad (R334). Its four steps are one, unless a guest has still to leave. -/
def State.reassign (s : State) (q vf : Nat) : State :=
  ((s.resetQuad q 0x100).modCluster (q / 16) (fun k => { k with reassigning := aset k.reassigning q vf })).resetDone q

/-- R334. -/
def execQuadReassign (quad vf : Nat) (s : State) : Out :=
  .next (if 512 ≤ quad ∨ 512 ≤ vf ∨ (s.cluster (quad / 16)).resetting.contains quad then s else s.reassign quad vf)

/-! ## Engine and cluster resets (R349, R350, R355) -/

/-- The array's lease ends as at its time limit, whenever it was granted (R202). -/
def State.cutNow (s : State) (cl : Nat) : State :=
  let early := s.modCluster cl (fun k => { k with lease := k.lease.map (fun l => { l with at_ := 0 }) })
  let s1 := { early with ungated := early.ungated + 65536 }
  { s1.cutLease cl with ungated := s.ungated }

/-- Tiles of the leaseholder are poisoned: their copies in the array are lost. -/
def State.loseTiles (s : State) (cl : Nat) : State :=
  match (s.cluster cl).lease with
  | none => s
  | some l => s.modCore l.core (fun x => { x with tiles := x.tiles.map (fun t => { t with poison := true }) })

/-- Every unfinished post ends with STATUS RESET, whatever it had met (R259). -/
def State.endPosts (s : State) (cl : Nat) : State :=
  let k := s.cluster cl
  let s1 := s.modCluster cl (fun k => { k with engineQ := [], engineRun := k.engineRun ++ k.engineQ })
  (k.engineRun ++ k.engineQ).foldl (fun (s : State) p => s.postEnd cl { p with status := some (0x100, 0) }) s1

/-- An engine reset begins. -/
def State.resetEngine (s : State) (cl : Nat) : State :=
  let s1 := (((s.loseTiles cl).cutNow cl).endPosts cl).zeroBands cl (fun _ => true)
  s1.modCluster cl (fun k => { k with engineReset := true })

/-- R350. -/
def execEngineReset (cluster : Nat) (s : State) : Out :=
  .next (if 32 ≤ cluster ∨ (s.cluster cluster).engineReset then s else (s.logError .engine cluster).resetEngine cluster)

/-- R350. -/
def execEngineResetDone (cluster : Nat) (s : State) : Out :=
  .next (s.modCluster cluster (fun k => { k with engineReset := false }))

/-- The 16 quads and the engines of a cluster are reset (R349). -/
def State.resetCluster (s : State) (cl : Nat) : State :=
  let qs := ((List.range 16).map (fun i => 16 * cl + i)).filter (fun q => !(s.cluster cl).resetting.contains q)
  (qs.foldl (fun (s : State) q => s.resetQuad q (s.resetStatus q)) s).resetEngine cl

/-- R349 (DEDUCED, assumption 29). -/
def execClusterReset (cluster : Nat) (s : State) : Out := .next (if 32 ≤ cluster then s else (s.logError .cluster cluster).resetCluster cluster)

/-- Timed messages on their way to a cluster whose router has failed: a TSEND among them raises BADWIN, late (R355). -/
def State.cutTimed (s : State) (cl : Nat) : State :=
  (s.timed.filter (fun m => clusterOf m.dst == cl)).foldl (fun (s : State) m =>
      match m.ref with
      | some r => (s.uncount m).lateFail r cBADWIN (((s.pending r).map (fun p => p.ops.a)).getD 0)
      | none => s.uncount m)
    { s with timed := s.timed.filter (fun m => clusterOf m.dst != cl) }

/-- R355, at run time (DEDUCED, assumption 29). -/
def execRouterFailure (cluster : Nat) (s : State) : Out :=
  .next (if 32 ≤ cluster ∨ !s.booted then s
    else (((s.cutTimed cluster).logError .router cluster).resetCluster cluster).modCluster cluster (fun k => { k with out := true }))

/-! ## Errors (R138, R349) -/

/-- R349 (DEDUCED, assumption 32). -/
def execEccCorrected (block : Nat) (s : State) : Out :=
  .next { s with corrected := aset s.corrected block ((alook s.corrected block).getD 0 + 1) }

/-- Poison entry n of a list (DEDUCED, assumption 32). -/
def poisonNth (l : List Entry) (n : Nat) : List Entry := l.zipIdx.map (fun x => if x.2 = n then { x.1 with poison := true } else x.1)

def poisonAt (l : List (Nat × Entry)) (n : Nat) : List (Nat × Entry) :=
  l.zipIdx.map (fun x => if x.2 = n then (x.1.1, { x.1.2 with poison := true }) else x.1)

/-- Poison an entry of a structured bank. Which entry stands in which doubleword is not given: the n-th in the bank's
order (DEDUCED, assumption 32). -/
def Pers.poisonEntry (p : Pers) (n : Nat) : Pers :=
  match p with
  | .plain => .plain
  | .fifo l => .fifo (poisonNth l n)
  | .stack l => .stack (poisonNth l n)
  | .heap l => .heap (poisonAt l n)
  | .map l => .map (poisonAt l n)
  | .hist l => .hist (poisonNth l n)

/-- The doublewords of a message, one of them poisoned. -/
def Msg.poisonWord (m : Msg) (n : Nat) : Msg := .ofEntries (poisonNth m.words n)

/-- Poison a place of a member of a FIFO or STACK group: `st` is the group's store, `lo` the ring place at which the member
begins (R132). -/
def Group.poisonPlace (g : Group) (cap lo n : Nat) : Group :=
  { g with seq := poisonNth g.seq ((lo + n + cap - g.start % max cap 1) % max cap 1) }

/-- An error in a bank that holds entries, a message queue or the save log, by doubleword n (R138; DEDUCED, assumption 32). -/
def State.poisonBank (s : State) (c b n : Nat) : State :=
  match s.groupOf c b with
  | some (num, g) =>
    let st := s.gather c b
    if st.kind = 1 ∨ st.kind = 2 then
      let lo := (g.members.takeWhile (· != (c, b))).foldl (fun v m => v + (s.bank m.1 m.2).cap) 0
      if n < (s.bank c b).cap then
        s.modCluster (clusterOf c) (fun k => { k with groups := aset k.groups num (g.poisonPlace st.cap lo n) })
      else s
    else s.modBank c b (fun k => { k with pers := k.pers.poisonEntry n })
  | none => s.modBank c b (fun k => { k with pers := k.pers.poisonEntry n })

/-- An error in bank 13, the save log: the n-th doubleword, four to an entry. -/
def VTime.poisonLog (v : VTime) (n : Nat) : VTime :=
  let bad := fun (e : LogEntry) => match e.undo with | .word a l o f _ => { e with undo := .word a l o f true } | _ => e
  { v with log := v.log.zipIdx.map (fun x => if x.2 = n / 4 then bad x.1 else x.1) }

/-- An error in bank 14, the timed inbox: the n-th doubleword, six to an entry, its payload first. -/
def VTime.poisonInbox (v : VTime) (n : Nat) : VTime :=
  { v with inbox := v.inbox.zipIdx.map (fun x =>
      if x.2 = n / 6 ∧ n % 6 < 4 then { x.1 with payload := x.1.payload.poisonWord (n % 6) } else x.1) }

/-- R138. An uncorrectable error at a place. -/
def State.poisonPlace (s : State) (loc : Nat) : State :=
  if 2 ^ 56 ≤ loc ∧ loc < 2 ^ 57 then
    let o := loc - 2 ^ 56
    let c := o / scratchSize
    let b := o % scratchSize / bankSize
    let n := o % bankSize / 8
    if b = 15 then
      s.modCore c (fun x => { x with inbox := x.inbox.zipIdx.map (fun m => if m.2 = n / 4 then m.1.poisonWord (n % 4) else m.1) })
    else if b = 14 ∧ (s.core c).vt.isSome then s.modVt c (fun v => v.poisonInbox n)
    else if b = 13 ∧ (s.core c).vt.isSome then s.modVt c (fun v => v.poisonLog n)
    else if b < 8 && !(s.bank c b).pers.code == 0 then s.poisonBank c b n
    else s.setPoison loc true
  else s.setPoison loc true

/-- R138, R349 (DEDUCED, assumption 32). -/
def execPoisonSet (loc : Nat) (s : State) : Out := .next ((s.poisonPlace loc).logError .data loc)

/-- Copy n bytes with their poison bits from one frame to another. -/
def State.copyFrame (s : State) (src dst n : Nat) : State :=
  let s1 := s.clear dst n
  let cells := s.mem.cells.filter (fun c => decide (src ≤ c.1 ∧ c.1 < src + n))
  let mem := cells.foldl (fun (m : Memory) c => m.writeByte (dst + (c.1 - src)) c.2) s1.mem
  let bad := s.poisons.filter (fun p => decide (src ≤ p ∧ p < src + n))
  { s1 with mem := mem, poisons := bad.foldl (fun l p => placeAdd l (dst + (p - src))) s1.poisons }

/-- The place of the leaf entry that maps a tenant address, and the shift of its page. -/
def leafPlace (s : State) (ta : Nat) : List (Nat × Nat) → Nat → Option (Nat × Nat)
  | [], _ => none
  | (sh, w) :: below, table =>
    let loc := table + 8 * (ta / 2 ^ sh % 2 ^ w)
    let e := s.readW loc
    if !pteV e || !pteSound e sh then none else if pteL e then some (loc, sh) else leafPlace s ta below (pteFrame e)

/-- A page of a virtual function moves to a spare frame: its bytes, its entry, its stamps, and the records that name it
(DEDUCED, assumption 32). -/
def State.movePage (s : State) (vf ta frame : Nat) : State :=
  match (s.vf vf).root with
  | none => s
  | some root =>
    match leafPlace s ta [(30, 21), (21, 9), (16, 5)] root with
    | none => s
    | some (loc, sh) =>
      let e := s.readW loc
      let f := frame / 2 ^ sh * 2 ^ sh % 2 ^ 56
      let s1 := (s.copyFrame (pteFrame e) f (2 ^ sh)).write loc 8 (e.toNat - pteFrame e + f)
      let lo := ta / 2 ^ sh * 2 ^ sh
      let tiles := (List.range (2 ^ sh / 4096)).filter (fun i => (s.vf vf).tracks (lo / 4096 + i))
      let s2 := tiles.foldl (fun (s : State) i => { s with stamps := aset s.stamps (f / 4096 + i) (s.cycle, 0) }) s1
      (s2.dropTlb (fun e => e.maps vf ta)).pageMoved vf lo (2 ^ sh)

/-- R349. Each move names a virtual function, a tenant address of the page, and the spare frame (DEDUCED, assumption 32). -/
def execHbmChannelOffline (moves : List (Nat × Nat × Nat)) (s : State) : Out :=
  .next (moves.foldl (fun (s : State) m => s.movePage m.1 m.2.1 m.2.2) (s.logError .channel 0))

/-! ## Links (R344, R345) -/

/-- Change one of the 16 links (R21). -/
def State.modLink (s : State) (n : Nat) (f : Link → Link) : State :=
  if n < linkCount then { s with links := aset s.links n (f ((alook s.links n).getD {})) } else s

/-- A link goes down, which is logged (R344, R349). -/
def State.linkDown (s : State) (n : Nat) : State :=
  if n < linkCount then (s.modLink n (fun _ => {})).logError .link n else s

def State.link (s : State) (n : Nat) : Link := (alook s.links n).getD {}

/-- The version two sides agree (R345): this side supports major 1, minor 0 (DEDUCED, assumption 31). -/
def agree (lo hi : Nat) : Option (BitVec 16) := if lo ≤ 1 ∧ 1 ≤ hi then some 0x0100 else none

/-- R345. The other side supports majors lo to hi, and a minor of the agreed one. A link that is up is trained already (DEDUCED,
assumption 31). -/
def execLinkTrain (link lo hi minor : Nat) (s : State) : Out :=
  .next (if (s.link link).up then s
    else
      s.modLink link (fun _ =>
        match agree lo hi with
        | some v => { up := true, version := v ||| BitVec.ofNat 16 (min minor 0) }
        | none => {}))

/-- R344. A replay; the eighth within 2^20 cycles makes the link retrain (DEDUCED, assumption 31). -/
def execLinkReplay (link : Nat) (s : State) : Out :=
  .next (if !(s.link link).up then s
    else
      s.modLink link (fun l =>
        let recent := l.replays.filter (fun c => decide (s.cycle < c + 2 ^ 20)) ++ [s.cycle]
        if 8 ≤ recent.length then { l with replays := [], training := true } else { l with replays := recent }))

/-- R344. A link retrains, after a loss of lane lock too, and `ok` says with what success. After three failures the attempt is a
reset of the link, and one that fails takes the link down (DEDUCED, assumption 31). -/
def execLinkRetrain (link : Nat) (ok : Bool) (s : State) : Out :=
  let l := s.link link
  .next (if !l.up then s
    else if ok then s.modLink link (fun l => { l with replays := [], failed := 0, training := false })
    else if l.failed < 3 then s.modLink link (fun l => { l with replays := [], failed := l.failed + 1, training := true })
    else s.linkDown link)

/-- R344 (DEDUCED, assumption 31). -/
def execLinkDown (link : Nat) (s : State) : Out := .next (if (s.link link).up then s.linkDown link else s)

/-! ## Token buckets (R336) -/

/-- The bucket register of a resource. -/
def Core.bucketReg (x : Core) (res : Nat) : Word := if res = 0 then x.qhbm else x.qnet
def Core.setTokens (x : Core) (res n : Nat) : Core := if res = 0 then { x with hbmTok := n } else { x with netTok := n }

/-- The bucket that a line at a tenant address is charged to, at a core's port. -/
def State.bucketAt (s : State) (c ta : Nat) : Option Nat :=
  if taOnChip ta then none
  else match s.walkAt (clusterOf c) (s.owner c) ta with | .leaf _ pa => some (bucketOf pa) | .absent => none

/-- Lines from number `paid` on of n doublewords at a tenant address. -/
def linesFrom (ta n paid : Nat) : List Nat := ((List.range (lineCount ta n)).drop paid).map (fun i => lineTa ta i)

/-- Tenant addresses that the moves of a post that are still to be made touch. -/
def State.postLines (s : State) (p : Post) : List Nat :=
  let left := (List.range p.total).filter (fun k => !p.moved.contains k)
  match p.ins, p.table with
  | .copy _ _ _ w, _ =>
    let n := w.w0.toNat / 8
    let at_ := fun (ea : Word) (st : Word32) (k : Nat) => segTa p.ops.segs (rowEa ea st (k / n)) + 8 * (k % n)
    left.map (at_ p.ops.ea w.w2) ++ left.map (at_ p.ops.b w.w3)
  | .gath _ _ _ w, some l | .scat _ _ _ w, some l =>
    (match p.rows with
     | none => linesFrom p.ops.ta ((tileBytes w + 7) / 8) p.ops.paid
     | some rows =>
       let n := l.rowBytes / 8
       left.map (fun k => s.entryPlace p l (k / n) (rows.getD (k / n) 0) + 8 * (k % n)))
  | .rmig _ _ _ _ _, some l =>
    (match s.tableOf p.vf l.num with
     | some t => left.flatMap (fun k => [t.place p.ops.b.toNat + 8 * k, t.newPlace p.id + 8 * k])
     | none => [])
  | _, _ => []

/-- Tenant addresses that the moves of an array transfer that are still to be made touch; an MEPI writes on chip (R217). -/
def Xfer.lines (x : Xfer) : List Nat :=
  match x.ins with
  | .mloadb _ _ _ w =>
    let bf := fldN w.w2 0 4
    let per := bRow bf / 8
    let (nd, ns) := loadMoves w
    let stride := if w.w3 = 0 then bRow bf else w.w3.toNat
    let left := (List.range (nd + ns)).filter (fun n => !x.moved.contains n)
    left.map (fun n => if n < nd then x.ops.ta + n / per * stride + 8 * (n % per) else x.ops.c.toNat + (n - nd))
  | _ => []

/-- Lines of an instruction that pays for them itself: a record, or the data of an array command at the head of its queue. -/
def Pending.ownLines (p : Pending) : List Nat :=
  match p.ins with
  | .launch _ _ _ _ _ => linesFrom p.ops.ta 16 p.ops.paid
  | .tblset _ _ _ _ => linesFrom p.ops.ta 8 p.ops.paid
  | .bankjoin _ _ => linesFrom p.ops.ta 1 p.ops.paid
  | .relaunch _ _ _ _ _ => if p.ops.stage = 0 then linesFrom p.ops.ta (p.ops.n / 8) p.ops.paid else []
  | .cbcast _ _ _ _ _ => linesFrom p.ops.ta (p.ops.n / 8) p.ops.paid
  | .btld _ _ _ | .btst _ _ _ => linesFrom p.ops.ta 3600 p.ops.paid
  | .mcb _ _ _ => linesFrom p.ops.ta 4 p.ops.paid
  | _ => []

/-- A multicast post of a core has lines for other clusters left. -/
def Post.multicasts (p : Post) (c : Nat) : Bool :=
  p.core == c && decide (p.moved.length < p.total) &&
  (match p.clusters with | some m => (List.range 32).any (fun d => m.getLsbD d && d != clusterOf c) | none => false)

/-- A broadcast whose participants are complete has bytes of its root on a core left for other clusters. -/
def State.rootSends (s : State) (c : Nat) (k : Collective) : Bool :=
  k.bcast && decide (2 ≤ k.scope) && (decide (k.n ≤ k.arrived.length) || (s.farOf k).isSome) &&
  k.arrived.any (fun a => match s.pendingAny a.1 with
    | some p => isRoot p && p.ops.core == c && decide (p.ops.stage < (p.ops.n + 127) / 128)
    | none => false)

/-- A core has a line waiting for a network token that no memory access makes: of a packet, an anti-message, a multicast or a
collective. -/
def State.netWaits (s : State) (c : Nat) : Bool :=
  s.packets.any (fun m => m.src == c && clusterOf m.dst != clusterOf c) ||
  s.timed.any (fun m => m.anti && m.src == c && clusterOf m.dst != clusterOf c) ||
  (s.cluster (clusterOf c)).engineRun.any (fun p => p.multicasts c) || s.collectives.any (fun k => s.rootSends c k) ||
  (List.range 16).any (fun n => match s.nextInstr c (s.thr c n) with
    | .ok (.cred a b l p) => (s.thr c n).inRotation && extraHeld (.cred a b l p) { s with curCore := c, curSlot := n }
    | .ok (.cbcast a b d l p) => (s.thr c n).inRotation && extraHeld (.cbcast a b d l p) { s with curCore := c, curSlot := n }
    | _ => false)

/-- A core has a line of a resource waiting that a fetch of one of its threads makes. -/
def State.fetchWaits (s : State) (c res : Nat) : Bool :=
  (List.range 16).any (fun n =>
    let t := s.thr c n
    t.inRotation && t.stop.isNone && decide (t.busy ≤ s.cycle) && !t.pend.any (fun p => p.cover == 0) &&
    (s.fetchBuckets c t (s.fetchLen c t)).contains res)

/-- The line of the write-back or fill of a context entry that is to leave next waits at a core. -/
def State.backWaits (s : State) (c : Nat) (is : Nat → Bool) : Bool :=
  let x := s.core c
  x.backPaid.any (fun q => decide (q.2 < 16) && is (tccTa x.tccBase (tccN x.tccCtl) (q.1 / 2) (16 * q.2)))

/-- The line of memory that a rollback of a core has to write next. -/
def State.undoWaits (s : State) (c res : Nat) : Bool :=
  match (s.core c).vt with
  | none => false
  | some v =>
    match v.straggler with
    | none => false
    | some (k, incl) => (s.thr c 14).atBoundary &&
        (match (v.log.filter (fun e => beyond k incl e.key)).getLast? with
         | some e => (s.undoLine c e).map bucketOf == some res
         | none => false)

/-- The patch of a run whose poster was on a core has lines left. -/
def Trace.patchWaits (t : Trace) (c : Nat) (is : Nat → Bool) : Bool :=
  match t.run, t.bound with
  | some run, some b => run.core == c && !run.decided && (linesFrom (b.patchTa run) run.patch.length run.paid).any is
  | _, _ => false

/-- A core has a line of a resource waiting for a token: of an instruction or its fetch, of a packet or a collective, of its engine
and array work, of a context, of a rollback or of its released output. -/
def State.lineWaits (s : State) (c res : Nat) : Bool :=
  let k := s.cluster (clusterOf c)
  let is := fun (ta : Nat) => s.bucketAt c ta == some res
  !(s.core c).hasToken res &&
  ((s.inFlight c).any (fun x => s.bucketFor c x.2 == some res) ||
   (res == 1 && s.netWaits c) || s.fetchWaits c res || s.backWaits c is || s.undoWaits c res ||
   s.traces.any (fun t => t.2.patchWaits c is) ||
   (List.range 16).any (fun n => (s.thr c n).pend.any (fun p =>
      (!counted p.ins || (k.cmds.head?.map (·.ref) == some ⟨c, n, p.id⟩)) && p.ownLines.any is)) ||
   k.engineRun.any (fun p => p.core == c && (s.postLines p).any is) || k.xfers.any (fun x => x.core == c && x.lines.any is) ||
   ((s.core c).vt.bind (fun v => v.release (s.vf (s.owner c)).gvt)).any (fun e => is e.ta.toNat))

/-- The values written to the bucket registers since the last refill take effect (R337). -/
def State.takeBuckets (s : State) (cl : Nat) : State :=
  { s with cores := s.cores.map (fun c =>
      (c.1, if clusterOf c.1 = cl then { c.2 with qhbmNow := c.2.qhbm, qnetNow := c.2.qnet } else c.2)) }

/-- Refill the buckets of one resource of a cluster. -/
def State.refill (s : State) (cl res : Nat) : State :=
  let limited := (s.cores.filter (fun c => clusterOf c.1 == cl && !unlimited (c.2.bucketReg res))).map (·.1)
  let waits := limited.filter (fun c => s.lineWaits c res)
  let cap := fun (c : Nat) => ((s.core c).bucketReg res).toNat / 2 ^ 32
  let full := fun (c : Nat) => min ((s.core c).tokens res) (cap c) + ((s.core c).bucketReg res).toNat % 2 ^ 32
  let pool := limited.foldl (fun n c => n + (full c - cap c)) 0
  let s1 := limited.foldl (fun (s : State) c => s.modCore c (fun x => x.setTokens res (min (full c) (cap c)))) s
  let each := if waits.isEmpty then 0 else pool / waits.length
  let odd := if waits.isEmpty then 0 else pool % waits.length
  let s2 := waits.zipIdx.foldl (fun (s : State) w =>
    s.modCore w.1 (fun x => x.setTokens res (min (x.tokens res + each + (if w.2 < odd then 1 else 0)) (cap w.1)))) s1
  { s2 with cores := s2.cores.map (fun c =>
      (c.1, if clusterOf c.1 = cl ∧ unlimited (c.2.bucketReg res) then c.2.setTokens res 0 else c.2)) }

/-- R336. -/
def execBucketRefill (cluster : Nat) (s : State) : Out :=
  .next (if s.cycle % 1024 ≠ 0 ∨ (s.cluster cluster).refilled = s.cycle then s
    else (((s.takeBuckets cluster).refill cluster 0).refill cluster 1).modCluster cluster (fun k => { k with refilled := s.cycle }))

/-! ## Power (R354) -/

/-- Rotations gated out of the last 256, those of the last four intervals among the newest five (R354; DEDUCED,
assumption 28). -/
def State.gatedOf256 (s : State) : Nat :=
  let now := s.cycle / 16
  ((List.range 256).filter (fun i =>
    decide (i < now) && decide ((now - 1 - i) % 16 < s.gates.getD (now / 64 - (now - 1 - i) / 64) 0))).length

/-- What PWRSTAT reads: THR and AVGW as kept, and GATE (R354). -/
def State.pwrstatNow (s : State) : Word :=
  BitVec.ofNat 64 (s.pwrstat.toNat / 2 ^ 32 * 2 ^ 32 + s.gatedOf256 % 256 * 2 ^ 16 + s.pwrstat.toNat % 2 ^ 16)

/-- R354. At the beginning of an interval the controller chooses the rotations to gate; the average draw is what it measured
(DEDUCED, assumption 28). -/
def execGatingInterval (gated watts : Nat) (s : State) : Out :=
  .next (if s.cycle % 1024 ≠ 0 ∨ s.gatedAt = s.cycle ∨ 15 < gated then s
    else
      { s with gates := gated :: s.gates.drop 1, gatedAt := s.cycle
               pwrstat := BitVec.ofNat 64 (s.pwrstat.toNat / 2 ^ 32 * 2 ^ 32 + watts % 2 ^ 16) })

/-- An interval has ended: it counts in THR if rotations were gated in it, and the choice stands until the controller makes the
next. -/
def State.nextInterval (s : State) : State :=
  let thr := s.pwrstat.toNat / 2 ^ 32
  let thr := if s.gates.headD 0 = 0 then thr else min (thr + 1) (2 ^ 32 - 1)
  { s with gates := (s.gates.headD 0 :: s.gates).take 5, pwrstat := BitVec.ofNat 64 (thr * 2 ^ 32 + s.pwrstat.toNat % 2 ^ 16) }

/-! ## Snapshots (R351) -/

/-- R351 (DEDUCED, assumption 30). -/
def execSnapshotPin (s : State) : Out := .next (s.trigger true).2

/-- What a core latches (DEDUCED, assumption 30). -/
def Core.latch (x : Core) (at_ : Nat) : Core :=
  let slots := x.slots.toList
  { x with
    snapCtl := BitVec.ofNat 64 (at_ % 2 ^ 48 * 2 ^ 16 + 4 + x.snapCtl.toNat % 4)
    snap := some { stamp := at_, states := slots.map Thread.stateCode, pcs := slots.map (·.pc), tsws := slots.map Thread.tsw
                   wheel := at_ % 16, lend := x.lend.toNat
                   queued := slots.flatMap (fun t => (t.pend.filter (fun p => p.phase == .flight)).map (fun p => p.ops.ta)) } }

/-- R351. At the trigger's stamp every enabled core that holds no snapshot latches (DEDUCED, assumption 30). -/
def execSnapshotLatch (s : State) : Out :=
  .next (match s.snapAt with
    | none => s
    | some n =>
      if s.cycle ≠ n then s
      else
        { s with snapAt := none, snapPin := false, cores := s.cores.map (fun c =>
            (c.1, if c.2.snapCtl.getLsbD 0 && !c.2.snapCtl.getLsbD 2 && (!s.snapPin || c.2.snapCtl.getLsbD 1)
                  then c.2.latch n else c.2)) })

/-! ## Boot and attestation (R352, R353) -/

/-- Fields of an entry of the boot record. -/
def beState (e : BootEntry) : Nat := e.toNat % 4
def beImg (e : BootEntry) : Nat := e.toNat / 8 % 2
def beFails (e : BootEntry) : Nat := e.toNat / 256
def bootEntry (state skip img fails : Nat) : BootEntry := BitVec.ofNat 16 (state + 4 * skip + 8 * img + 256 * min fails 255)

/-- Step n (from 0) is required, and has an image (R352; DEDUCED, assumption 26). -/
def stepRequired (n : Nat) : Bool := n != 4 && n != 5
def stepImage (n : Nat) : Bool := n == 0 || n == 2 || n == 3 || n == 4 || n == 7

/-- What the previous start's entry decides for a step (R353). -/
inductive Decide where
  | run (img : Nat)
  | skip
  | stop
  deriving DecidableEq, Repr

def decideStep (n : Nat) (e : BootEntry) : Decide :=
  if beState e = 0 ∨ beState e = 2 then .run (beImg e)
  else if !stepRequired n then .skip
  else if stepImage n && decide (beFails e < 2) then .run (1 - beImg e)
  else .stop

/-- The fuse record can be read and names one disabled cluster for each die (R8, R10). -/
def fusesGood (f : Option (List (List Nat))) : Bool :=
  match f with
  | none => false
  | some l => l.length == 4 && l.all (fun d => match d with | [n] => decide (n < 9) | _ => false)

/-- The physical cluster of a logical one: the (c mod 8)-th enabled one of its die (R9). -/
def State.physicalOf (s : State) (c : Nat) : Nat :=
  let off := (s.fuses.getD []).getD (c / 8) []
  ((List.range 9).filter (fun n => !off.contains n)).getD (c % 8) 0

/-- Run the steps from n on: entries of this start, and whether every step went well. `results` says of each step that is run
whether it succeeds; when it is at an end, power is lost during the step. Step 2 fails too when the fuse record is not good. A
step that is not reached keeps its image and its count of failures (DEDUCED, assumption 26). -/
def bootFrom (fuses : Bool) : Nat → List BootEntry → List Bool → List BootEntry × Bool
  | _, [], _ => ([], true)
  | n, e :: r, results =>
    let rest := fun (l : List BootEntry) => l.map (fun e => bootEntry 0 0 (beImg e) (beFails e))
    match decideStep n e with
    | .stop => (e :: rest r, false)
    | .skip => let (l, ok) := bootFrom fuses (n + 1) r results; (bootEntry 0 1 (beImg e) (beFails e) :: l, ok)
    | .run img =>
      match results with
      | [] => (bootEntry 1 0 img (beFails e + 1) :: rest r, false)
      | good :: more =>
        if good && (n != 1 || fuses) then
          let (l, ok) := bootFrom fuses (n + 1) r more
          (bootEntry 2 0 img 0 :: l, ok)
        else
          let bad := bootEntry 3 0 img (beFails e + 1)
          if stepRequired n then (bad :: rest r, false)
          else
            let (l, ok) := bootFrom fuses (n + 1) r more
            (bad :: l, ok)

/-- A start after one that went well begins from reset. What persists: the boot record, the fuses and the wiring, the logs, what has
left the package, and the host's memory (DEDUCED, assumption 26). -/
def State.powerUp (s : State) : State :=
  if !s.booted then s
  else
    { State.reset with
        schedule := s.schedule, free := s.free, nextId := s.nextId, wiring := s.wiring, fuses := s.fuses, bootPrev := s.bootPrev
        bootNow := s.bootNow, measured := s.measured, signed := s.signed, sent := s.sent, reports := s.reports, errors := s.errors
        mem := ⟨s.mem.cells.filter (fun c => paSpace c.1 == .host)⟩ }

/-- R352, R353. A start: when its last step is done the cores are released, with the service loop in every slot 15,
and COREID.PKG has its value (R68; DEDUCED, assumption 26, DESIGN CHOICE, assumption 1). -/
def execBoot (results : List Bool) (digests : List Word) (s : State) : Out :=
  let u := s.powerUp
  let (now, ok) := bootFrom (fusesGood u.fuses) 0 u.bootNow results
  .next { u with bootPrev := u.bootNow, bootNow := now, measured := u.measured ++ digests, booted := ok
                 pkg := if ok then Config.packageIndex else u.pkg, cores := if ok then [] else u.cores }

/-- R353 (DESIGN CHOICE, assumption 45). -/
def execAttestationSign (nonce : Word) (s : State) : Out :=
  .next { s with signed := s.signed ++ [Config.signature (nonce :: s.measured)] }

end Sys2Proof.Machine
end

