-- ==== Sys2Proof/Machine/Mailbox.lean ====
section
/-!
DEFINITION. Machine/Mailbox.lean: the mailboxes by which the host asks the control die for work (R340 to R343, R345, R354).
-/
namespace Sys2Proof.Machine

/-! ## Registers (R341) -/

def State.mailbox (s : State) (fn : Nat) : Mailbox := (alook s.mailboxes fn).getD {}

def State.modMailbox (s : State) (fn : Nat) (f : Mailbox → Mailbox) : State :=
  { s with mailboxes := aset s.mailboxes fn (f (s.mailbox fn)) }

/-- Functions that have a mailbox: the physical one and 512 virtual ones (R339, R340). -/
def mbExists (fn : Nat) : Bool := decide (fn ≤ 512)

/-- The entry at CPLHEAD − 1 is the next to write: the ring is full. -/
def Mailbox.full (m : Mailbox) : Bool := m.cplTail + 1 == m.cplHead

/-- What the host reads at an offset of BAR0 by an access of `size` bytes (R341; DESIGN CHOICE, assumption 4). -/
def Mailbox.readReg (m : Mailbox) (off size : Nat) : Word :=
  if size ≠ 8 then 0
  else if off = 0x000 then 0x0000_0001_0001_0000 ||| m.version.setWidth 64
  else if off = 0x008 then m.mbopen
  else if off = 0x010 then m.reqBase
  else if off = 0x018 then m.cplBase
  else if off = 0x020 then m.reqTail.setWidth 64
  else if off = 0x028 then m.reqHead.setWidth 64
  else if off = 0x030 then m.cplHead.setWidth 64
  else if off = 0x038 then m.cplTail.setWidth 64
  else if off = 0x040 then
    BitVec.ofNat 64 (m.opened.toNat + 2 * m.down.toNat + 4 * (m.opened && m.full && !m.waiting.isEmpty).toNat + 8 * m.badrq.toNat)
  else 0

/-- MBOPEN with OPEN = 1 (R341 step 1). The host supports the majors from 1 up to that of its highest version. -/
def Mailbox.open_ (m : Mailbox) (v : Word) : Mailbox :=
  let m := { m with mbopen := v, badrq := false }
  match agree 1 (v.toNat / 256 % 256) with
  | some ver => { m with version := ver, opened := true, down := false, reqTail := 0, reqHead := 0, cplHead := 0, cplTail := 0 }
  | none => { m with version := 0, opened := false, down := true }

/-- R341 (DEDUCED, assumption 27). -/
def execMailboxOpen (fn : Nat) (v : Word) (s : State) : Out :=
  .next (if mbExists fn && zeroBits v 63 17 && v.getLsbD 16 then s.modMailbox fn (fun m => m.open_ v) else s)

/-- R341 step 4. Requests not yet taken are dropped; what waits in `waiting` waits for the next opening. -/
def execMailboxClose (fn : Nat) (v : Word) (s : State) : Out :=
  .next (if mbExists fn && zeroBits v 63 17 && !v.getLsbD 16 then
      s.modMailbox fn (fun m => { m with mbopen := v, opened := false, version := 0 })
    else s)

/-- R341. A base that is no multiple of 4,096, or one written while OPEN = 1, writes nothing. -/
def execMailboxRegisterWrite (fn off : Nat) (v : Word) (s : State) : Out :=
  .next (if mbExists fn && v.toNat % 4096 == 0 && !(s.mailbox fn).opened then
      if off = 0x010 then s.modMailbox fn (fun m => { m with reqBase := v })
      else if off = 0x018 then s.modMailbox fn (fun m => { m with cplBase := v })
      else s
    else s)

/-- R341 step 2. -/
def execReqtailWrite (fn : Nat) (v : Word) (s : State) : Out :=
  .next (if mbExists fn && zeroBits v 63 8 then s.modMailbox fn (fun m => { m with reqTail := v.setWidth 8 }) else s)

/-- R341 step 3. -/
def execCplheadWrite (fn : Nat) (v : Word) (s : State) : Out :=
  .next (if mbExists fn && zeroBits v 63 8 then s.modMailbox fn (fun m => { m with cplHead := v.setWidth 8 }) else s)

/-! ## Taking a request (R342) -/

/-- System physical address of a host address (R338). -/
def hostPa (a : Nat) : Nat := 2 ^ 45 + a % 2 ^ 45

/-- The request entry at REQHEAD, when there is one and every request taken before it has been carried out (DEDUCED,
assumption 27). -/
def State.nextRequest (s : State) (fn : Nat) : Option MbEntry :=
  let m := s.mailbox fn
  if m.opened && m.reqHead != m.reqTail && m.held.isEmpty then
    some ((List.range 8).map (fun i => s.readW (hostPa (m.reqBase.toNat + 64 * m.reqHead.toNat + 8 * i))))
  else none

def MbEntry.at_ (e : MbEntry) (i : Nat) : Word := e.getD i 0
def MbEntry.kind (e : MbEntry) : Nat := (e.at_ 0).toNat % 256
def MbEntry.tag (e : MbEntry) : BitVec 16 := (e.at_ 0).extractLsb' 16 16

/-- Doublewords from i to 7 are 0. -/
def MbEntry.zeroFrom (e : MbEntry) (i : Nat) : Bool := (List.range 8).all (fun j => decide (j < i) || e.at_ j == 0)

/-- The reserved fields of a request of a listed KIND are 0 (DEDUCED, assumption 27). -/
def MbEntry.reservedOk (e : MbEntry) : Bool :=
  zeroBits (e.at_ 0) 63 32 && zeroBits (e.at_ 0) 15 8 &&
  (match e.kind with
   | 1 => zeroBits (e.at_ 2) 63 52 && e.zeroFrom 5
   | 2 => zeroBits (e.at_ 1) 63 16 && e.at_ 2 == 0 && e.at_ 3 == 0
   | 3 => e.zeroFrom 1
   | 4 => zeroBits (e.at_ 1) 63 17 && zeroBits (e.at_ 1) 15 12 && e.zeroFrom 3
   | _ => true)

/-- A KIND that the function may use: no launch or message from the physical function, no register request from a virtual one. -/
def kindAllowed (fn kind : Nat) : Bool := if kind = 1 ∨ kind = 2 then fn != 0 else if kind = 4 then fn == 0 else true

/-- The completion of a request (R343). -/
def answer (kind : Nat) (status : Nat) (tag : BitVec 16) (low : BitVec 32) (d2 stamp : Word) : MbEntry :=
  [BitVec.ofNat 64 (status * 2 ^ 32 + kind), BitVec.ofNat 64 (tag.toNat * 2 ^ 32 + low.toNat), d2, stamp]

/-- REQHEAD passes the entry. -/
def State.taken (s : State) (fn : Nat) : State := s.modMailbox fn (fun m => { m with reqHead := m.reqHead + 1 })

/-- Quads of a virtual function on this package. -/
def State.quadsOwned (s : State) (vf : Nat) : Nat := ((List.range 512).filter (fun q => s.quadOwner q == vf)).length

/-- What QUERY answers. The physical function has no SCOPEPOL: its packages are a free value (assumption 3), its quads none. -/
def State.queryWord (s : State) (fn : Nat) : Word × State :=
  if fn = 0 then
    let (w, s1) := s.freeWord
    (BitVec.ofNat 64 (w.toNat % 2 ^ 32 * 2 ^ 32), s1)
  else (BitVec.ofNat 64 ((s.vf (fn - 1)).scopepol.toNat / 2 ^ 32 * 2 ^ 32 + s.quadsOwned (fn - 1)), s)

def MbEntry.creg (e : MbEntry) : Nat := (e.at_ 1).toNat % 2 ^ 12
def MbEntry.cregWrite (e : MbEntry) : Bool := (e.at_ 1).getLsbD 16

/-- The value of a control-die register; 0 where there is none of the number (DEDUCED, assumption 27). -/
def State.cregNow (s : State) (n : Nat) : Word := match n with | 1 => s.pwrlim | 2 => s.pwrstatNow | _ => 0

/-- Doubleword 2 of a completion that refuses a request, by its KIND (R343; DEDUCED, assumption 27). -/
def State.refusedWord (s : State) (fn kind : Nat) (e : MbEntry) : Word × State :=
  match kind with
  | 0x23 => s.queryWord fn
  | 0x24 => (s.cregNow e.creg, s)
  | _ => (0, s)

/-- A request is refused: STATUS is the cause, and BADRQ is set. -/
def State.refuseRequest (s : State) (fn kind : Nat) (e : MbEntry) (cause : Byte) : State :=
  let (w, s) := s.refusedWord fn kind e
  ((s.taken fn).modMailbox fn (fun m => { m with badrq := true })).mbPush fn (answer kind cause.toNat e.tag 0 w s.stamp)

/-- A request is carried out. -/
def State.grantRequest (s : State) (fn kind : Nat) (e : MbEntry) (low : BitVec 32) (d2 : Word) : State :=
  (s.taken fn).mbPush fn (answer kind 0 e.tag low d2 s.stamp)

/-- Take the next request if it is of a KIND: refused when a reserved field is not 0 or the function may not use it. -/
def State.takeRequest (s : State) (fn kind : Nat) (f : MbEntry → State) : State :=
  match s.nextRequest fn with
  | none => s
  | some e =>
    if e.kind ≠ kind then s
    else if e.reservedOk && kindAllowed fn kind then f e
    else s.refuseRequest fn (kind + 0x20) e cILLOP

/-! ## LAUNCH (R342, R232) -/

def MbEntry.params (e : MbEntry) : Params :=
  ⟨(e.at_ 3).setWidth 32, (e.at_ 3).extractLsb' 32 32, (e.at_ 4).setWidth 32, (e.at_ 4).extractLsb' 32 32⟩

/-- The segment table of a launch request, read through the function's page tables at user privilege. -/
inductive TableRead where
  /-- V = 0: the request waits for the pager -/
  | wait
  | fault (code : Byte)
  | ok (l : List Entry)

def State.readTable (s : State) (vf ta : Nat) : Nat → TableRead
  | 0 => .ok []
  | n + 1 =>
    match s.check (s.walk vf ta) { r := true } false with
    | .absent => .wait
    | .fault c => .fault c
    | .ok pa =>
      match s.readTable vf (ta + 8) n with
      | .ok l => .ok (s.entryAt pa :: l)
      | x => x

/-- Step 4 of R232 for a launcher with TSW.SYS = 0. -/
def tableCause (l : List Entry) : Option Byte :=
  if l.any (·.poison) then some cPOISON
  else if (descriptors l).any segReserved then some cILLOP
  else if (descriptors l).any segP then some cPRIV
  else none

/-- Steps 1, 3, 4 and 5 of R232, then the dispatcher of W2.DIE (DEDUCED, assumption 27). -/
def State.launchRequest (s : State) (fn : Nat) (e : MbEntry) : State :=
  let w := e.params
  let ta := (e.at_ 2).toNat
  let vf := fn - 1
  if ta = 0 ∨ !lwLaunchOk w then s.refuseRequest fn 0x21 e cILLOP
  else if ta % 16 ≠ 0 then s.refuseRequest fn 0x21 e cALIGN
  else if taOnChip ta then s.refuseRequest fn 0x21 e cBADWIN
  else
    match s.readTable vf ta 16 with
    | .wait => s
    | .fault c => s.refuseRequest fn 0x21 e c
    | .ok l =>
      match tableCause l with
      | some c => s.refuseRequest fn 0x21 e c
      | none =>
        if s.foreignHandle w.w3 vf then s.refuseRequest fn 0x21 e cBADWIN
        else
          match s.submit (lwDieField w) vf (vecOf (descriptors l)) w (e.at_ 1) (.mailbox fn e.tag) none with
          | (some h, s1) => s1.grantRequest fn 0x21 e h 0
          | (none, s1) => (s1.taken fn).mbPush fn (answer 0x21 0x200 e.tag 0 0 s.stamp)

/-- R342. -/
def execReqLaunch (fn : Nat) (s : State) : Out := .next (s.takeRequest fn 1 (s.launchRequest fn))

/-! ## MESSAGE, QUERY and register requests -/

def MbEntry.msg (e : MbEntry) : Msg := .ofWords (e.at_ 4) (e.at_ 5) (e.at_ 6) (e.at_ 7)

/-- A message reaches its inbox, or is held until there is room (DESIGN CHOICE, assumption 17). -/
def State.messageRequest (s : State) (fn : Nat) (e : MbEntry) : State :=
  match targetCore (e.at_ 1) with
  | none => s.refuseRequest fn 0x22 e cBADWIN
  | some (pkg, c) =>
    if pkg = s.pkg.toNat then
      if !s.isCoreOf c (fn - 1) || s.coreOut c then s.refuseRequest fn 0x22 e cBADWIN
      else if (s.core c).inboxRoom && !s.quadDown c then (s.enqueue c e.msg).grantRequest fn 0x22 e 0 0
      else (s.taken fn).modMailbox fn (fun m => { m with held := m.held ++ [(c, e.msg, e.tag)] })
    else if !s.reaches (fn - 1) pkg then s.refuseRequest fn 0x22 e cBADWIN
    else
      let (k, s1) := s.foreignAnswer
      if k = 2 then s1.refuseRequest fn 0x22 e cBADWIN
      else ({ s1 with sent := s1.sent ++ [(e.at_ 1, e.msg)] }).grantRequest fn 0x22 e 0 0

/-- The message that is held is delivered once its inbox has room and its quad is not being reset, or refused if its target has
passed to another virtual function (R334, R350; DEDUCED, assumption 27). -/
def State.heldMessage (s : State) (fn : Nat) : Option State :=
  match (s.mailbox fn).held with
  | (c, m, tag) :: rest =>
    if !s.isCoreOf c (fn - 1) || s.coreOut c then
      some ((s.modMailbox fn (fun x => { x with held := rest, badrq := true })).mbPush fn (answer 0x22 cBADWIN.toNat tag 0 0 s.stamp))
    else if (s.core c).inboxRoom && !s.quadDown c then
      some (((s.enqueue c m).modMailbox fn (fun x => { x with held := rest })).mbPush fn (answer 0x22 0 tag 0 0 s.stamp))
    else none
  | [] => none

/-- R342. -/
def execReqMessage (fn : Nat) (s : State) : Out :=
  .next (match s.heldMessage fn with
    | some s' => s'
    | none => s.takeRequest fn 2 (s.messageRequest fn))

def State.queryRequest (s : State) (fn : Nat) (e : MbEntry) : State :=
  let (w, s1) := s.queryWord fn
  s1.grantRequest fn 0x23 e 0 w

/-- R342. -/
def execReqQuery (fn : Nat) (s : State) : Out := .next (s.takeRequest fn 3 (s.queryRequest fn))

/-- The ranges of PWRLIM (R354; DEDUCED, assumption 27). -/
def pwrlimOk (v : Word) : Bool :=
  let amps := v.toNat / 2 ^ 32 % 2 ^ 16
  let watts := v.toNat % 2 ^ 16
  zeroBits v 63 48 && zeroBits v 31 16 && decide (2000 ≤ amps ∧ amps ≤ 7500 ∧ 1000 ≤ watts ∧ watts ≤ 3600)

/-- A read of a control-die register. -/
def State.cregRead (s : State) (fn : Nat) (e : MbEntry) : State :=
  if e.cregWrite then s
  else
    match e.creg with
    | 1 => s.grantRequest fn 0x24 e 0 s.pwrlim
    | 2 => s.grantRequest fn 0x24 e 0 s.pwrstatNow
    | _ => s.refuseRequest fn 0x24 e cILLCFG

/-- A write of a control-die register (DEDUCED, assumption 27). -/
def State.cregSet (s : State) (fn : Nat) (e : MbEntry) : State :=
  if !e.cregWrite then s
  else if e.creg = 1 ∧ pwrlimOk (e.at_ 2) then { s with pwrlim := e.at_ 2 }.grantRequest fn 0x24 e 0 (e.at_ 2)
  else s.refuseRequest fn 0x24 e cILLCFG

/-- R342. -/
def execReqCregRead (fn : Nat) (s : State) : Out := .next (s.takeRequest fn 4 (s.cregRead fn))

/-- R354. -/
def execReqCregWrite (fn : Nat) (s : State) : Out := .next (s.takeRequest fn 4 (s.cregSet fn))

/-- R343. -/
def execReqUnlistedKind (fn : Nat) (s : State) : Out :=
  .next (match s.nextRequest fn with
    | some e => if 1 ≤ e.kind ∧ e.kind ≤ 4 then s else s.refuseRequest fn 0x25 e cILLOP
    | none => s)

/-! ## Completions (R341 step 3, R343) -/

/-- Four doublewords of a completion entry. -/
def State.putCompletion (s : State) (pa : Nat) : List Word → State
  | [] => s
  | w :: r => (s.store pa 8 w.toNat).putCompletion (pa + 8) r

/-- The oldest completion is written, CPLTAIL advances, and the function's MSI-X message is sent. -/
def State.complete (s : State) (fn : Nat) : State :=
  let m := s.mailbox fn
  match m.waiting with
  | [] => s
  | e :: rest =>
    if !m.opened || m.full then s
    else
      (s.putCompletion (hostPa (m.cplBase.toNat + 32 * m.cplTail.toNat)) e).modMailbox fn (fun m =>
        { m with waiting := rest, cplTail := m.cplTail + 1, msix := m.msix + 1 })

/-- R341. -/
def execMailboxCompletion (fn : Nat) (s : State) : Out := .next (s.complete fn)

end Sys2Proof.Machine
end

