-- ==== Sys2Proof/Machine/Dispatch.lean ====
section
/-!
DEFINITION. Machine/Dispatch.lean: one arm for every instruction and every step of the hardware, one direct call each.
-/
namespace Sys2Proof.Machine

/-- What the machine does for each row of the opcode table. -/
def exec (i : Instr) (s : State) : Host.Outcome State Fault Refusal :=
  match i with
  | .add d a b => Sys2Proof.Machine.execAdd d a b s
  | .sub d a b => Sys2Proof.Machine.execSub d a b s
  | .and d a b => Sys2Proof.Machine.execAnd d a b s
  | .or d a b => Sys2Proof.Machine.execOr d a b s
  | .xor d a b => Sys2Proof.Machine.execXor d a b s
  | .sll d a b => Sys2Proof.Machine.execSll d a b s
  | .srl d a b => Sys2Proof.Machine.execSrl d a b s
  | .sra d a b => Sys2Proof.Machine.execSra d a b s
  | .slt d a b => Sys2Proof.Machine.execSlt d a b s
  | .sltu d a b => Sys2Proof.Machine.execSltu d a b s
  | .min d a b => Sys2Proof.Machine.execMin d a b s
  | .max d a b => Sys2Proof.Machine.execMax d a b s
  | .minu d a b => Sys2Proof.Machine.execMinu d a b s
  | .maxu d a b => Sys2Proof.Machine.execMaxu d a b s
  | .mul d a b => Sys2Proof.Machine.execMul d a b s
  | .mulh d a b => Sys2Proof.Machine.execMulh d a b s
  | .mulhu d a b => Sys2Proof.Machine.execMulhu d a b s
  | .div d a b => Sys2Proof.Machine.execDiv d a b s
  | .divu d a b => Sys2Proof.Machine.execDivu d a b s
  | .rem d a b => Sys2Proof.Machine.execRem d a b s
  | .remu d a b => Sys2Proof.Machine.execRemu d a b s
  | .clz d a => Sys2Proof.Machine.execClz d a s
  | .ctz d a => Sys2Proof.Machine.execCtz d a s
  | .popc d a => Sys2Proof.Machine.execPopc d a s
  | .sel d a b c => Sys2Proof.Machine.execSel d a b c s
  | .addi d a v => Sys2Proof.Machine.execAddi d a v s
  | .andi d a v => Sys2Proof.Machine.execAndi d a v s
  | .ori d a v => Sys2Proof.Machine.execOri d a v s
  | .xori d a v => Sys2Proof.Machine.execXori d a v s
  | .slti d a v => Sys2Proof.Machine.execSlti d a v s
  | .sltiu d a v => Sys2Proof.Machine.execSltiu d a v s
  | .slli d a n => Sys2Proof.Machine.execSlli d a n s
  | .srli d a n => Sys2Proof.Machine.execSrli d a n s
  | .srai d a n => Sys2Proof.Machine.execSrai d a n s
  | .extr d a w p => Sys2Proof.Machine.execExtr d a w p s
  | .insr d a w p => Sys2Proof.Machine.execInsr d a w p s
  | .lui d v => Sys2Proof.Machine.execLui d v s
  | .addpc d v => Sys2Proof.Machine.execAddpc d v s
  | .beq a b v => Sys2Proof.Machine.execBeq a b v s
  | .bne a b v => Sys2Proof.Machine.execBne a b v s
  | .blt a b v => Sys2Proof.Machine.execBlt a b v s
  | .bge a b v => Sys2Proof.Machine.execBge a b v s
  | .bltu a b v => Sys2Proof.Machine.execBltu a b v s
  | .bgeu a b v => Sys2Proof.Machine.execBgeu a b v s
  | .jal d v => Sys2Proof.Machine.execJal d v s
  | .jalr d a v => Sys2Proof.Machine.execJalr d a v s
  | .bst c v => Sys2Proof.Machine.execBst c v s
  | .bstN c v => Sys2Proof.Machine.execBstN c v s
  | .fadd d a b m => Sys2Proof.Machine.execFadd d a b m s
  | .fsub d a b m => Sys2Proof.Machine.execFsub d a b m s
  | .fmul d a b m => Sys2Proof.Machine.execFmul d a b m s
  | .fdiv d a b m => Sys2Proof.Machine.execFdiv d a b m s
  | .fsqrt d a m => Sys2Proof.Machine.execFsqrt d a m s
  | .fmin d a b => Sys2Proof.Machine.execFmin d a b s
  | .fmax d a b => Sys2Proof.Machine.execFmax d a b s
  | .feq d a b => Sys2Proof.Machine.execFeq d a b s
  | .flt d a b => Sys2Proof.Machine.execFlt d a b s
  | .fle d a b => Sys2Proof.Machine.execFle d a b s
  | .fclass d a => Sys2Proof.Machine.execFclass d a s
  | .fsgn d a b k => Sys2Proof.Machine.execFsgn d a b k s
  | .fcvt d a m k => Sys2Proof.Machine.execFcvt d a m k s
  | .fmvxf d a => Sys2Proof.Machine.execFmvxf d a s
  | .fmvfx d a => Sys2Proof.Machine.execFmvfx d a s
  | .fma d a b c m => Sys2Proof.Machine.execFma d a b c m s
  | .fms d a b c m => Sys2Proof.Machine.execFms d a b c m s
  | .fnma d a b c m => Sys2Proof.Machine.execFnma d a b c m s
  | .fnms d a b c m => Sys2Proof.Machine.execFnms d a b c m s
  | .fexp d a l m => Sys2Proof.Machine.execFexp d a l m s
  | .flog d a l m => Sys2Proof.Machine.execFlog d a l m s
  | .frcp d a l m => Sys2Proof.Machine.execFrcp d a l m s
  | .frsq d a l m => Sys2Proof.Machine.execFrsq d a l m s
  | .ftanh d a l m => Sys2Proof.Machine.execFtanh d a l m s
  | .fsigm d a l m => Sys2Proof.Machine.execFsigm d a l m s
  | .ld d a l x k v => Sys2Proof.Machine.execLd d a l x k v s
  | .st t a l x k v => Sys2Proof.Machine.execSt t a l x k v s
  | .ldf d a l x k v => Sys2Proof.Machine.execLdf d a l x k v s
  | .stf t a l x k v => Sys2Proof.Machine.execStf t a l x k v s
  | .ldfe d a l v => Sys2Proof.Machine.execLdfe d a l v s
  | .ldff d a l v => Sys2Proof.Machine.execLdff d a l v s
  | .stef t a l v => Sys2Proof.Machine.execStef t a l v s
  | .stff t a l v => Sys2Proof.Machine.execStff t a l v s
  | .sete c a l v => Sys2Proof.Machine.execSete c a l v s
  | .setf c a l v => Sys2Proof.Machine.execSetf c a l v s
  | .amoadd d a b l z => Sys2Proof.Machine.execAmoadd d a b l z s
  | .amoand d a b l z => Sys2Proof.Machine.execAmoand d a b l z s
  | .amoor d a b l z => Sys2Proof.Machine.execAmoor d a b l z s
  | .amoxor d a b l z => Sys2Proof.Machine.execAmoxor d a b l z s
  | .amomin d a b l z => Sys2Proof.Machine.execAmomin d a b l z s
  | .amomax d a b l z => Sys2Proof.Machine.execAmomax d a b l z s
  | .amoswap d a b l z => Sys2Proof.Machine.execAmoswap d a b l z s
  | .cas d a b l z => Sys2Proof.Machine.execCas d a b l z s
  | .fence k => Sys2Proof.Machine.execFence k s
  | .segld g a l => Sys2Proof.Machine.execSegld g a l s
  | .segrd d g h => Sys2Proof.Machine.execSegrd d g h s
  | .bankcfg d a b l k => Sys2Proof.Machine.execBankcfg d a b l k s
  | .bankConversionDone core bank => Sys2Proof.Machine.execBankConversionDone core bank s
  | .bankq d a l => Sys2Proof.Machine.execBankq d a l s
  | .bankjoin a l => Sys2Proof.Machine.execBankjoin a l s
  | .send t a l => Sys2Proof.Machine.execSend t a l s
  | .dq d a l w => Sys2Proof.Machine.execDq d a l w s
  | .migrate a => Sys2Proof.Machine.execMigrate a s
  | .migrationArrival n => Sys2Proof.Machine.execMigrationArrival n s
  | .arrivalQueueAdmit core => Sys2Proof.Machine.execArrivalQueueAdmit core s
  | .migrationReoffer core => Sys2Proof.Machine.execMigrationReoffer core s
  | .bankAccessPerformed core slot id => Sys2Proof.Machine.execBankAccessPerformed core slot id s
  | .waiterRetry core bank => Sys2Proof.Machine.execWaiterRetry core bank s
  | .portAccessPerformed core slot id => Sys2Proof.Machine.execPortAccessPerformed core slot id s
  | .pagerWake vf page => Sys2Proof.Machine.execPagerWake vf page s
  | .longLatencyComplete core slot id => Sys2Proof.Machine.execLongLatencyComplete core slot id s
  | .lateFault core slot => Sys2Proof.Machine.execLateFault core slot s
  | .hwMessageDeliver core => Sys2Proof.Machine.execHwMessageDeliver core s
  | .scfg n a b l p => Sys2Proof.Machine.execScfg n a b l p s
  | .scfg2 n a b l p => Sys2Proof.Machine.execScfg2 n a b l p s
  | .srel n l p => Sys2Proof.Machine.execSrel n l p s
  | .streamElementRead core slot stream elem => Sys2Proof.Machine.execStreamElementRead core slot stream elem s
  | .streamElementWrite core slot stream elem => Sys2Proof.Machine.execStreamElementWrite core slot stream elem s
  | .vadd d a b y k => Sys2Proof.Machine.execVadd d a b y k s
  | .vsub d a b y k => Sys2Proof.Machine.execVsub d a b y k s
  | .vmul d a b y k => Sys2Proof.Machine.execVmul d a b y k s
  | .vfma d a b x k => Sys2Proof.Machine.execVfma d a b x k s
  | .vmin d a b y k => Sys2Proof.Machine.execVmin d a b y k s
  | .vmax d a b y k => Sys2Proof.Machine.execVmax d a b y k s
  | .vabs d a k => Sys2Proof.Machine.execVabs d a k s
  | .vneg d a k => Sys2Proof.Machine.execVneg d a k s
  | .vcvt d a k => Sys2Proof.Machine.execVcvt d a k s
  | .vsel d a b x => Sys2Proof.Machine.execVsel d a b x s
  | .vcmp d a b x y k => Sys2Proof.Machine.execVcmp d a b x y k s
  | .vred d a y k => Sys2Proof.Machine.execVred d a y k s
  | .vscan d a y k => Sys2Proof.Machine.execVscan d a y k s
  | .vdot d a b y k => Sys2Proof.Machine.execVdot d a b y k s
  | .vexp d a => Sys2Proof.Machine.execVexp d a s
  | .vlog d a => Sys2Proof.Machine.execVlog d a s
  | .vrcp d a => Sys2Proof.Machine.execVrcp d a s
  | .vrsq d a => Sys2Proof.Machine.execVrsq d a s
  | .vtanh d a => Sys2Proof.Machine.execVtanh d a s
  | .vsigm d a => Sys2Proof.Machine.execVsigm d a s
  | .vfence => Sys2Proof.Machine.execVfence s
  | .vectorBeat core slot => Sys2Proof.Machine.execVectorBeat core slot s
  | .sfuResult core => Sys2Proof.Machine.execSfuResult core s
  | .mlease l p => Sys2Proof.Machine.execMlease l p s
  | .arrayLeaseGrant cluster => Sys2Proof.Machine.execArrayLeaseGrant cluster s
  | .leaseTimeLimit cluster => Sys2Proof.Machine.execLeaseTimeLimit cluster s
  | .mfree p => Sys2Proof.Machine.execMfree p s
  | .mwait p => Sys2Proof.Machine.execMwait p s
  | .mloadb a b l p => Sys2Proof.Machine.execMloadb a b l p s
  | .mloadbTransferDone cluster id => Sys2Proof.Machine.execMloadbTransferDone cluster id s
  | .mcb a l p => Sys2Proof.Machine.execMcb a l p s
  | .mzero d a l p => Sys2Proof.Machine.execMzero d a l p s
  | .mma d a b l c p => Sys2Proof.Machine.execMma d a b l c p s
  | .mmas d a b l c p => Sys2Proof.Machine.execMmas d a b l c p s
  | .mepi d a b l p => Sys2Proof.Machine.execMepi d a b l p s
  | .mepiWritesDone cluster id => Sys2Proof.Machine.execMepiWritesDone cluster id s
  | .mprog l p => Sys2Proof.Machine.execMprog l p s
  | .mrec d a b l p => Sys2Proof.Machine.execMrec d a b l p s
  | .mocmp d a b l p => Sys2Proof.Machine.execMocmp d a b l p s
  | .arrayCommandComplete cluster => Sys2Proof.Machine.execArrayCommandComplete cluster s
  | .arrayOperandsConsumed cluster => Sys2Proof.Machine.execArrayOperandsConsumed cluster s
  | .btld d a l => Sys2Proof.Machine.execBtld d a l s
  | .btst k a l => Sys2Proof.Machine.execBtst k a l s
  | .btand d a b l => Sys2Proof.Machine.execBtand d a b l s
  | .btor d a b l => Sys2Proof.Machine.execBtor d a b l s
  | .btxor d a b l => Sys2Proof.Machine.execBtxor d a b l s
  | .btnot d a l => Sys2Proof.Machine.execBtnot d a l s
  | .bttrn d a l => Sys2Proof.Machine.execBttrn d a l s
  | .btcomp d a b l => Sys2Proof.Machine.execBtcomp d a b l s
  | .btclo d a l r => Sys2Proof.Machine.execBtclo d a l r s
  | .btrc d a b l => Sys2Proof.Machine.execBtrc d a b l s
  | .launch d a b l p => Sys2Proof.Machine.execLaunch d a b l p s
  | .dispatchBlockPlace die => Sys2Proof.Machine.execDispatchBlockPlace die s
  | .launchPromotion die entry => Sys2Proof.Machine.execLaunchPromotion die entry s
  | .launchReserve die entry => Sys2Proof.Machine.execLaunchReserve die entry s
  | .blockComplete handle block => Sys2Proof.Machine.execBlockComplete handle block s
  | .launchComplete die entry => Sys2Proof.Machine.execLaunchComplete die entry s
  | .start a b => Sys2Proof.Machine.execStart a b s
  | .reap a => Sys2Proof.Machine.execReap a s
  | .yield => Sys2Proof.Machine.execYield s
  | .yieldWake core slot => Sys2Proof.Machine.execYieldWake core slot s
  | .exit => Sys2Proof.Machine.execExit s
  | .bar a n => Sys2Proof.Machine.execBar a n s
  | .spawn t a l => Sys2Proof.Machine.execSpawn t a l s
  | .preempt die => Sys2Proof.Machine.execPreempt die s
  | .victimRestore victim => Sys2Proof.Machine.execVictimRestore victim s
  | .restoreDeadline victim => Sys2Proof.Machine.execRestoreDeadline victim s
  | .tccTransferFail core code ta => Sys2Proof.Machine.execTccTransferFail core code ta s
  | .copy a b l p => Sys2Proof.Machine.execCopy a b l p s
  | .gath a b l p => Sys2Proof.Machine.execGath a b l p s
  | .scat a b l p => Sys2Proof.Machine.execScat a b l p s
  | .enginePostAccept core slot id => Sys2Proof.Machine.execEnginePostAccept core slot id s
  | .enginePostStart cluster => Sys2Proof.Machine.execEnginePostStart cluster s
  | .enginePostComplete cluster id => Sys2Proof.Machine.execEnginePostComplete cluster id s
  | .tblset d a l p => Sys2Proof.Machine.execTblset d a l p s
  | .tblsw d a l p => Sys2Proof.Machine.execTblsw d a l p s
  | .shstat d l p => Sys2Proof.Machine.execShstat d l p s
  | .rmig d a b l p => Sys2Proof.Machine.execRmig d a b l p s
  | .rowCacheAge die => Sys2Proof.Machine.execRowCacheAge die s
  | .mcgroupLoad group entry => Sys2Proof.Machine.execMcgroupLoad group entry s
  | .trregCreate d a b l p => Sys2Proof.Machine.execTrregCreate d a b l p s
  | .trregRegion d a b l p => Sys2Proof.Machine.execTrregRegion d a b l p s
  | .trregArm d a b l p => Sys2Proof.Machine.execTrregArm d a b l p s
  | .trregFree d a b l p => Sys2Proof.Machine.execTrregFree d a b l p s
  | .relaunch d a l q p => Sys2Proof.Machine.execRelaunch d a l q p s
  | .relaunchRunStart obj => Sys2Proof.Machine.execRelaunchRunStart obj s
  | .relaunchComplete obj => Sys2Proof.Machine.execRelaunchComplete obj s
  | .trinfo d l p => Sys2Proof.Machine.execTrinfo d l p s
  | .tmodeOn a => Sys2Proof.Machine.execTmodeOn a s
  | .tmodeOff => Sys2Proof.Machine.execTmodeOff s
  | .tsend t a b l => Sys2Proof.Machine.execTsend t a b l s
  | .tnext d a => Sys2Proof.Machine.execTnext d a s
  | .tout k a => Sys2Proof.Machine.execTout k a s
  | .gvtrd d => Sys2Proof.Machine.execGvtrd d s
  | .gvtrdW d a => Sys2Proof.Machine.execGvtrdW d a s
  | .timedMessageAccept n => Sys2Proof.Machine.execTimedMessageAccept n s
  | .rollback core => Sys2Proof.Machine.execRollback core s
  | .antiMessageArrive n => Sys2Proof.Machine.execAntiMessageArrive n s
  | .horizonRoundStart vf => Sys2Proof.Machine.execHorizonRoundStart vf s
  | .horizonReport vf => Sys2Proof.Machine.execHorizonReport vf s
  | .gvtPublish vf => Sys2Proof.Machine.execGvtPublish vf s
  | .outputRelease core => Sys2Proof.Machine.execOutputRelease core s
  | .gvtCopyUpdate core => Sys2Proof.Machine.execGvtCopyUpdate core s
  | .trap n => Sys2Proof.Machine.execTrap n s
  | .eret a => Sys2Proof.Machine.execEret a s
  | .eretSys a => Sys2Proof.Machine.execEretSys a s
  | .eretUser a => Sys2Proof.Machine.execEretUser a s
  | .sysrd d r => Sys2Proof.Machine.execSysrd d r s
  | .syswr a r => Sys2Proof.Machine.execSyswr a r s
  | .tswWrite core slot v => Sys2Proof.Machine.execTswWrite core slot v s
  | .tccctlWrite core reg v => Sys2Proof.Machine.execTccctlWrite core reg v s
  | .qosWrite core reg v => Sys2Proof.Machine.execQosWrite core reg v s
  | .snapctlWrite core v => Sys2Proof.Machine.execSnapctlWrite core v s
  | .scopepolWrite vf v => Sys2Proof.Machine.execScopepolWrite vf v s
  | .xec k a => Sys2Proof.Machine.execXec k a s
  | .icinv a => Sys2Proof.Machine.execIcinv a s
  | .tlbinv a => Sys2Proof.Machine.execTlbinv a s
  | .swapctx e a => Sys2Proof.Machine.execSwapctx e a s
  | .swapctxOut e a => Sys2Proof.Machine.execSwapctxOut e a s
  | .swapctxIn e a => Sys2Proof.Machine.execSwapctxIn e a s
  | .snap d => Sys2Proof.Machine.execSnap d s
  | .halt d => Sys2Proof.Machine.execHalt d s
  | .brk => Sys2Proof.Machine.execBrk s
  | .debuggerStop core slot => Sys2Proof.Machine.execDebuggerStop core slot s
  | .asleepSample vf => Sys2Proof.Machine.execAsleepSample vf s
  | .cred d a l p => Sys2Proof.Machine.execCred d a l p s
  | .cbcast d a b l p => Sys2Proof.Machine.execCbcast d a b l p s
  | .quadReassign quad vf => Sys2Proof.Machine.execQuadReassign quad vf s
  | .quadReset quad => Sys2Proof.Machine.execQuadReset quad s
  | .engineReset cluster => Sys2Proof.Machine.execEngineReset cluster s
  | .clusterReset cluster => Sys2Proof.Machine.execClusterReset cluster s
  | .routerFailure cluster => Sys2Proof.Machine.execRouterFailure cluster s
  | .hbmChannelOffline moves => Sys2Proof.Machine.execHbmChannelOffline moves s
  | .eccCorrected block => Sys2Proof.Machine.execEccCorrected block s
  | .poisonSet loc => Sys2Proof.Machine.execPoisonSet loc s
  | .linkTrain link lo hi minor => Sys2Proof.Machine.execLinkTrain link lo hi minor s
  | .linkReplay link => Sys2Proof.Machine.execLinkReplay link s
  | .linkRetrain link ok => Sys2Proof.Machine.execLinkRetrain link ok s
  | .linkDown link => Sys2Proof.Machine.execLinkDown link s
  | .bucketRefill cluster => Sys2Proof.Machine.execBucketRefill cluster s
  | .lineSend core res => Sys2Proof.Machine.execLineSend core res s
  | .gatingInterval gated watts => Sys2Proof.Machine.execGatingInterval gated watts s
  | .snapshotPin => Sys2Proof.Machine.execSnapshotPin s
  | .snapshotLatch => Sys2Proof.Machine.execSnapshotLatch s
  | .boot results digests => Sys2Proof.Machine.execBoot results digests s
  | .attestationSign nonce => Sys2Proof.Machine.execAttestationSign nonce s
  | .mailboxOpen fn v => Sys2Proof.Machine.execMailboxOpen fn v s
  | .mailboxClose fn v => Sys2Proof.Machine.execMailboxClose fn v s
  | .mailboxRegisterWrite fn off v => Sys2Proof.Machine.execMailboxRegisterWrite fn off v s
  | .reqtailWrite fn v => Sys2Proof.Machine.execReqtailWrite fn v s
  | .cplheadWrite fn v => Sys2Proof.Machine.execCplheadWrite fn v s
  | .reqLaunch fn => Sys2Proof.Machine.execReqLaunch fn s
  | .reqMessage fn => Sys2Proof.Machine.execReqMessage fn s
  | .reqQuery fn => Sys2Proof.Machine.execReqQuery fn s
  | .reqCregRead fn => Sys2Proof.Machine.execReqCregRead fn s
  | .reqCregWrite fn => Sys2Proof.Machine.execReqCregWrite fn s
  | .reqUnlistedKind fn => Sys2Proof.Machine.execReqUnlistedKind fn s
  | .mailboxCompletion fn => Sys2Proof.Machine.execMailboxCompletion fn s
  | .quadResetDone quad => Sys2Proof.Machine.execQuadResetDone quad s
  | .engineResetDone cluster => Sys2Proof.Machine.execEngineResetDone cluster s

end Sys2Proof.Machine
end

