-- ==== Sys2Proof/Machine/Turn.lean ====
section
/-!
DEFINITION. Machine/Turn.lean: which thread a core issues from (R93, R95, R96), what the hardware may do by itself, what
happens at the turn of a cycle, and the choices of the outside world;
the application cores of the control die (R6, R7).
-/
namespace Sys2Proof.Machine

/-! ## The wheel (R93, R95) -/

/-- The state in which a thread executes. -/
def State.running (s : State) (c k : Nat) : State := { s with curCore := c, curSlot := k }

/-- Slot 15 has come back to the service loop from a fault routine (R332). -/
def Core.returning (x : Core) (k : Nat) : Bool := k == 15 && x.serving.isSome && (x.slot 15).pc == returnPc

/-- What its next instruction lets a thread in rotation do: issue it, or not yet (R93, R335). -/
def State.issues (s : State) (c k : Nat) : Bool :=
  s.fetchPaid c (s.thr c k) &&
  (match s.nextInstr c (s.thr c k) with
   | .ok i => !held i (s.running c k) || passes i (s.running c k)
   | .wait => false
   | _ => true)

/-- In rotation now: a thread that came back to it counts from the cycle after (R93). -/
def Thread.inWheel (t : Thread) (now : Nat) : Bool := t.inRotation && decide (t.back ≤ now)

/-- A slot in rotation is Ready (R93): not occupied (R97), no fault or stop pending (R61, R310), no window exhausted (R59), no
roll back due (R295). -/
def State.ready (s : State) (c k : Nat) : Bool :=
  let x := s.core c
  let t := x.slot k
  t.inWheel s.cycle && decide (t.busy ≤ s.cycle) && t.stop.isNone &&
  !t.pend.any (fun p => p.cover == 0 || (match p.phase with | .fault _ _ => true | _ => false)) &&
  !(t.tm && (match x.vt with | some v => v.straggler.isSome | none => false)) &&
  !x.returning k && s.issues c k

/-- The slots after a pointer, in ascending order, ending with the pointer's own (R95). -/
def afterPointer (p : Nat) : List Nat := (List.range 16).map (fun i => (p + 1 + i) % 16)

/-- The slot that a core issues from in this cycle, and whether the position is lent (R95). -/
def State.turnOfCore (s : State) (c : Nat) : Option (Nat × Bool) :=
  let p := s.cycle % 16
  if (s.thr c p).inWheel s.cycle then (if s.ready c p then some (p, false) else none)
  else ((afterPointer (s.core c).lend.toNat).find? (fun k => s.ready c k)).map (fun k => (k, true))

/-- A barrel core that may issue in this cycle: in service (R313, R350, R355). -/
def State.mayIssue (s : State) (c : Nat) : Bool :=
  decide (s.turn ≤ c ∧ c < coreCount) && !(s.core c).stopped && !s.coreOut c && !s.quadDown c

/-- The next core, in number order, that issues in this cycle, and from which slot; none in a gated rotation (R354; DEDUCED,
assumption 28). -/
def State.nextIssue (s : State) : Option (Nat × Nat × Bool) :=
  if s.gated then none
  else s.cores.findSome? (fun x => if s.mayIssue x.1 then (s.turnOfCore x.1).map (fun k => (x.1, k.1, k.2)) else none)

/-- The core has had its turn; a lent position moves its lending pointer (R95). -/
def State.spent (s : State) (c k : Nat) (lent : Bool) : State :=
  let s1 := if lent then s.modCore c (fun x => { x with lend := BitVec.ofNat 4 k }) else s
  { s1 with turn := c + 1, curCore := c, curSlot := k }

/-- Issue from a slot: its next instruction, or what its fetch gives (R98; DESIGN CHOICE, assumption 20). A fetch that parks its
thread has spent the position, as one that faults does (R95; DEDUCED, assumption 54). So has an instruction that passes the check of its
scope and waits (R163). -/
def State.issueFrom (s : State) (c k : Nat) : Out :=
  let t := s.thr c k
  let paid := s.payFetch c t (s.fetchLen c t)
  match s.nextInstr c t with
  | .ok i => if passes i s then .next (paid.modThr c k (fun t => { t with passed := some i })) else exec i paid
  | .fault code tv => .next (paid.faultNow c k code tv)
  | .park ta => .next (paid.modThr c k (fun t => { t with fetchPark := some ta }))
  | .wait => .next s

/-! ## What the hardware may do by itself -/

/-- Steps of the instructions in flight of a slot. -/
def Thread.steps (t : Thread) (c k : Nat) : List (State → Out) :=
  t.pend.flatMap (fun p =>
    [execBankAccessPerformed c k p.id, execPortAccessPerformed c k p.id, execEnginePostAccept c k p.id, execLongLatencyComplete c k p.id]) ++
  (if t.pend.isEmpty && t.stop.isNone then [] else [execLateFault c k]) ++
  (if t.yieldUntil.isSome then [execYieldWake c k] else []) ++
  (List.range 8).flatMap (fun n =>
    let st := t.stream n
    if !st.configured then []
    else if st.dir = 0 then (List.range 4).map (fun i => execStreamElementRead c k n (st.pos + i))
    else (st.produced.take 4).map (fun e => execStreamElementWrite c k n e.1))

/-- Steps of a core. -/
def Core.steps (x : Core) (c : Nat) : List (State → Out) :=
  (List.range 16).flatMap (fun k => (x.slot k).steps c k ++ (if (x.slot k).inRotation then [fun s => .next (s.fetchAhead c k)] else [])) ++
  (if x.sfu.isEmpty then [] else [execSfuResult c]) ++
  (if x.hwHeld.isEmpty then [] else [execHwMessageDeliver c]) ++
  (if x.arrivals.isEmpty then [] else [execArrivalQueueAdmit c]) ++
  (List.range 8).flatMap (fun b => if ((x.banks[b]?).getD {}).locked.isSome then [execBankConversionDone c b] else []) ++
  (if x.vt.isSome then [execRollback c, execOutputRelease c] else []) ++
  (if x.stopped then [execQuadReset (quadOf c)] else [])

/-- Steps of a cluster; in a gated rotation its array and engine pause (R354; DEDUCED, assumption 28). -/
def Cluster.steps (k : Cluster) (cl : Nat) (gated : Bool) : List (State → Out) :=
  (if gated then []
   else
    (if k.leaseQ.isEmpty then [] else [execArrayLeaseGrant cl]) ++
    (if k.lease.isSome then [execLeaseTimeLimit cl] else []) ++
    (if k.cmds.isEmpty then [] else [execArrayOperandsConsumed cl, execArrayCommandComplete cl]) ++
    k.xfers.flatMap (fun x => [execMloadbTransferDone cl x.id, execMepiWritesDone cl x.id]) ++
    (if k.engineQ.isEmpty then [] else [execEnginePostStart cl]) ++
    k.engineRun.map (fun p => execEnginePostComplete cl p.id)) ++
  k.gangs.map (fun g => execBlockComplete g.handle.toNat g.block.toNat) ++
  k.gangs.zipIdx.flatMap (fun g => [execVictimRestore (cl * 1024 + g.2), execRestoreDeadline (cl * 1024 + g.2)]) ++
  k.resetting.map (fun q => execQuadResetDone q) ++
  (if k.engineReset then [execEngineResetDone cl] else [])

/-- Steps of a dispatcher. -/
def Die.steps (d : Die) (n : Nat) : List (State → Out) :=
  (if 2 ^ 20 ≤ d.lookups then [execRowCacheAge n] else []) ++
  (if d.launches.isEmpty then [] else [execDispatchBlockPlace n]) ++
  d.launches.flatMap (fun l => [execLaunchComplete n l.1, execLaunchPromotion n l.1, execLaunchReserve n l.1]) ++
  (if d.launches.isEmpty then [] else [execPreempt n])

/-- Steps of a mailbox: the request at REQHEAD, and the oldest completion. -/
def Mailbox.steps (m : Mailbox) (fn : Nat) : List (State → Out) :=
  (if m.opened && m.reqHead != m.reqTail || !m.held.isEmpty then
    [execReqLaunch fn, execReqMessage fn, execReqQuery fn, execReqCregRead fn, execReqCregWrite fn, execReqUnlistedKind fn] else []) ++
  (if m.waiting.isEmpty then [] else [execMailboxCompletion fn])

/-- Every step that the hardware may take by itself. Whether one of them can be taken now is for its meaning to say
(DESIGN CHOICE, assumption 6). -/
def State.steps (s : State) : List (State → Out) :=
  (if s.booted || s.bootNow.any (· != 0) then [] else [execBoot (List.replicate 8 true) []]) ++
  s.cores.flatMap (fun x => x.2.steps x.1 ++
    (if x.2.gvtCopy != (s.vf (s.owner x.1)).gvt then [execGvtCopyUpdate x.1] else []) ++
    (if x.2.colour != (s.vf (s.owner x.1)).colour then [fun s => .next (s.flipPort x.1)] else [])) ++
  (if s.posted.isEmpty then [] else [fun s => .next ((s.landOne 0).remapped s)]) ++
  (List.range s.packets.length).map (fun n => execMigrationArrival n) ++
  (List.range s.timed.length).flatMap (fun n => [execTimedMessageAccept n, execAntiMessageArrive n]) ++
  s.clusters.flatMap (fun k => k.2.steps k.1 s.gated) ++
  s.dies.flatMap (fun d => d.2.steps d.1) ++
  s.traces.flatMap (fun t => [execRelaunchRunStart t.1, execRelaunchComplete t.1]) ++
  s.vfs.flatMap (fun v => [execHorizonReport v.1, execGvtPublish v.1]) ++
  s.mailboxes.flatMap (fun m => m.2.steps m.1)

/-- The first step of a list that is possible: one whose meaning changes the state, or stops. -/
def State.firstStep (s : State) : List (State → Out) → Option Out
  | [] => none
  | f :: r =>
    match f s with
    | .next s' => if s' = s then s.firstStep r else some (.next s')
    | x => some x

/-- The first core whose service loop has something to serve (R358). -/
def State.firmwareStep (s : State) : List Nat → Option Out
  | [] => none
  | c :: r => let s' := s.firmwareTurn c; if s' = s then s.firmwareStep r else some (.next s')

/-- A step of the hardware that is possible now. -/
def State.hardware (s : State) : Option Out :=
  match s.firstStep s.steps with
  | some o => some o
  | none => s.firmwareStep ((s.cores.filter (fun x => x.2.firmware)).map (·.1))

/-! ## The turn of a cycle -/

/-- Virtual functions with a listed core or settings of their own. -/
def State.functions (s : State) : List Nat :=
  ((s.vfs.map (·.1) ++ s.cores.map (fun x => s.owner x.1)).filter (fun v => decide (v < controlDie))).eraseDups

/-- The vector beats of a cycle, of what has issued in it too (R96). -/
def State.beats (s : State) : List (State → Out) := s.cores.map (fun x => execVectorBeat x.1 (s.cycle % 16))

/-- What falls due at the beginning of a cycle: the snapshot, offers, refills, samples and rounds (R124, R139, R299, R315,
R336, R351; DESIGN CHOICE, assumption 6). -/
def State.due (s : State) : List (State → Out) :=
  (if s.snapAt = some s.cycle then [execSnapshotLatch] else []) ++
  (if s.cycle % 64 = 0 then s.cores.flatMap (fun x =>
    (List.range 16).flatMap (fun b => if ((x.2.banks[b]?).getD {}).retriers.isEmpty then [] else [execWaiterRetry x.1 b])) else []) ++
  (if s.cycle % 256 = 0 then s.cores.flatMap (fun x => if x.2.offers.isEmpty then [] else [execMigrationReoffer x.1]) else []) ++
  (if s.cycle % 1024 = 0 then
    (s.cores.map (fun x => clusterOf x.1)).eraseDups.map (fun cl => execBucketRefill cl) ++ s.functions.map (fun v => execAsleepSample v)
   else []) ++
  (if s.cycle % 4096 = 0 then s.functions.map (fun v => execHorizonRoundStart v) else [])

/-- Take steps one after another. -/
def runSteps : List (State → Out) → State → Out
  | [], s => .next s
  | f :: r, s => match f s with | .next s' => runSteps r s' | x => x

/-- The next cycle begins (R23, R354). -/
def State.nextCycle (s : State) : State :=
  let s1 := { s with cycle := s.cycle + 1, turn := 0, ungated := s.ungated + (if s.gated then 0 else 1) }
  (if s1.cycle % 1024 = 0 then s1.nextInterval else s1).watchAsleep

/-- The cycle ends with its vector beats, and the next one begins with what falls due in it. -/
def State.tick (s : State) : Out :=
  match runSteps s.beats s with
  | .next s1 => let s2 := s1.nextCycle; runSteps s2.due s2
  | x => x

/-- The next core issues, or no further core issues in this cycle and the next one begins (DESIGN CHOICE, assumption 6). -/
def State.wheel (s : State) : Out :=
  match s.nextIssue with
  | some (c, k, lent) => (s.spent c k lent).issueFrom c k
  | none => s.tick

/-! ## What the outside world and timing choose -/

/-- One move of a transfer of a cluster. For an array command, moves 2e and 2e + 1 read element e of its first and second
stream. -/
def State.oneMove (s : State) (cl id k : Nat) : State :=
  match (s.cluster cl).xfers.find? (fun x => x.id == id) with
  | some x => match x.ins with | .mloadb _ _ _ w => s.loadOne cl x w k | _ => s.epiMove cl x k
  | none =>
    if (s.cluster cl).cmds.any (fun c => c.ref.id == id) then s.readLine cl id (k % 2) (k / 2) else s.postOne cl id k

/-- The host or the control die writes a doubleword of memory; a tile of HBM gets its stamp, with no writer, and a tracked page
whose entry changes is remapped (R276). -/
def State.outsideWrite (s : State) (pa : Nat) (v : Word) : State :=
  match paSpace pa with
  | .hbm _ => ({ s.store (dword pa) 8 v.toNat with stamps := aset s.stamps (pa / 4096) (s.cycle, 0) } : State).remapped s
  | .host => (s.store (dword pa) 8 v.toNat).remapped s
  | _ => s

/-- The instructions of the scalar and system profile, which application cores implement (R7; PRESUMED, assumption 51). -/
def inProfile (i : Instr) : Bool :=
  let major := fldN i.word 26 6
  !i.isStep &&
  (match i with
   | .fence _ | .segld _ _ _ | .segrd _ _ _ => true
   | .swapctx _ _ | .swapctxOut _ _ | .swapctxIn _ _ | .halt _ => false
   | _ => decide (major ≤ 0x23) || major == 0x25 || major == 0x28 || major == 0x29 || major == 0x2E || decide (0x3C ≤ major))

/-- An application core as its firmware sets it going (R7; PRESUMED, assumption 51). -/
def appThread (n : Nat) (pc : Word) (g : Vector (BitVec 128) 8) : Thread :=
  { st := .run, sys := true, pc := pc, g := g, home := appCore n, homeSlot := 0 }

/-- An application core takes its next instruction; one outside its profile is ILLOP (R7; PRESUMED, assumption 51). -/
def State.appTurn (s : State) (n : Nat) : Out :=
  let c := appCore n
  if !s.ready c 0 then .next s
  else
    match s.nextInstr c (s.thr c 0) with
    | .ok i => if inProfile i then (s.running c 0).issueFrom c 0 else .next (s.faultNow c 0 cILLOP (wordVal i))
    | _ => (s.running c 0).issueFrom c 0

def perform (p : Pick) (s : State) : Out :=
  match p with
  | .step i => if i.isStep then exec i s else .next s
  | .wheel => s.wheel
  | .move cl id k => .next (if s.gated then s else s.oneMove cl id k)
  | .firmware c => .next (s.firmwareTurn c)
  | .direct c k w => .next (s.directed c k w)
  | .control vf root quota routines =>
    .next ((s.modVf vf (fun v => { v with root := some root, quota := quota, routines := routines })).remapped s)
  | .qos vf hbm net wgt => .next (s.modVf vf (fun v => { v with qhbm := hbm, qnet := net, qwgt := wgt }))
  | .appStart n pc g => .next ((s.modCore (appCore n) (fun x => { x with slots := x.slots.setIfInBounds 0 (appThread n pc g) })))
  | .app n => s.appTurn n
  | .outside pa v => .next (s.outsideWrite pa v)
  | .fillLine c ta => .next (s.fillLine c ta)
  | .dropLine c n => .next (s.modCore c (fun x => { x with icache := x.icache.eraseIdx n }))
  | .fillTlb cl vf ta => .next (s.fillTlb cl vf ta)
  | .dropTlb cl n => .next (s.modCluster cl (fun k => { k with tlb := k.tlb.eraseIdx n }))
  | .flip c => .next (s.flipPort c)
  | .post n => .next ((s.landOne n).remapped s)

/-! ## Placing an instruction -/

/-- Segment that covers bank 0 of the local core with right X (DESIGN CHOICE, assumption 1). -/
def codeSeg : BitVec 128 := BitVec.ofNat 128 (2 ^ 118 + bankSize * 2 ^ 64 + 2 ^ 51)

/-- A thread about to fetch at offset 0 of that segment (DESIGN CHOICE, assumption 1). -/
def codeThread (t : Thread) : Thread :=
  { t with st := .run, held := false, pc := 0, g := t.g.setIfInBounds 0 codeSeg, xw := none, busy := 0, back := 0, pend := [], stop := none
           later := [], passed := none, yieldUntil := none, fetchPark := none, frozen := false, tm := false }

/-- The slot whose position this cycle's is runs it on core 0 (DESIGN CHOICE, assumption 1). -/
def Core.forCode (x : Core) (k : Nat) : Core :=
  { x.putSlot k (codeThread (x.slot k)) with stopped := false, serving := none, icache := []
                                             banks := x.banks.setIfInBounds 0 {} }

end Sys2Proof.Machine
end

