-- ==== Sys2Proof/Machine/Step.lean ====
section
/-!
DEFINITION. Machine/Step.lean: one step of the package, and the placing of an instruction where the next step fetches.
-/
namespace Sys2Proof.Machine

/-- One step: what the schedule chooses; with an empty schedule, what the hardware may do by itself goes before an issue, and an
issue goes before the next cycle. -/
def step (s : State) : Host.Outcome State Fault Refusal :=
  match s.schedule with
  | p :: rest => perform p { s with schedule := rest }
  | [] => match s.hardware with | some o => o | none => s.wheel

/-- The words of an instruction are laid at offset 0 of bank 0 of core 0, and the slot whose position this cycle's is fetches
there, with the wheel turning next (assumption 1). -/
def State.withFetchWord (s : State) (nbits w : Nat) : State :=
  let k := s.cycle % 16
  let code := w % 2 ^ nbits % 2 ^ 160
  { s.write (scratchLoc 0 0) 20 code with
    schedule := [.wheel], turn := 0, gates := []
    poisons := s.poisons.filter (fun p => !(decide (scratchLoc 0 0 ≤ p) && decide (p < scratchLoc 0 0 + 24)))
    clusters := s.clusters.map (fun (x : Nat × Cluster) => (x.1, if x.1 = 0 then { x.2 with out := false, resetting := [], reassigning := [] } else x.2))
    cores := aset s.cores 0 (((alook s.cores 0).getD Core.fresh).forCode k) }

end Sys2Proof.Machine
end

