-- ==== Sys2Proof/Safety.lean ====
section
/-!
DEFINITION. Safety.lean: the terms in which claims speak of the machine: when an instruction issues, what the machine is
after it has issued, and what a step leaves alone.
-/
namespace Sys2Proof.Machine

/-- The executing thread issues `i`: nothing holds it back (R59, R60, R93), its word is one that may be executed by this
thread (R76, R290), and the checks that it makes before its own effect pass. -/
structure Issues (i : Instr) (s : State) : Prop where
  free : held i s = false
  wf : i.wf = true
  timed : (s.me.tm && !(cls i).timed) = false
  early : earlyCheck i s = none

/-- `i` has issued with the effect `s'` and its thread goes on at the next sequential address, occupied for the cycles of
R97; the windows of older instructions have shrunk by one (R59). -/
def State.onward (s : State) (i : Instr) (s' : State) : State :=
  s'.modThr s.curCore s.curSlot (fun u => u.issued s.cycle s.nextId (cls i).occ false (nextPc i s.me.pc))

/-- `i` has issued as a taken control transfer, which closes the windows of older instructions (R59). -/
def State.jumped (s : State) (i : Instr) (s' : State) (target : Word) : State :=
  s'.modThr s.curCore s.curSlot (fun u => u.issued s.cycle s.nextId (cls i).occ true target)

/-- `i` takes the trap at issue: its thread is Trapped, or stopped until what is in flight has ended (R310). -/
def State.trapped (s : State) (code : Byte) (tval : Word) : State := s.failNow ⟨(code, tval), none⟩

/-- The executing thread comes to `i`: nothing holds it back but what `i` waits for after its first checks, and its word
is one that may be executed by this thread (R76, R290). -/
structure Offered (i : Instr) (s : State) : Prop where
  free : blocked i s = false
  wf : i.wf = true
  timed : (s.me.tm && !(cls i).timed) = false

/-- Offered, `i` takes the trap, before it waits for anything earlier. -/
def Refuses (i : Instr) (s : State) (code : Byte) (tval : Word) : Prop := Offered i s → exec i s = .next (s.trapped code tval)

/-- When `i` issues, x[d] receives `v` and nothing else but the thread's progress changes. -/
def WritesX (i : Instr) (s : State) (d : Reg) (v : Word) : Prop :=
  Issues i s → exec i s = .next (s.onward i (s.putMe (s.me.wx d v)))

/-- When `i` issues, it branches to `target` if `p` holds, and goes on if not. -/
def Branches (i : Instr) (s : State) (p : Prop) (target : Word) : Prop :=
  Issues i s → (p → exec i s = .next (s.jumped i s target)) ∧ (¬p → exec i s = .next (s.onward i s))

/-- When `i` issues, its operands are read from their f registers, popping those that are views of configured streams
(R63, R179), its destination can be written, and then the thread is left as `f` says. -/
def FromF (i : Instr) (s : State) (f : List Word → Thread → Thread) : Prop :=
  ∀ vs t, Issues i s → s.me.readFs (cls i).fsrc = .ok (vs, t) →
    (match (cls i).fdst with | some d => s.me.checkPush d | none => none) = none →
    exec i s = .next (s.onward i (s.putMe (f vs t)))

/-- As `FromF`, for an instruction that rounds: its mode is the one its rm field names (R35). -/
def Rounds (i : Instr) (s : State) (rm : BitVec 3) (f : Mode → List Word → Thread → Thread) : Prop :=
  ∀ m, s.me.mode rm = some m → FromF i s (f m)

/-- An instruction of the executing thread has been put in flight by `i`'s issue (R59). -/
def Launched (i : Instr) (s : State) (s0 : State) (ops : Operands) (mem relaxed : Bool) (ph : Phase) : Prop :=
  exec i s = .next (s.onward i (s0.fly i ops mem relaxed ph))

/-- The core that a foreign access takes its thread to (R123). -/
def Target.away (t : Target) : Option Nat := match t with | .foreign c _ => some c | _ => Option.none

/-- `i` makes the access `nd` (R119). Refused by a check, it traps. Otherwise it is put in flight with the operands that
`fill` gives it, or it leaves with its thread for another core, and then nothing issues before it (R123, R125). -/
def Accesses (i : Instr) (s : State) (nd : Need) (fill : Operands → Operands) : Prop :=
  Issues i s →
    (∀ tr, resolve s s.curCore s.me nd = .error tr → exec i s = .next (s.trapped tr.1 tr.2)) ∧
    (∀ ta tgt, resolve s s.curCore s.me nd = .ok (ta, tgt) →
      let ops := fill (baseOps s s.me nd ta tgt)
      (tgt.away = none → Launched i s s ops true ((cls i).mem == .relaxed) .flight) ∧
      (∀ dst, tgt.away = some dst → s.mayLeave s.curCore s.curSlot nd.ea = none →
        exec i s = .next (s.onward i (s.flyAway i ops true ((cls i).mem == .relaxed) dst))) ∧
      (∀ dst tr, tgt.away = some dst → s.mayLeave s.curCore s.curSlot nd.ea = some tr →
        exec i s = .next (s.trapped tr.1 tr.2)))

/-- The access `p`, in flight as `r`, has reached PLAIN storage that nothing keeps it from (R120, R128, R134, R161, R334, R350). -/
structure AtPlainBank (s : State) (r : Ref) (p : Pending) (c off : Nat) : Prop where
  pending : s.pending r = some p
  flight : p.phase = .flight
  target : p.ops.tgt = .raw c off
  first : (s.thr r.core r.slot).mayPerform p = true
  live : s.coreOut c = false
  mine : s.owner c = s.owner r.core
  calm : s.quadDown c = false
  unlocked : (s.bank c (off / bankSize)).locked = none
  plain : s.plainBank c (off / bankSize) = true

/-- The event of `r` at its bank. -/
def atBank (s : State) (r : Ref) : Out := exec (.bankAccessPerformed r.core r.slot r.id) s

/-! ## Rounding -/

/-- The word stands for a number: it is neither an infinity nor a NaN. -/
def finite32 (w : Word32) : Prop := w.toNat / 2 ^ 23 % 2 ^ 8 ≠ 255

/-- The number that a finite FP32 word stands for (R31). -/
def value32 (w : Word32) : Rat :=
  let e := w.toNat / 2 ^ 23 % 2 ^ 8
  let m := w.toNat % 2 ^ 23 + if e = 0 then 0 else 2 ^ 23
  mkRat ((if w.msb then -1 else 1) * (m * 2 ^ max e 1 : Nat)) (2 ^ 150)

/-- An exact result, which need not be rational: which numbers are at most it, and which are at least it. -/
structure Cut where
  lo : Rat → Prop
  hi : Rat → Prop

def Cut.of (v : Rat) : Cut := ⟨(· ≤ v), (v ≤ ·)⟩

/-- The square root of x. -/
def Cut.sqrt (x : Rat) : Cut := ⟨fun q => q ≤ 0 ∨ q * q ≤ x, fun q => 0 ≤ q ∧ x ≤ q * q⟩

/-- The FP32 result `r`, with its flags, is the exact `v` rounded once in mode `m` (R35, R36): to the nearest number, and
of two to the even one; toward zero; up; or down. An exact zero's sign is not its concern. -/
structure RoundedOnce (m : Mode) (v : Cut) (r : FRes) : Prop where
  number : r.v.toNat % 2 ^ 31 ≤ 0x7F800000
  sign : (¬v.hi 0 → r.v.msb = false) ∧ (¬v.lo 0 → r.v.msb = true)
  nearest : m = 0 → finite32 r.v → (¬v.lo (2 ^ 128 - 2 ^ 103 : Nat) ∧ ¬v.hi (-(2 ^ 128 - 2 ^ 103 : Nat))) ∧
    ∀ w, finite32 w → let mid := (value32 r.v + value32 w) / 2
      (value32 r.v < value32 w → v.hi mid) ∧ (value32 w < value32 r.v → v.lo mid) ∧
      (value32 w ≠ value32 r.v → v.lo mid → v.hi mid → r.v.getLsbD 0 = false)
  down : m = 3 ∨ m = 1 ∧ v.lo 0 → finite32 r.v → v.lo (value32 r.v) ∧ ∀ w, finite32 w → v.lo (value32 w) → value32 w ≤ value32 r.v
  up : m = 2 ∨ m = 1 ∧ v.hi 0 → finite32 r.v → v.hi (value32 r.v) ∧ ∀ w, finite32 w → v.hi (value32 w) → value32 r.v ≤ value32 w
  infinite : ¬finite32 r.v → (m = 0 ∧ (v.lo (2 ^ 128 - 2 ^ 103 : Nat) ∨ v.hi (-(2 ^ 128 - 2 ^ 103 : Nat)))) ∨
    (m = 2 ∧ ¬v.hi (2 ^ 128 - 2 ^ 104 : Nat)) ∨ (m = 3 ∧ ¬v.lo (-(2 ^ 128 - 2 ^ 104 : Nat)))
  inexact : r.fl.getLsbD 0 = true ↔ ¬(finite32 r.v ∧ v.lo (value32 r.v) ∧ v.hi (value32 r.v))
  underflow : r.fl.getLsbD 1 = true ↔ r.fl.getLsbD 0 = true ∧ ¬v.lo (mkRat 1 (2 ^ 126)) ∧ ¬v.hi (mkRat (-1) (2 ^ 126))
  overflow : r.fl.getLsbD 2 = true ↔ v.lo (2 ^ 128 : Nat) ∨ v.hi (-(2 ^ 128 : Nat)) ∨ ¬finite32 r.v
  valid : r.fl.getLsbD 3 = false ∧ r.fl.getLsbD 4 = false

/-- The zero that an exact zero sum of two terms of these signs is (R108). -/
def zeroSum (m : Mode) (s t : Bool) : Word32 := if (if s = t then s = true else m = 3) then 0x80000000#32 else 0

/-- The number that an exact value of the array stands for (R52). -/
def valueFV : FV → Rat
  | .num s m e => (if s then -1 else 1) * (m : Rat) * if 0 ≤ e then ((2 ^ e.toNat : Nat) : Rat) else mkRat 1 (2 ^ (-e).toNat)
  | _ => 0

/-- The word is a NaN (R31). -/
abbrev nan32 (w : Word32) : Prop := 0x7F800000 < w.toNat % 2 ^ 31

/-- The word is a signalling NaN (R31). -/
abbrev snan32 (w : Word32) : Prop := nan32 w ∧ w.toNat / 2 ^ 22 % 2 = 0

/-- Where a word that is no NaN stands in the order of FP32 values: both zeros at 0. -/
def order32 (w : Word32) : Int := if w.msb then -((w.toNat % 2 ^ 31 : Nat) : Int) else ((w.toNat % 2 ^ 31 : Nat) : Int)

/-- The number that a finite pattern of a format stands for (R29). -/
def Fmt.value (f : Fmt) (p : Nat) : Rat :=
  let e := p / 2 ^ f.fb % 2 ^ f.eb
  let m := p % 2 ^ f.fb + if e = 0 then 0 else 2 ^ f.fb
  mkRat ((if 2 ^ (f.eb + f.fb) ≤ p then -1 else 1) * (m * 2 ^ max e 1 : Nat)) (2 ^ (f.bias + f.fb))

/-- The exponent field of a pattern is not all ones. -/
def Fmt.finite (f : Fmt) (p : Nat) : Prop := p / 2 ^ f.fb % 2 ^ f.eb ≠ 2 ^ f.eb - 1

/-- `r` is the number x rounded once to the format, BF16 or FP16, under the mode, with the flags that this raises (R35, R36). -/
structure RoundedTo (f : Fmt) (m : Mode) (x : Rat) (r : Nat × BitVec 5) : Prop where
  number : r.1 < 2 ^ 16 ∧ r.1 % 2 ^ 15 ≤ (2 ^ f.eb - 1) * 2 ^ f.fb
  sign : (0 < x → r.1 < 2 ^ 15) ∧ (x < 0 → 2 ^ 15 ≤ r.1)
  nearest : m = 0 → f.finite r.1 → (x < (2 ^ (f.bias + 1) - 2 ^ (f.bias - f.fb - 1) : Nat) ∧
      -(2 ^ (f.bias + 1) - 2 ^ (f.bias - f.fb - 1) : Nat) < x) ∧
    ∀ w, w < 2 ^ 16 → f.finite w → let mid := (f.value r.1 + f.value w) / 2
      (f.value r.1 < f.value w → x ≤ mid) ∧ (f.value w < f.value r.1 → mid ≤ x) ∧ (f.value w ≠ f.value r.1 → x = mid → r.1 % 2 = 0)
  down : m = 3 ∨ m = 1 ∧ 0 ≤ x → f.finite r.1 → f.value r.1 ≤ x ∧
    ∀ w, w < 2 ^ 16 → f.finite w → f.value w ≤ x → f.value w ≤ f.value r.1
  up : m = 2 ∨ m = 1 ∧ x ≤ 0 → f.finite r.1 → x ≤ f.value r.1 ∧
    ∀ w, w < 2 ^ 16 → f.finite w → x ≤ f.value w → f.value r.1 ≤ f.value w
  infinite : ¬f.finite r.1 →
    (m = 0 ∧ ((2 ^ (f.bias + 1) - 2 ^ (f.bias - f.fb - 1) : Nat) ≤ x ∨ x ≤ -(2 ^ (f.bias + 1) - 2 ^ (f.bias - f.fb - 1) : Nat))) ∨
    (m = 2 ∧ (2 ^ (f.bias + 1) - 2 ^ (f.bias - f.fb) : Nat) < x) ∨ (m = 3 ∧ x < -(2 ^ (f.bias + 1) - 2 ^ (f.bias - f.fb) : Nat))
  inexact : r.2.getLsbD 0 = true ↔ ¬(f.finite r.1 ∧ f.value r.1 = x)
  underflow : r.2.getLsbD 1 = true ↔ r.2.getLsbD 0 = true ∧ x < mkRat 1 (2 ^ (f.bias - 1)) ∧ mkRat (-1) (2 ^ (f.bias - 1)) < x
  overflow : r.2.getLsbD 2 = true ↔ (2 ^ (f.bias + 1) : Nat) ≤ x ∨ x ≤ -(2 ^ (f.bias + 1) : Nat) ∨ ¬f.finite r.1
  valid : r.2.getLsbD 3 = false ∧ r.2.getLsbD 4 = false

/-- n is the number x rounded to an integer under the mode (R35). -/
structure RoundedInt (m : Mode) (x : Rat) (n : Int) : Prop where
  nearest : m = 0 → 2 * x ≤ 2 * n + 1 ∧ 2 * n - 1 ≤ 2 * x ∧ (2 * x = 2 * n + 1 ∨ 2 * x = 2 * n - 1 → n % 2 = 0)
  down : m = 3 ∨ m = 1 ∧ 0 ≤ x → n ≤ x ∧ x < n + 1
  up : m = 2 ∨ m = 1 ∧ x < 0 → x ≤ n ∧ n < x + 1

/-! ## The order of a reduction (R194) -/

/-- One ⊕ of two values, with the flags of both and its own. -/
def FRes.join (f : Word32 → Word32 → FRes) (a b : FRes) : FRes := ⟨(f a.v b.v).v, a.fl ||| b.fl ||| (f a.v b.v).fl⟩

/-- One pass of the tree: neighbours are combined, and an odd last value passes up unchanged. -/
inductive Paired (g : FRes → FRes → FRes) : List FRes → List FRes → Prop where
  | none : Paired g [] []
  | one (a : FRes) : Paired g [a] [a]
  | two (a b : FRes) (l r : List FRes) : Paired g l r → Paired g (a :: b :: l) (g a b :: r)

/-- What the passes leave of a list. -/
inductive Combined (g : FRes → FRes → FRes) : List FRes → FRes → Prop where
  | last (a : FRes) : Combined g [a] a
  | pass (l r : List FRes) (a : FRes) : 1 < l.length → Paired g l r → Combined g r a → Combined g l a

/-- The elements that lane L handles, in ascending order (R187). -/
def laneElems {α : Type} (l : List α) (lane : Nat) : List α :=
  (List.range l.length).filterMap (fun e => if e % 192 = lane then l[e]? else none)

/-! ## What is left alone -/

/-- Every byte of memory, every full/empty bit and every poison bit is as before. -/
def SameMemory (s t : State) : Prop :=
  (∀ a, t.mem.byte a = s.mem.byte a) ∧ t.empties = s.empties ∧ t.poisons = s.poisons

/-- Every slot but the executing one is as before. -/
def SameOthers (s t : State) : Prop :=
  ∀ c k, c ≠ s.curCore ∨ k ≠ s.curSlot → t.thr c k = s.thr c k

end Sys2Proof.Machine
end

