-- ==== Sys2Proof/Certificates/Slice0/Obligations.lean ====
section
/-!
DEFINITION. Certificates/Slice0/Obligations.lean: the statements for the provers.
-/
section Statements
open Sys2Proof Sys2Proof.Machine

/-! ## Integer and control instructions -/

/-- R99: the integer register operations write their result to x[rd], set no flag and raise no fault, and the thread goes
on.

R100, R28: multiply and divide write the exact product's halves, and the quotient and remainder rounded toward zero;
division by zero gives all ones and the dividend.

R101: the counts and SEL. `n` is the number of leading or trailing zero bits, or 64 for the value 0. -/
def Obligations.IntegerResults : Prop :=
  (∀ (s : State) (d a b : Reg),
    WritesX (.add d a b) s d (s.me.rx a + s.me.rx b) ∧
    WritesX (.sub d a b) s d (s.me.rx a - s.me.rx b) ∧
    WritesX (.and d a b) s d (s.me.rx a &&& s.me.rx b) ∧
    WritesX (.or d a b) s d (s.me.rx a ||| s.me.rx b) ∧
    WritesX (.xor d a b) s d (s.me.rx a ^^^ s.me.rx b) ∧
    WritesX (.sll d a b) s d (BitVec.ofNat 64 ((s.me.rx a).toNat * 2 ^ ((s.me.rx b).toNat % 64))) ∧
    WritesX (.srl d a b) s d (BitVec.ofNat 64 ((s.me.rx a).toNat / 2 ^ ((s.me.rx b).toNat % 64))) ∧
    WritesX (.sra d a b) s d (BitVec.ofInt 64 ((s.me.rx a).toInt / 2 ^ ((s.me.rx b).toNat % 64))) ∧
    WritesX (.slt d a b) s d (if (s.me.rx a).toInt < (s.me.rx b).toInt then 1 else 0) ∧
    WritesX (.sltu d a b) s d (if (s.me.rx a).toNat < (s.me.rx b).toNat then 1 else 0) ∧
    WritesX (.min d a b) s d (BitVec.ofInt 64 (min (s.me.rx a).toInt (s.me.rx b).toInt)) ∧
    WritesX (.max d a b) s d (BitVec.ofInt 64 (max (s.me.rx a).toInt (s.me.rx b).toInt)) ∧
    WritesX (.minu d a b) s d (BitVec.ofNat 64 (min (s.me.rx a).toNat (s.me.rx b).toNat)) ∧
    WritesX (.maxu d a b) s d (BitVec.ofNat 64 (max (s.me.rx a).toNat (s.me.rx b).toNat))) ∧
  (∀ (s : State) (d a b : Reg),
    let x := s.me.rx a
    let y := s.me.rx b
    WritesX (.mul d a b) s d (BitVec.ofNat 64 (x.toNat * y.toNat)) ∧
    WritesX (.mulh d a b) s d (BitVec.ofInt 64 (x.toInt * y.toInt / 2 ^ 64)) ∧
    WritesX (.mulhu d a b) s d (BitVec.ofNat 64 (x.toNat * y.toNat / 2 ^ 64)) ∧
    WritesX (.div d a b) s d (if y = 0 then BitVec.allOnes 64 else BitVec.ofInt 64 (x.toInt.tdiv y.toInt)) ∧
    WritesX (.divu d a b) s d (if y = 0 then BitVec.allOnes 64 else BitVec.ofNat 64 (x.toNat / y.toNat)) ∧
    WritesX (.rem d a b) s d (if y = 0 then x else BitVec.ofInt 64 (x.toInt - y.toInt * x.toInt.tdiv y.toInt)) ∧
    WritesX (.remu d a b) s d (if y = 0 then x else BitVec.ofNat 64 (x.toNat - y.toNat * (x.toNat / y.toNat)))) ∧
  (∀ (s : State) (d a b c : Reg),
    (∃ n, n ≤ 64 ∧ WritesX (.clz d a) s d (BitVec.ofNat 64 n) ∧ (s.me.rx a).toNat < 2 ^ (64 - n) ∧
      (n < 64 → 2 ^ (63 - n) ≤ (s.me.rx a).toNat)) ∧
    (∃ n, n ≤ 64 ∧ WritesX (.ctz d a) s d (BitVec.ofNat 64 n) ∧ (∀ i, i < n → (s.me.rx a).getLsbD i = false) ∧
      (n < 64 → (s.me.rx a).getLsbD n = true)) ∧
    WritesX (.popc d a) s d (BitVec.ofNat 64 ((List.range 64).filter (fun i => (s.me.rx a).getLsbD i)).length) ∧
    WritesX (.sel d a b c) s d (if s.me.rx c ≠ 0 then s.me.rx a else s.me.rx b))

/-- R102, R103, R104: the immediate forms, the shifts and fields by immediates, LUI and ADDPC. A field that ends beyond
bit 63 raises ILLOP with TVAL the word. -/
def Obligations.ImmediateResults : Prop := ∀ (s : State) (d a : Reg) (i : BitVec 16) (n w p : BitVec 6),
  let x := s.me.rx a
  let v := i.signExtend 64
  WritesX (.addi d a i) s d (x + v) ∧ WritesX (.andi d a i) s d (x &&& v) ∧ WritesX (.ori d a i) s d (x ||| v) ∧
  WritesX (.xori d a i) s d (x ^^^ v) ∧
  WritesX (.slti d a i) s d (if x.toInt < v.toInt then 1 else 0) ∧
  WritesX (.sltiu d a i) s d (if x.toNat < v.toNat then 1 else 0) ∧
  WritesX (.slli d a n) s d (BitVec.ofNat 64 (x.toNat * 2 ^ n.toNat)) ∧
  WritesX (.srli d a n) s d (BitVec.ofNat 64 (x.toNat / 2 ^ n.toNat)) ∧
  WritesX (.srai d a n) s d (BitVec.ofInt 64 (x.toInt / 2 ^ n.toNat)) ∧
  (p.toNat + (w.toNat + 1) ≤ 64 →
    WritesX (.extr d a w p) s d (BitVec.ofNat 64 (x.toNat / 2 ^ p.toNat % 2 ^ (w.toNat + 1))) ∧
    ∃ r, WritesX (.insr d a w p) s d r ∧ ∀ k, r.getLsbD k =
      if p.toNat ≤ k ∧ k ≤ p.toNat + w.toNat then x.getLsbD (k - p.toNat) else (s.me.rx d).getLsbD k) ∧
  (64 < p.toNat + (w.toNat + 1) →
    (Issues (.extr d a w p) s → exec (.extr d a w p) s = .next (s.trapped cILLOP ((Instr.extr d a w p).word.setWidth 64))) ∧
    (Issues (.insr d a w p) s → exec (.insr d a w p) s = .next (s.trapped cILLOP ((Instr.insr d a w p).word.setWidth 64)))) ∧
  WritesX (.lui d i) s d (BitVec.ofInt 64 (i.toInt * 2 ^ 16)) ∧
  WritesX (.addpc d i) s d (s.me.pc + BitVec.ofInt 64 (i.toInt * 4))

/-- R105, R107: a conditional branch is taken exactly when its test holds, to PC plus four times its displacement; BST
tests the thread's BS.

R106: JAL and JALR link and jump; a target that is no multiple of 4 raises ALIGN with TVAL the target. -/
def Obligations.BranchesAndJumps : Prop :=
  (∀ (s : State) (a b : Reg) (c : BitVec 3) (i : BitVec 16),
    let x := s.me.rx a
    let y := s.me.rx b
    let target := s.me.pc + BitVec.ofInt 64 (i.toInt * 4)
    Branches (.beq a b i) s (x = y) target ∧ Branches (.bne a b i) s (x ≠ y) target ∧
    Branches (.blt a b i) s (x.toInt < y.toInt) target ∧ Branches (.bge a b i) s (y.toInt ≤ x.toInt) target ∧
    Branches (.bltu a b i) s (x.toNat < y.toNat) target ∧ Branches (.bgeu a b i) s (y.toNat ≤ x.toNat) target ∧
    Branches (.bst c i) s (s.me.bs = c) target ∧ Branches (.bstN c i) s (s.me.bs ≠ c) target) ∧
  (∀ (s : State) (d a : Reg) (i : BitVec 21) (j : BitVec 16),
    let t1 := s.me.pc + BitVec.ofInt 64 (i.toInt * 4)
    let t2 := s.me.rx a + j.signExtend 64
    let link := s.putMe (s.me.wx d (s.me.pc + 4))
    (Issues (.jal d i) s →
      (t1.toNat % 4 = 0 → exec (.jal d i) s = .next (s.jumped (.jal d i) link t1)) ∧
      (t1.toNat % 4 ≠ 0 → exec (.jal d i) s = .next (s.trapped cALIGN t1))) ∧
    (Issues (.jalr d a j) s →
      (t2.toNat % 4 = 0 → exec (.jalr d a j) s = .next (s.jumped (.jalr d a j) link t2)) ∧
      (t2.toNat % 4 ≠ 0 → exec (.jalr d a j) s = .next (s.trapped cALIGN t2))))

/-! ## Scalar floating point -/

/-- R108, R113: the arithmetic of FP32 writes the rounded result to f[rd] with bits [63:32] zero, and ORs its flags into
FCSR, once its operands have been read and its rounding mode is one of R35's four.

R35, R36: over finite operands each of these results is the exact sum, difference, product, quotient, root or fused
value, rounded once, with NX, UF and OF as it was rounded; a non-zero number divided by zero gives infinity and DZ; an
exact zero has the sign that R108 gives it. -/
def Obligations.FloatArithmeticResults : Prop :=
  (∀ (m : Mode) (a b c : Word32), m < 4 → finite32 a → finite32 b → finite32 c →
    let x := value32 a
    let y := value32 b
    let z := value32 c
    let minus : Word32 := if a.msb = b.msb then 0 else 0x80000000#32
    let fused := fun (np nc : Bool) (v : Rat) => RoundedOnce m (.of v) (fFused m np nc a b c) ∧
      (v = 0 → (fFused m np nc a b c).v = zeroSum m ((a.msb != b.msb) != np) (c.msb != nc))
    RoundedOnce m (.of (x + y)) (fAdd m a b) ∧ (x + y = 0 → (fAdd m a b).v = zeroSum m a.msb b.msb) ∧
    RoundedOnce m (.of (x - y)) (fSub m a b) ∧ (x - y = 0 → (fSub m a b).v = zeroSum m a.msb !b.msb) ∧
    RoundedOnce m (.of (x * y)) (fMul m a b) ∧ (x * y = 0 → (fMul m a b).v = minus) ∧
    (y ≠ 0 → RoundedOnce m (.of (x / y)) (fDiv m a b) ∧ (x = 0 → (fDiv m a b).v = minus)) ∧
    (y = 0 → x ≠ 0 → fDiv m a b = ⟨minus ||| 0x7F800000#32, fDZ⟩) ∧
    (0 ≤ x → RoundedOnce m (.sqrt x) (fSqrt m a) ∧ (x = 0 → fSqrt m a = ⟨a, 0⟩)) ∧
    fused false false (x * y + z) ∧ fused false true (x * y - z) ∧ fused true true (-(x * y) - z) ∧ fused true false (-(x * y) + z)) ∧
  ∀ (s : State) (d a b c : Reg) (m : BitVec 3),
  let put := fun (r : FRes) (t : Thread) => (t.wf d (r.v.setWidth 64)).raise r.fl
  Rounds (.fadd d a b m) s m (fun md v t => put (fAdd md (op32 v 0) (op32 v 1)) t) ∧
  Rounds (.fsub d a b m) s m (fun md v t => put (fSub md (op32 v 0) (op32 v 1)) t) ∧
  Rounds (.fmul d a b m) s m (fun md v t => put (fMul md (op32 v 0) (op32 v 1)) t) ∧
  Rounds (.fdiv d a b m) s m (fun md v t => put (fDiv md (op32 v 0) (op32 v 1)) t) ∧
  Rounds (.fsqrt d a m) s m (fun md v t => put (fSqrt md (op32 v 0)) t) ∧
  Rounds (.fma d a b c m) s m (fun md v t => put (fFused md false false (op32 v 0) (op32 v 1) (op32 v 2)) t) ∧
  Rounds (.fms d a b c m) s m (fun md v t => put (fFused md false true (op32 v 0) (op32 v 1) (op32 v 2)) t) ∧
  Rounds (.fnma d a b c m) s m (fun md v t => put (fFused md true true (op32 v 0) (op32 v 1) (op32 v 2)) t) ∧
  Rounds (.fnms d a b c m) s m (fun md v t => put (fFused md true false (op32 v 0) (op32 v 1) (op32 v 2)) t)

/-- R109 to R111: the FP instructions that do not round. FSGN writes a's magnitude with b's sign, its opposite, or
both signs' exclusive or. FMVXF and FMVFX move all 64 bits.

R112: FCVT by its sub. Sub 0 and 1 convert x[ra] to FP32, 2 and 3 FP32 to an integer with saturation, 4 and 5 FP32 to
BF16 and FP16, 6 and 7 widen exactly.

R32, R109, R110: FMIN and FMAX give the lesser and the greater operand, with −0 below +0, and a NaN as R32 says; the
comparisons take both zeros as equal and are 0 with a NaN, FEQ raising NV for a signalling one alone; FCLASS gives one
bit of its ten.

R34 to R36, R112: the conversions of numbers round once; one to an integer saturates with NV and no NX; a NaN becomes
0 with NV there, and in another floating-point format keeps its sign and what fits of its fraction, quieted. -/
def Obligations.FloatPlainAndConversions : Prop :=
  (∀ a b : Word32,
    let first : FRes := ⟨(if nan32 a then a else b) ||| 0x00400000#32, if snan32 a ∨ snan32 b then fNV else 0⟩
    let below := fun (x y : Word32) => order32 x < order32 y ∨ (order32 x = order32 y ∧ x.msb = true ∧ y.msb = false)
    let mag := a.toNat % 2 ^ 31
    (nan32 a ∨ nan32 b → fMin a b = first ∧ fMax a b = first ∧ fEq a b = (false, first.fl) ∧ fLt a b = (false, fNV) ∧ fLe a b = (false, fNV)) ∧
    (¬nan32 a → ¬nan32 b → fMin a b = ⟨if below b a then b else a, 0⟩ ∧ fMax a b = ⟨if below a b then b else a, 0⟩ ∧
      fEq a b = (decide (order32 a = order32 b), 0) ∧ fLt a b = (decide (order32 a < order32 b), 0) ∧
      fLe a b = (decide (order32 a ≤ order32 b), 0)) ∧
    fClass a = 2 ^ (if snan32 a then 8 else if nan32 a then 9 else if mag = 0x7F800000 then (if a.msb then 0 else 7)
      else if 2 ^ 23 ≤ mag then (if a.msb then 1 else 6) else if 0 < mag then (if a.msb then 2 else 5) else if a.msb then 3 else 4)) ∧
  (∀ (m : Mode) (a : Word32) (v lo hi : Int), m < 4 →
    (-(2 ^ 63) ≤ v → v < 2 ^ 64 → RoundedOnce m (.of v) (intToF m v) ∧ (v = 0 → intToF m v = ⟨0, 0⟩)) ∧
    (nan32 a → fToInt m lo hi a = (0, fNV)) ∧ fToInt m lo hi 0x7F800000#32 = (hi, fNV) ∧ fToInt m lo hi 0xFF800000#32 = (lo, fNV) ∧
    (finite32 a → ∃ n, RoundedInt m (value32 a) n ∧ (lo ≤ hi →
      fToInt m lo hi a = if n < lo then (lo, fNV) else if hi < n then (hi, fNV) else (n, if (n : Rat) = value32 a then 0 else fNX))) ∧
    ∀ f, f = bf16 ∨ f = fp16 →
      let ones := (2 ^ f.eb - 1) * 2 ^ f.fb
      let sign := if a.msb then 2 ^ 15 else 0
      (nan32 a → fToNarrow f m a = (sign + (ones ||| a.toNat % 2 ^ 23 / 2 ^ (23 - f.fb) ||| 2 ^ (f.fb - 1)), if snan32 a then fNV else 0)) ∧
      (a.toNat % 2 ^ 31 = 0x7F800000 → fToNarrow f m a = (sign + ones, 0)) ∧
      (finite32 a → RoundedTo f m (value32 a) (fToNarrow f m a) ∧ (value32 a = 0 → fToNarrow f m a = (sign, 0))) ∧
      ∀ p, p < 2 ^ 16 →
        let top := if 2 ^ 15 ≤ p then 2 ^ 31 else 0
        (f.finite p → finite32 (widen f p) ∧ value32 (widen f p) = f.value p ∧ ((widen f p).msb = true ↔ 2 ^ 15 ≤ p)) ∧
        (p % 2 ^ 15 = ones → widen f p = BitVec.ofNat 32 (top + 0x7F800000)) ∧
        (ones < p % 2 ^ 15 → widen f p = BitVec.ofNat 32 (top + (0x7FC00000 ||| p % 2 ^ f.fb * 2 ^ (23 - f.fb)))) ∧
        (f.isSNaN p = true ↔ ones < p % 2 ^ 15 ∧ p / 2 ^ (f.fb - 1) % 2 = 0)) ∧
  (∀ (s : State) (d a b : Reg) (k : BitVec 3),
    let put := fun (r : FRes) (t : Thread) => (t.wf d (r.v.setWidth 64)).raise r.fl
    let putX := fun (v : Word) (fl : BitVec 5) (t : Thread) => (t.wx d v).raise fl
    let sign := fun (x y : Word32) => if k.toNat = 0 then y.msb else if k.toNat = 1 then !y.msb else x.msb != y.msb
    FromF (.fmin d a b) s (fun v t => put (fMin (op32 v 0) (op32 v 1)) t) ∧
    FromF (.fmax d a b) s (fun v t => put (fMax (op32 v 0) (op32 v 1)) t) ∧
    FromF (.feq d a b) s (fun v t => putX (if (fEq (op32 v 0) (op32 v 1)).1 then 1 else 0) (fEq (op32 v 0) (op32 v 1)).2 t) ∧
    FromF (.flt d a b) s (fun v t => putX (if (fLt (op32 v 0) (op32 v 1)).1 then 1 else 0) (fLt (op32 v 0) (op32 v 1)).2 t) ∧
    FromF (.fle d a b) s (fun v t => putX (if (fLe (op32 v 0) (op32 v 1)).1 then 1 else 0) (fLe (op32 v 0) (op32 v 1)).2 t) ∧
    FromF (.fclass d a) s (fun v t => putX (BitVec.ofNat 64 (fClass (op32 v 0))) 0 t) ∧
    FromF (.fsgn d a b k) s (fun v t =>
      put ⟨BitVec.ofNat 32 ((op32 v 0).toNat % 2 ^ 31 + if sign (op32 v 0) (op32 v 1) then 2 ^ 31 else 0), 0⟩ t) ∧
    FromF (.fmvxf d a) s (fun v t => putX (v.getD 0 0) 0 t) ∧
    FromF (.fmvfx d a) s (fun _ t => t.wf d (s.me.rx a))) ∧
  (∀ (s : State) (d a : Reg) (m : BitVec 3),
    let put := fun (r : FRes) (t : Thread) => (t.wf d (r.v.setWidth 64)).raise r.fl
    let putX := fun (r : Int × BitVec 5) (t : Thread) => (t.wx d (BitVec.ofInt 64 r.1)).raise r.2
    let narrow := fun (r : Nat × BitVec 5) => (⟨BitVec.ofNat 32 r.1, r.2⟩ : FRes)
    let low16 := fun (v : List Word) => (v.getD 0 0).toNat % 2 ^ 16
    Rounds (.fcvt d a m 0) s m (fun md _ t => put (intToF md (s.me.rx a).toInt) t) ∧
    Rounds (.fcvt d a m 1) s m (fun md _ t => put (intToF md (s.me.rx a).toNat) t) ∧
    Rounds (.fcvt d a m 2) s m (fun md v t => putX (fToInt md (-(2 ^ 63)) (2 ^ 63 - 1) (op32 v 0)) t) ∧
    Rounds (.fcvt d a m 3) s m (fun md v t => putX (fToInt md 0 (2 ^ 64 - 1) (op32 v 0)) t) ∧
    Rounds (.fcvt d a m 4) s m (fun md v t => put (narrow (fToNarrow bf16 md (op32 v 0))) t) ∧
    Rounds (.fcvt d a m 5) s m (fun md v t => put (narrow (fToNarrow fp16 md (op32 v 0))) t) ∧
    FromF (.fcvt d a m 6) s (fun v t => put ⟨widen bf16 (low16 v), if bf16.isSNaN (low16 v) then fNV else 0⟩ t) ∧
    FromF (.fcvt d a m 7) s (fun v t => put ⟨widen fp16 (low16 v), if fp16.isSNaN (low16 v) then fNV else 0⟩ t))

/-- R35: a rounding instruction whose mode is none of the four raises ILLOP with TVAL the word: its rm field names
FCSR.RM, and that holds 4 to 7.

R32: with a NaN operand, the result of FADD, FSUB, FMUL and FDIV is the first NaN of a, b with its quiet bit set, and
NV is raised exactly when an operand is a signalling NaN; an invalid operation without a NaN gives the default NaN and
NV. -/
def Obligations.RoundingModesAndNaNs : Prop :=
  (∀ (s : State) (d a b c : Reg) (l : BitVec 4) (i : Instr),
    i ∈ [.fadd d a b 7, .fsub d a b 7, .fmul d a b 7, .fdiv d a b 7, .fsqrt d a 7, .fma d a b c 7, .fms d a b c 7,
         .fnma d a b c 7, .fnms d a b c 7, .fcvt d a 7 0, .fcvt d a 7 1, .fcvt d a 7 2, .fcvt d a 7 3, .fcvt d a 7 4,
         .fcvt d a 7 5, .fexp d a l 7, .flog d a l 7, .frcp d a l 7, .frsq d a l 7, .ftanh d a l 7, .fsigm d a l 7] →
    Issues i s → 4 ≤ s.me.fcsr.toNat / 2 ^ 5 % 8 → exec i s = .next (s.trapped cILLOP (i.word.setWidth 64))) ∧
  (∀ (m : Mode) (a b : Word32),
    let nan := fun (x : Word32) => 0x7F800000 < x.toNat % 2 ^ 31
    let snan := fun (x : Word32) => 0x7F800000 < x.toNat % 2 ^ 31 ∧ x.toNat / 2 ^ 22 % 2 = 0
    let r : FRes := ⟨(if nan a then a else b) ||| 0x00400000#32, if snan a ∨ snan b then fNV else 0⟩
    ((nan a ∨ nan b) → fAdd m a b = r ∧ fSub m a b = r ∧ fMul m a b = r ∧ fDiv m a b = r) ∧
    fAdd m 0x7F800000#32 0xFF800000#32 = ⟨0x7FC00000#32, fNV⟩ ∧ fSub m 0x7F800000#32 0x7F800000#32 = ⟨0x7FC00000#32, fNV⟩ ∧
    fMul m 0x00000000#32 0x7F800000#32 = ⟨0x7FC00000#32, fNV⟩ ∧ fDiv m 0x00000000#32 0x00000000#32 = ⟨0x7FC00000#32, fNV⟩ ∧
    fDiv m 0x7F800000#32 0x7F800000#32 = ⟨0x7FC00000#32, fNV⟩ ∧ fSqrt m 0xBF800000#32 = ⟨0x7FC00000#32, fNV⟩)

/-- R114: a scalar SFU instruction reads its operand and leaves its request, of one element, at the end of the core's
SFU queue.

R187 to R189, R197, R354: in a cycle of its thread's position, unless the rotation is gated, a pending V-format
instruction takes a beat once the elements of that beat, 192 a beat, have arrived, and otherwise waits. At the last
beat of the vector unit it consumes and pushes its elements whole, ORs the flags and sets BS; an element that carries
a fault makes it raise that fault with nothing consumed or pushed. The SFU writes the result of a request twenty
cycles after its last element has begun, and not before; a vector SFU instruction, which has taken its one beat by
then, takes effect whole as its request completes. One of no elements takes effect at its beat. -/
def Obligations.SfuRequestsAndResults : Prop :=
  (∀ (s : State) (d a : Reg) (l : BitVec 4) (m : BitVec 3) (i : Instr) (md : Mode)
      (v : List Word) (t : Thread),
    i ∈ [.fexp d a l m, .flog d a l m, .frcp d a l m, .frsq d a l m, .ftanh d a l m, .fsigm d a l m] →
    Issues i s → s.me.mode m = some md → s.me.readFs [a] = .ok (v, t) → s.me.checkPush d = none →
    ∃ s1, exec i s = .next (s.onward i s1) ∧
      (∃ q, (s1.core s.curCore).sfu = (s.core s.curCore).sfu ++ [q] ∧ q.slot = s.curSlot ∧ q.n = 1 ∧ q.id = s.nextId) ∧
      s1.mem = s.mem ∧ s1.nextId = s.nextId + 1) ∧
  (∀ (s : State) (c k : Nat) (p : Pending), k < 16 →
    let r : Ref := ⟨c, k, p.id⟩
    let go := exec (.vectorBeat c k) s
    let less := fun (s : State) => s.modPend r (fun p => { p with beats := p.beats - 1, ops := { p.ops with stage := s.cycle + 1 } })
    let m := min p.elems (192 * (max 1 ((p.elems + 191) / 192) + (if vReduces p.ins || vScans p.ins then 1 else 0) + 1 - p.beats))
    let s1 := s.vFetch c k p m
    let s2 := less s1
    let srcs := (p.names.drop 1).eraseDups
    let effect := fun (s0 s2 : State) (out : Out) => let t := s2.thr c k
      (∀ rows, vGather t (p.names.drop 1) p.elems 0 = .ok rows →
        let res := vResult p.ins p.ops.rm.toNat p.ops.a p.ops.b rows
        let t2 := res.1.foldl (fun t v => t.push (p.names.headD 0) v) (srcs.foldl (fun t n => t.consume n p.elems) t)
        out = .next ((s2.putThr c k t2).completePend r { bs := some (vStatus t2 p), flags := res.2 })) ∧
      (∀ code tv, vGather t (p.names.drop 1) p.elems 0 = .error (code, tv) →
        out = .next ((s0.modThr c k (fun t => srcs.foldl (fun t n => t.unfetch n) t)).lateFail r code tv))
    let sf := s.vFetch c k p p.elems
    (s.gated = true → go = .next s) ∧
    (s.gated = false → (s.thr c k).beating = some p → s.cycle % 16 = k → p.ops.stage ≠ s.cycle + 1 →
      ((cls p.ins).sfu = false → (s1.thr c k).vReady p m = false → go = .next s1) ∧
      (1 < p.beats → (cls p.ins).sfu = false → (s1.thr c k).vReady p m = true → go = .next s2) ∧
      (p.beats = 1 → (cls p.ins).sfu = false → (s1.thr c k).vReady p m = true → effect s2 s2 go) ∧
      (p.beats = 1 → (cls p.ins).sfu = true → (sf.thr c k).vReady p p.elems = false → go = .next sf) ∧
      (p.beats = 1 → (cls p.ins).sfu = true → (sf.thr c k).vReady p p.elems = true →
        (p.elems = 0 → effect (less sf) (less sf) go) ∧ (0 < p.elems → go = .next (less sf)))) ∧
    ((s.thr c k).beating = some p → s.cycle % 16 ≠ k → go = .next s) ∧
    (∀ q rest f d, (s.core c).sfu = q :: rest → q.slot = k → q.id = p.id → q.begins + 20 + (q.n - 1) / 16 ≤ s.cycle →
      s.pending r = some p → sfuOf p.ins = some f → (cls p.ins).fdst = some d →
      let v := sfu f p.ops.rm.toNat (p.ops.a.setWidth 32)
      exec (.sfuResult c) s = .next ((s.modCore c (fun x => { x with sfu := rest })).finish r
        { f := [(d, v.v.setWidth 64)], flags := v.fl })) ∧
    (∀ q rest, (s.core c).sfu = q :: rest → q.slot = k → q.id = p.id →
      let end_ := exec (.sfuResult c) s
      let u := (s.modCore c (fun x => { x with sfu := rest })).vFetch c k p p.elems
      (s.cycle < q.begins + 20 + (q.n - 1) / 16 → end_ = .next s) ∧
      (q.begins + 20 + (q.n - 1) / 16 ≤ s.cycle → s.pending r = some p → sfuOf p.ins = none →
        (p.beats ≠ 0 ∨ (u.thr c k).vReady p p.elems = false → end_ = .next s) ∧
        (p.beats = 0 → (u.thr c k).vReady p p.elems = true → effect u u end_))))

/-! ## Memory -/

/-- R2: bytes are little-endian. A write of n bytes changes the bytes it covers and no other and a read gives back what
was written. -/
def Obligations.MemoryReadAfterWrite : Prop := ∀ (m : Memory) (a n v : Nat),
  (∀ b, (m.write a n v).byte b = if a ≤ b ∧ b < a + n then BitVec.ofNat 8 (v / 256 ^ (b - a)) else m.byte b) ∧
  (m.write a n v).read a n = v % 256 ^ n

/-- R147, R56: a load or store makes an access of its size at x[ra] plus its scaled displacement, with the right R or W;
R50 and R147 give the operands it takes along.

R136, R148, R149: the full/empty instructions and the atomics make one access of their size with the rights the rules
name. SETE and SETF cover x[rc] doublewords; a count above 4,096 raises BADWIN. -/
def Obligations.LoadsStoresAtomicsIssue : Prop :=
  (∀ (s : State) (d a : Reg) (l : BitVec 4) (x : BitVec 1) (z : BitVec 3) (i : BitVec 8),
    let t := s.me
    let nl := if z.toNat < 2 then 1 else if z.toNat < 4 then 2 else if z.toNat < 6 then 4 else 8
    let ns := 2 ^ z.toNat
    let ea := fun (n : Nat) => t.rx a + i.signExtend 64 * BitVec.ofNat 64 n
    let rd : Need := { ea := ea nl, n := nl, align := nl, r := true, win := nl == 4, dbl := nl == 8, sysOk := nl == 8 }
    let wr : Need := { ea := ea ns, n := ns, align := ns, w := true, needT := true, win := ns == 4, dbl := ns == 8, sysOk := ns == 8 }
    (viewCheck (.ld d a l x z i) rd none t s = none →
      Accesses (.ld d a l x z i) s rd (withData t 0 0)) ∧
    (viewCheck (.st d a l x z i) wr (some (t.rx d)) t s = none →
      Accesses (.st d a l x z i) s wr (withData t (t.rx d) (if z = 4 then t.rx (d + 1) else 0))) ∧
    (t.viewOf d = none →
      (viewCheck (.ldf d a l x z i) { rd with sysOk := false } none t s = none →
        Accesses (.ldf d a l x z i) s { rd with sysOk := false } (withData t 0 0)) ∧
      (viewCheck (.stf d a l x z i) { wr with sysOk := false } (some (t.rf d)) t s = none →
        Accesses (.stf d a l x z i) s { wr with sysOk := false } (withData t (t.rf d) 0)))) ∧
  (∀ (s : State) (d a b : Reg) (l : BitVec 4) (i : BitVec 8) (z : BitVec 1),
    let t := s.me
    let ea := t.rx a + i.signExtend 64 * 8
    let fe := fun (n : Nat) (r w : Bool) =>
      ({ ea := ea, n := n, align := 8, sort := .fullEmpty, r := r, w := w, f := true, needT := w } : Need)
    let m := if z = 1 then 8 else 4
    let amo : Need := { ea := t.rx a, n := m, align := m, sort := .atomic, r := true, w := true, a := true, needT := true }
    let give := fun (o : Operands) => { o with a := t.rx d, b := t.rx b }
    let n := (t.rx d).toNat
    Accesses (.ldfe d a l i) s (fe 8 true true) id ∧ Accesses (.ldff d a l i) s (fe 8 true false) id ∧
    Accesses (.stef d a l i) s (fe 8 false true) (fun o => { o with a := t.rx d }) ∧
    Accesses (.stff d a l i) s (fe 8 false true) (fun o => { o with a := t.rx d }) ∧
    (n ≤ 4096 → Accesses (.sete d a l i) s (fe (8 * n) false true) id ∧ Accesses (.setf d a l i) s (fe (8 * n) false true) id) ∧
    (4096 < n → (Issues (.sete d a l i) s → exec (.sete d a l i) s = .next (s.trapped cBADWIN ea)) ∧
      (Issues (.setf d a l i) s → exec (.setf d a l i) s = .next (s.trapped cBADWIN ea))) ∧
    Accesses (.amoadd d a b l z) s amo give ∧ Accesses (.amoand d a b l z) s amo give ∧ Accesses (.amoor d a b l z) s amo give ∧
    Accesses (.amoxor d a b l z) s amo give ∧ Accesses (.amomin d a b l z) s amo give ∧ Accesses (.amomax d a b l z) s amo give ∧
    Accesses (.amoswap d a b l z) s amo give ∧ Accesses (.cas d a b l z) s amo give)

/-- R120, R138, R147: a load performed at PLAIN storage reads its bytes there and then, sign-extended in the forms .B, .H
and .W; a store writes the low bytes of its operand. A load of a poisoned doubleword raises POISON late, with TVAL its
address.

R149: an atomic reads its old value, writes the new one and returns the old one sign-extended, at one instant. CAS
compares with x[rd] as it was at issue. -/
def Obligations.LoadsStoresAtomicsPerformed : Prop :=
  (∀ (s : State) (r : Ref) (p : Pending) (c off : Nat) (d a : Reg) (l : BitVec 4)
      (x : BitVec 1) (z : BitVec 3) (i : BitVec 8), AtPlainBank s r p c off →
    let loc := scratchLoc c off
    let nl := if z.toNat < 2 then 1 else if z.toNat < 4 then 2 else if z.toNat < 6 then 4 else 8
    let v := s.read loc nl
    let value : Word := if z = 0 ∨ z = 2 ∨ z = 4 then (BitVec.ofNat (8 * nl) v).signExtend 64 else BitVec.ofNat 64 v
    (p.ins = .ld d a l x z i → s.poisonIn loc nl = none → atBank s r = .next (s.finish r { x := [(d, value)] })) ∧
    (p.ins = .ldf d a l x z i → s.poisonIn loc nl = none → atBank s r = .next (s.finish r { f := [(d, BitVec.ofNat 64 v)] })) ∧
    (∀ pl, p.ins = .ld d a l x z i ∨ p.ins = .ldf d a l x z i → s.poisonIn loc nl = some pl →
      atBank s r = .next (s.lateFail r cPOISON (p.ops.ea + BitVec.ofNat 64 pl - BitVec.ofNat 64 loc))) ∧
    (p.ops.tm = false →
      (p.ins = .st d a l x z i →
        atBank s r = .next ((s.store loc (2 ^ z.toNat) (p.ops.a.toNat + 2 ^ 64 * p.ops.b.toNat)).finish r {})) ∧
      (p.ins = .stf d a l x z i → atBank s r = .next ((s.store loc (2 ^ z.toNat) p.ops.a.toNat).finish r {})))) ∧
  (∀ (s : State) (r : Ref) (p : Pending) (c off : Nat) (d a b : Reg) (l : BitVec 4) (z : BitVec 1),
    AtPlainBank s r p c off → p.ops.tm = false →
    let loc := scratchLoc c off
    let n := if z = 1 then 8 else 4
    let w := 8 * n
    let old := BitVec.ofNat w (s.read loc n)
    let x := p.ops.b.setWidth w
    let become := fun (v : BitVec w) => atBank s r = .next ((s.store loc n v.toNat).finish r { x := [(d, old.signExtend 64)] })
    s.poisonIn loc n = none →
    (p.ins = .amoadd d a b l z → become (old + x)) ∧ (p.ins = .amoand d a b l z → become (old &&& x)) ∧
    (p.ins = .amoor d a b l z → become (old ||| x)) ∧ (p.ins = .amoxor d a b l z → become (old ^^^ x)) ∧
    (p.ins = .amomin d a b l z → become (if x.toInt < old.toInt then x else old)) ∧
    (p.ins = .amomax d a b l z → become (if old.toInt < x.toInt then x else old)) ∧
    (p.ins = .amoswap d a b l z → become x) ∧
    (p.ins = .cas d a b l z → become (if old = p.ops.a.setWidth w then x else old)))

/-- R136, R137, R148: LDFE waits for full, reads and leaves empty; LDFF waits for full and reads; STEF waits for empty,
stores and leaves full; STFF stores and leaves full. Each then serves the bank's sleepers, and sets BS to OK. One that
must wait sleeps. SETE and SETF change one doubleword after the other, in ascending order, and are done with the last. -/
def Obligations.FullEmptyPerformed : Prop := ∀ (s : State) (r : Ref) (p : Pending) (c off : Nat) (d a : Reg) (l : BitVec 4) (i : BitVec 8),
  AtPlainBank s r p c off → p.ops.tm = false → p.oneBank off = true →
  let loc := scratchLoc c off
  let b := off / bankSize
  let sleeps := atBank s r = .next (s.sleepAt r c b)
  let serve := fun (s1 : State) => atBank s r = .next (s1.serveBank c b)
  let clean := s.poisonIn loc 8 = none
  let k := p.ops.c.toNat
  let words := fun (full : Bool) =>
    (p.ops.n / 8 ≤ k → serve (s.finish r { bs := some bsOK })) ∧
    (k < p.ops.n / 8 → off % 8 = 0 → ∃ s1 : State, s1.mem = s.mem ∧
      (∀ q, s1.isFull q = if dword q = loc + 8 * k then full else s.isFull q) ∧
      (p.ops.n / 8 = k + 1 → serve (s1.finish r { bs := some bsOK })) ∧
      (k + 1 < p.ops.n / 8 →
        serve (s1.modPend r (fun p => { p with phase := .flight, ops := { p.ops with c := BitVec.ofNat 64 (k + 1) } }))))
  (p.ins = .ldfe d a l i →
    (s.isFull loc = true → clean →
      serve ((s.setFull loc false).finish r { x := [(d, s.readW loc)], bs := some bsOK })) ∧
    (s.isFull loc = false → sleeps)) ∧
  (p.ins = .ldff d a l i →
    (s.isFull loc = true → clean → serve (s.finish r { x := [(d, s.readW loc)], bs := some bsOK })) ∧
    (s.isFull loc = false → sleeps)) ∧
  (p.ins = .stef d a l i →
    (s.isFull loc = false → serve (((s.store loc 8 p.ops.a.toNat).setFull loc true).finish r { bs := some bsOK })) ∧
    (s.isFull loc = true → sleeps)) ∧
  (p.ins = .stff d a l i → serve (((s.store loc 8 p.ops.a.toNat).setFull loc true).finish r { bs := some bsOK })) ∧
  (p.ins = .sete d a l i → words false) ∧ (p.ins = .setf d a l i → words true)

/-- R64, R151: SEGLD takes its 16 bytes into g[N]; a reserved field raises ILLOP and P at user privilege PRIV, with TVAL
the word. SEGRD reads back either half.

R151 to R155: SEGLD, BANKQ, BANKJOIN, BANKCFG, SEND and DQ make the access that the rules give them. BANKCFG refuses
an invalid word with TVAL the word, SEND a target that is no core of the tenant with TVAL the target, once its record's
address has been checked: bits above the 16 of a core's number, or a core of this package. DQ with ra = 0 writes no
record. That BANKJOIN is checked for its first doubleword alone, and takes the rest of its segment's limit along, is
assumption 16; the 8 bytes of BANKCFG and BANKQ are assumption 41. -/
def Obligations.SegmentBankMessageAccesses : Prop :=
  (∀ (s : State) (r : Ref) (p : Pending) (c off : Nat) (d g : Reg) (l : BitVec 4),
    (AtPlainBank s r p c off → p.ins = .segld g d l → s.poisonIn (scratchLoc c off) 16 = none →
      let v := BitVec.ofNat 128 (s.read (scratchLoc c off) 16)
      let reserved := v.extractLsb' 52 12 ≠ 0 ∨ v.extractLsb' 123 5 ≠ 0
      (reserved → atBank s r = .next (s.lateFail r cILLOP (p.ins.word.setWidth 64))) ∧
      (¬reserved → v.getLsbD 120 = true → p.ops.sys = false → atBank s r = .next (s.lateFail r cPRIV (p.ins.word.setWidth 64))) ∧
      (¬reserved → (v.getLsbD 120 = true → p.ops.sys = true) → atBank s r = .next (s.finish r { g := some (g.toNat, v) }))) ∧
    WritesX (.segrd d g 0) s d ((s.me.rg g.toNat).extractLsb' 0 64) ∧
    WritesX (.segrd d g 1) s d ((s.me.rg g.toNat).extractLsb' 64 64)) ∧
  (∀ (s : State) (d a b : Reg) (l : BitVec 4) (k : BitVec 1),
    let t := s.me
    let rec16 : Need := { ea := t.rx a, n := 16, align := 16, sort := .record, r := true }
    let rec8 : Need := { ea := t.rx a, n := 8, align := 8, sort := .record, r := true }
    let rec32 : Need := { ea := t.rx a, n := 32, align := 32, sort := .record, r := true }
    let out32 : Need := { ea := t.rx a, n := 32, align := 32, sort := .rawRecord, w := true, needT := true }
    let bank := fun (w : Bool) => ({ ea := t.rx a, n := 8, align := 8, sort := .bank, r := !w, w := w, needT := w } : Need)
    Accesses (.segld d a l) s rec16 id ∧ Accesses (.bankq d a l) s (bank false) id ∧
    Accesses (.bankjoin a l) s rec8
      (fun o => { o with c := BitVec.ofNat 64 (segLimit (t.segOf (t.rx a)) - eaOffset (t.rx a)) }) ∧
    ((∀ ta tgt c n, resolve s s.curCore t (bank true) = .ok (ta, tgt) → tgt.bank = some (c, n) → n < 8) →
      (cfgOk (t.rx b) = true → Accesses (.bankcfg d a b l k) s (bank true) (fun o => { o with b := t.rx b })) ∧
      (cfgOk (t.rx b) = false → Issues (.bankcfg d a b l k) s → (∃ x, resolve s s.curCore t (bank true) = .ok x) →
        exec (.bankcfg d a b l k) s = .next (s.trapped cILLCFG (t.rx b)))) ∧
    (let core := (t.rx d).toNat
     let foreign := core / 2048 = s.pkg.toNat ∧ s.isCoreOf (core % 2048) (s.owner s.curCore) = false
     (core < 2 ^ 16 → ¬foreign → Accesses (.send d a l) s rec32 (fun o => { o with a := t.rx d })) ∧
     (Issues (.send d a l) s → core < 2 ^ 16 → foreign → (∃ x, resolve s s.curCore t rec32 = .ok x) →
       exec (.send d a l) s = .next (s.trapped cBADWIN (t.rx d))) ∧
     (Issues (.send d a l) s → 2 ^ 16 ≤ core → exec (.send d a l) s = .next (s.trapped cBADWIN (t.rx d)))) ∧
    (Issues (.dq d 0 l k) s → Launched (.dq d 0 l k) s s { core := s.curCore, tm := t.tm, sys := t.sys } true false .flight) ∧
    (a ≠ 0 → Accesses (.dq d a l k) s out32 id))

/-- R115, R119, R145: an access to paged space is checked in this order, rights, limit, multiple, each fault with TVAL the
effective address, and the tenant address is the base plus the offset.

R143 to R145, R157: an access to paged space that is ready leaves for its memory port, which translates its tenant
address. An absent page parks it, a fault of the page is raised late with TVAL its address, and a load or store of
HBM is performed at its place.

R172: a store to host memory is accepted and is on its way from then on; a load of host memory comes behind the stores
of its own thread (assumption 56). A load of root-port space returns what the device there gives, which the model
leaves free, and a store there changes no memory of the package (R338; the model's choice, assumption 20). -/
def Obligations.PagedAccesses : Prop :=
  (∀ (s : State) (c : Nat) (t : Thread) (nd : Need),
    let g := t.rg (nd.ea.toNat / 2 ^ 61)
    let off := nd.ea.toNat % 2 ^ 61
    let ta := g.toNat % 2 ^ 52 + off
    let limit := g.toNat / 2 ^ 64 % 2 ^ 52
    nd.sort = .plain ∨ nd.sort = .atomic ∨ nd.sort = .record → ta < 2 ^ 51 →
    resolve s c t nd =
      if (nd.r ∧ g.getLsbD 116 = false) ∨ (nd.w ∧ g.getLsbD 117 = false) ∨ (nd.a ∧ g.getLsbD 119 = false) ∨
         (nd.f ∧ g.getLsbD 122 = false) ∨ (nd.needT ∧ t.tm ∧ g.getLsbD 121 = false) ∨ (g.getLsbD 120 ∧ t.sys = false)
      then .error (cSEGRIGHT, nd.ea)
      else if limit < off + nd.n then .error (cSEGLIM, nd.ea)
      else if ta % nd.align ≠ 0 then .error (cALIGN, nd.ea)
      else .ok (ta, .paged ta)) ∧
  (∀ (s : State) (r : Ref) (p : Pending) (ta : Nat),
    s.pending r = some p → p.ops.tgt = .paged ta → s.portReady r p = true →
    let ask := { askOf p.ins with sys := p.ops.sys }
    let x := s.translate (clusterOf r.core) (s.owner r.core) ta ask (hostAtomic p.ins)
    let go := exec (.portAccessPerformed r.core r.slot r.id) s
    (x = .absent → go = .next (s.setPhase r .parked)) ∧
    (∀ c, x = .fault c → go = .next (s.lateFail r c p.ops.ea)) ∧
    (∀ pa, x = .ok pa → ∃ t : State, go = .next t ∧
      let me := s.thr r.core r.slot
      let behind := s.landAll me
      let ends := fun (res : Result) => ∃ q, t.pending r = some q ∧ q.phase = .done res
      let loaded := fun (u : State) (d : Reg) (z : BitVec 3) =>
        SameMemory u t ∧ ends { x := [(d, loadValue z (u.read pa (loadSize z)))] }
      (∀ d a l y z i, p.ins = .ld d a l y z i →
        (∀ n, paSpace pa = .hbm n → s.poisonIn pa (loadSize z) = none → loaded s d z) ∧
        (paSpace pa = .host → behind.poisonIn pa (loadSize z) = none → loaded behind d z) ∧
        (paSpace pa = .root → SameMemory s t ∧ ∃ v, ends { x := [(d, v)] })) ∧
      (∀ d a l y z i, p.ins = .st d a l y z i → p.ops.tm = false →
        let v := p.ops.a.toNat + 2 ^ 64 * p.ops.b.toNat
        (∀ n, paSpace pa = .hbm n → t.mem = (s.store pa (2 ^ z.toNat) v).mem ∧ ends {}) ∧
        (paSpace pa = .host → SameMemory s t ∧ t.posted = s.posted ++ [⟨me.home, me.homeSlot, pa, 2 ^ z.toNat, v, me.tag⟩] ∧
          ends {}) ∧
        (paSpace pa = .root → SameMemory s t ∧ ends {})))) ∧
  (∀ (s : State) (q : Posted), s.posted = [q] →
    (s.landOne 0).posted = [] ∧ (s.landOne 0).mem = (s.store q.pa q.n q.v).mem)

/-! ## Completion, faults and traps -/

/-- R38, R59, R67: when an instruction in flight that has been performed completes, its result is written to its thread,
its outcome to BS, its flags are ORed into FCSR and its events added to OVFC, and it leaves the list of those in
flight.

R61, R310: once nothing of the thread is outstanding, its oldest late fault stops it: EPC is that instruction's own
address, CAUSE has LATE and the lookahead count, TVAL is as the fault gives it, and the thread is Trapped. -/
def Obligations.CompletionAndLateFaults : Prop :=
  (∀ (s : State) (r : Ref) (p : Pending) (res : Result), r.slot < 16 →
    s.pending r = some p → p.phase = .done res → (s.thr r.core r.slot).canApply res = true →
    let t := s.thr r.core r.slot
    let go := exec (.longLatencyComplete r.core r.slot r.id) s
    (∀ d v, res = { x := [(d, v)] } →
      go = .next (s.putThr r.core r.slot ((t.dropPend r.id).wx d v))) ∧
    (∀ d v b, res = { x := [(d, v)], bs := some b } →
      go = .next (s.putThr r.core r.slot { (t.dropPend r.id).wx d v with bs := b })) ∧
    (∀ b, res = { bs := some b } → go = .next (s.putThr r.core r.slot { t.dropPend r.id with bs := b })) ∧
    (∀ d v, res = { f := [(d, v)] } → go = .next (s.putThr r.core r.slot ((t.dropPend r.id).wf d v))) ∧
    (∀ n v, res = { g := some (n, v) } → go = .next (s.putThr r.core r.slot ((t.dropPend r.id).wg n v))) ∧
    (∀ d v fl, res = { f := [(d, v)], flags := fl } → go = .next (s.putThr r.core r.slot
      (let u := (t.dropPend r.id).wf d v
       { u with fcsr := u.fcsr ||| fl.setWidth 64 }))) ∧
    (∀ b fl, res = { bs := some b, flags := fl } → go = .next (s.putThr r.core r.slot
      { t.dropPend r.id with bs := b, fcsr := t.fcsr ||| fl.setWidth 64 })) ∧
    (∀ fl n, res = { flags := fl, ovf := n } → n ≠ 0 → go = .next (s.putThr r.core r.slot
      { t.dropPend r.id with
        fcsr := t.fcsr ||| fl.setWidth 64
        ovfc := BitVec.ofNat 64 (min (t.ovfc.toNat + n) (2 ^ 32 - 1)) }))) ∧
  (∀ (s : State) (c k : Nat) (p : Pending) (code : Byte) (tval : Word)
      (rest : List (Pending × Byte × Word)), k < 15 →
    (s.thr c k).resolved = true → (s.thr c k).faults = (p, code, tval) :: rest →
    ∃ s1, exec (.lateFault c k) s = .next s1 ∧
      (s1.thr c k).st = .trapped ∧ (s1.thr c k).epc = p.pc ∧ (s1.thr c k).pc = p.pc ∧ (s1.thr c k).tval = tval ∧
      (s1.thr c k).cause = BitVec.ofNat 64 (code.toNat + 2 ^ 8 * min p.issued 15 + 2 ^ 12) ∧
      (s1.thr c k).x = (s.thr c k).x ∧ (s1.thr c k).returned = false ∧ SameMemory s s1)

/-- R310, R319, R321, R331: TRAP and BRK take their trap: with nothing in flight, EPC is their own address, CAUSE
their code with LATE and LAD 0, TVAL the code of TRAP or 0, the thread is Trapped in its slot, and no other thread and
no memory changes. While something is in flight, the thread stops and keeps that trap until it is performed (so the
model reads R310; DEDUCED, assumption 19). On slot 15 it is a double trap (R313).

R94, R311, R322: ERET in slot 15 returns the trap of the slot that x[ra] names: the thread runs on at its EPC, at
system privilege after ERET.sys and at user privilege after ERET.user, and BS is OK. If no trap of it has been
returned by HALT, BS is ABSENT and nothing else changes. Outside slot 15 it raises PRIV, and above 14 ILLCFG with TVAL
the operand. -/
def Obligations.TrapsAndReturns : Prop :=
  (∀ (s : State) (i : Instr) (code : Byte) (tval : Word), s.curSlot < 16 → Issues i s →
    (∃ n, i = .trap n ∧ code = 0x21 ∧ tval = n.setWidth 64) ∨ (i = .brk ∧ code = 0x20 ∧ tval = 0) →
    ∃ s1, exec i s = .next s1 ∧ SameMemory s s1 ∧ SameOthers s s1 ∧
      (s.me.settled = true → s.curSlot < 15 →
        s1.me.st = .trapped ∧ s1.me.epc = s.me.pc ∧ s1.me.cause = code.setWidth 64 ∧ s1.me.tval = tval ∧ s1.me.x = s.me.x ∧
        s1.me.f = s.me.f ∧ s1.me.g = s.me.g ∧ s1.me.sys = s.me.sys) ∧
      (s.me.settled = false →
        s1.me = { s.me with stop := some { code := code, tval := tval, epc := s.me.pc, xw := s.me.xw.isSome } }) ∧
      (s.me.settled = true → s.curSlot = 15 →
        (s1.core s.curCore).stopped = true ∧ (s1.core s.curCore).depc = s.me.pc ∧
        (s1.core s.curCore).dcause = code.setWidth 64 ∧ s1.me = { s.me with stop := none } ∧
        s1.reports = s.reports ++ [⟨s.curCore, 15, 0x24, s.me.pc, code.setWidth 64⟩])) ∧
  (∀ (s : State) (a : Reg) (i : Instr) (mode : Option Bool), Issues i s →
    (i = .eret a ∧ mode = none) ∨ (i = .eretSys a ∧ mode = some true) ∨ (i = .eretUser a ∧ mode = some false) →
    let k := (s.me.rx a).toNat
    let u := s.thr s.curCore k
    (s.curSlot ≠ 15 → exec i s = .next (s.trapped cPRIV (i.word.setWidth 64))) ∧
    (s.curSlot = 15 → 15 ≤ k → exec i s = .next (s.trapped cILLCFG (s.me.rx a))) ∧
    (s.curSlot = 15 → k < 15 →
      (u.st ≠ .trapped ∨ u.returned = false → exec i s = .next (s.onward i (s.putMe { s.me with bs := bsABSENT }))) ∧
      (u.st = .trapped → u.returned = true → ∃ s1 : State, exec i s = .next (s.onward i s1) ∧ s1.me.bs = bsOK ∧
        (s1.thr s.curCore k).st = .run ∧ (s1.thr s.curCore k).pc = u.epc ∧ (s1.thr s.curCore k).returned = false ∧
        (s1.thr s.curCore k).sys = mode.getD u.sys ∧ (s1.thr s.curCore k).x = u.x ∧ (s1.thr s.curCore k).bs = u.bs ∧
        (∀ n, n < 15 → n ≠ k → s1.thr s.curCore n = s.thr s.curCore n) ∧ SameMemory s s1)))

/-! ## System registers -/

/-- R37, R46, R65 to R69, R287: SYSRD reads the registers that any thread may read. A number that names no register raises
ILLOP, and one that only system privilege may access raises PRIV at user privilege, with TVAL the word.

R37, R65 to R70, R254, R337, R351: SYSWR writes the registers of the thread and, at system privilege, those of its
core. A value with a bit set that the register's map does not give, a write of TCCBASE or TCCCTL while an entry holds
a context, a CAP of 0, and any write of a read-only register raise ILLOP with TVAL the word; SCOPEPOL raises PRIV.

R66, R76, R94: of TSW, software writes BS and, at system privilege, SYS. A user that would set SYS gets PRIV, before
the value is looked at; a value that would change VB, TM or MIG, that sets a reserved bit, whose BS would be 7, or that
would clear SYS in slot 15, is refused with ILLOP. A write from outside the thread that is refused writes nothing
(assumption 40). -/
def Obligations.SystemRegisters : Prop :=
  (∀ (s : State) (d : Reg) (n : BitVec 12),
    let t := s.me
    let x := s.core s.curCore
    WritesX (.sysrd d 0x000) s d (BitVec.ofNat 64 (t.bs.toNat + (if t.vb then 8 else 0) + (if t.sys then 16 else 0) +
      (if t.tm then 32 else 0) + (if t.mig then 64 else 0))) ∧
    WritesX (.sysrd d 0x010) s d t.fcsr ∧ WritesX (.sysrd d 0x011) s d t.ovfc ∧ WritesX (.sysrd d 0x012) s d t.mxsb ∧
    WritesX (.sysrd d 0x013) s d t.live ∧
    (∀ k : Fin 16, WritesX (.sysrd d (0x014 + BitVec.ofNat 12 k)) s d t.cbk[k]) ∧
    WritesX (.sysrd d 0x030) s d (BitVec.ofNat 64 (s.pkg.toNat * 2048 + s.curCore)) ∧
    WritesX (.sysrd d 0x031) s d (BitVec.ofNat 64 s.curSlot) ∧ WritesX (.sysrd d 0x038) s d x.lvt ∧
    WritesX (.sysrd d 0x039) s d x.gvtCopy ∧
    (t.sys = true →
      (∀ k : Nat, k < 16 →
        WritesX (.sysrd d (BitVec.ofNat 12 (0x100 + 4 * k))) s d (x.slot k).epc ∧
        WritesX (.sysrd d (BitVec.ofNat 12 (0x101 + 4 * k))) s d (x.slot k).cause ∧
        WritesX (.sysrd d (BitVec.ofNat 12 (0x102 + 4 * k))) s d (x.slot k).tval) ∧
      WritesX (.sysrd d 0x140) s d x.depc ∧ WritesX (.sysrd d 0x141) s d x.dcause ∧
      WritesX (.sysrd d 0x200) s d (s.vf (s.owner s.curCore)).scopepol ∧ WritesX (.sysrd d 0x210) s d x.tccBase ∧
      WritesX (.sysrd d 0x211) s d x.tccCtl ∧ WritesX (.sysrd d 0x212) s d (BitVec.ofNat 64 (x.tcc.length * 2 ^ 16 + x.resident.length)) ∧
      WritesX (.sysrd d 0x243) s d (BitVec.ofNat 64 (x.netTok * 2 ^ 32 + x.hbmTok)) ∧ WritesX (.sysrd d 0x213) s d x.tccErr ∧ WritesX (.sysrd d 0x220) s d x.snapCtl ∧
      WritesX (.sysrd d 0x240) s d x.qhbm ∧ WritesX (.sysrd d 0x241) s d x.qnet ∧ WritesX (.sysrd d 0x242) s d x.qwgt) ∧
    (Issues (.sysrd d n) s →
      (regExists n.toNat = false → exec (.sysrd d n) s = .next (s.trapped cILLOP ((Instr.sysrd d n).word.setWidth 64))) ∧
      (regExists n.toNat = true → 0x100 ≤ n.toNat → t.sys = false →
        exec (.sysrd d n) s = .next (s.trapped cPRIV ((Instr.sysrd d n).word.setWidth 64))))) ∧
  (∀ (s : State) (a : Reg) (k : Fin 16),
    let t := s.me
    let x := s.core s.curCore
    let v := t.rx a
    let done := fun (n : BitVec 12) (s1 : State) =>
      Issues (.syswr a n) s → exec (.syswr a n) s = .next (s.onward (.syswr a n) s1)
    let refused := fun (n : BitVec 12) (c : Byte) =>
      Issues (.syswr a n) s → exec (.syswr a n) s = .next (s.trapped c ((Instr.syswr a n).word.setWidth 64))
    let mine := fun (n : BitVec 12) (ok : Prop) (t1 : Thread) => (ok → done n (s.putMe t1)) ∧ (¬ok → refused n cILLOP)
    mine 0x010 (v.toNat < 2 ^ 8) { t with fcsr := v } ∧ mine 0x011 (v.toNat < 2 ^ 32) { t with ovfc := v } ∧
    mine 0x012 (v.toNat < 2 ^ 52) { t with mxsb := v } ∧ mine 0x013 (v.toNat % 2 = 0) { t with live := v } ∧
    done (0x014 + BitVec.ofNat 12 k) (s.putMe { t with cbk := t.cbk.set k v }) ∧
    refused 0x030 cILLOP ∧ refused 0x031 cILLOP ∧ refused 0x038 cILLOP ∧ refused 0x039 cILLOP ∧
    (t.sys = true →
      done (BitVec.ofNat 12 (0x100 + 4 * k)) (s.modThr s.curCore k (fun u => { u with epc := v })) ∧
      (v.toNat < 2 ^ 13 → done (BitVec.ofNat 12 (0x101 + 4 * k)) (s.modThr s.curCore k (fun u => { u with cause := v }))) ∧
      (2 ^ 13 ≤ v.toNat → refused (BitVec.ofNat 12 (0x101 + 4 * k)) cILLOP) ∧
      done (BitVec.ofNat 12 (0x102 + 4 * k)) (s.modThr s.curCore k (fun u => { u with tval := v })) ∧
      refused 0x200 cPRIV ∧ refused 0x212 cILLOP ∧ refused 0x243 cILLOP ∧
      (let own := fun (n : BitVec 12) (ok : Prop) (x1 : Core) => (ok → done n (s.putCore s.curCore x1)) ∧ (¬ok → refused n cILLOP)
       own 0x140 True { x with depc := v } ∧ own 0x141 (v.toNat < 2 ^ 13) { x with dcause := v } ∧
       own 0x210 (x.tcc = [] ∧ v.toNat < 2 ^ 51 ∧ v.toNat % 2 ^ 10 = 0) { x with tccBase := v } ∧
       own 0x211 (x.tcc = [] ∧ tccCtlOk v = true) { x with tccCtl := v } ∧
       own 0x213 (v.toNat / 2 ^ 60 % 8 = 0)
         { x with tccErr := BitVec.ofNat 64 (v.toNat % 2 ^ 60 + if v.getLsbD 63 && x.tccErr.getLsbD 63 then 2 ^ 63 else 0) } ∧
       own 0x240 (2 ^ 32 ≤ v.toNat) { x with qhbm := v } ∧ own 0x241 (2 ^ 32 ≤ v.toNat) { x with qnet := v } ∧
       own 0x242 (v.toNat < 2 ^ 16) { x with qwgt := v } ∧
       (v.toNat / 2 ^ 3 % 2 ^ 13 ≠ 0 → refused 0x220 cILLOP) ∧
       (v.toNat / 2 ^ 3 % 2 ^ 13 = 0 → ∃ x1 : Core, done 0x220 (s.putCore s.curCore x1) ∧
         (∀ i, 16 ≤ i → x1.snapCtl.getLsbD i = x.snapCtl.getLsbD i) ∧ x1.snapCtl.getLsbD 0 = v.getLsbD 0 ∧
         x1.snapCtl.getLsbD 1 = v.getLsbD 1 ∧ x1.snapCtl.getLsbD 2 = (x.snapCtl.getLsbD 2 && !v.getLsbD 2))))) ∧
  (∀ (s : State) (a : Reg) (c k : Nat) (v : Word),
    let t := s.me
    let x := t.rx a
    let keeps := fun (t : Thread) (x : Word) => x.toNat < 2 ^ 7 ∧ x.getLsbD 6 = t.mig ∧ x.getLsbD 5 = t.tm ∧ x.getLsbD 3 = t.vb
    (Issues (.syswr a 0) s →
      (keeps t x → x.toNat % 8 ≠ 7 → (x.getLsbD 4 = true → t.sys = true) → (s.curSlot = 15 → x.getLsbD 4 = true) →
        exec (.syswr a 0) s = .next (s.onward (.syswr a 0) (s.putMe { t with bs := x.setWidth 3, sys := x.getLsbD 4 }))) ∧
      (¬keeps t x → (x.getLsbD 4 = true → t.sys = true) →
        exec (.syswr a 0) s = .next (s.trapped cILLOP ((Instr.syswr a 0).word.setWidth 64))) ∧
      (keeps t x → (x.getLsbD 4 = true → t.sys = true) → x.toNat % 8 = 7 ∨ (s.curSlot = 15 ∧ x.getLsbD 4 = false) →
        exec (.syswr a 0) s = .next (s.trapped cILLOP ((Instr.syswr a 0).word.setWidth 64))) ∧
      (x.getLsbD 4 = true → t.sys = false →
        exec (.syswr a 0) s = .next (s.trapped cPRIV ((Instr.syswr a 0).word.setWidth 64)))) ∧
    (keeps (s.thr c k) v → v.toNat % 8 ≠ 7 → (v.getLsbD 4 = true → (s.thr c k).sys = true) → (k = 15 → v.getLsbD 4 = true) →
      exec (.tswWrite c k v) s = .next (s.putThr c k { s.thr c k with bs := v.setWidth 3, sys := v.getLsbD 4 })) ∧
    (¬keeps (s.thr c k) v ∨ v.toNat % 8 = 7 ∨ (k = 15 ∧ v.getLsbD 4 = false) ∨ (v.getLsbD 4 = true ∧ (s.thr c k).sys = false) →
      exec (.tswWrite c k v) s = .next s))

/-- R163, R254, R337, R351: the core's and the tenant's control registers as the hardware writes them, each within its
map. TCCBASE and TCCCTL change only while no entry holds a context. No thread changes with SCOPEPOL. That a write
which SYSWR would be refused, such as a CAP of 0 or TCCCTL with a context held, writes nothing here is assumption 40. -/
def Obligations.ControlRegisterWrites : Prop := ∀ (s : State) (c f : Nat) (v : Word),
  let x := s.core c
  (x.tcc = [] → v.toNat < 2 ^ 51 → v.toNat % 2 ^ 10 = 0 →
    exec (.tccctlWrite c 0x210 v) s = .next (s.putCore c { x with tccBase := v })) ∧
  (x.tcc = [] → tccCtlOk v = true → exec (.tccctlWrite c 0x211 v) s = .next (s.putCore c { x with tccCtl := v })) ∧
  (x.tcc ≠ [] → exec (.tccctlWrite c 0x210 v) s = .next s ∧ exec (.tccctlWrite c 0x211 v) s = .next s) ∧
  (2 ^ 32 ≤ v.toNat →
    exec (.qosWrite c 0x240 v) s = .next (s.putCore c { x with qhbm := v }) ∧
    exec (.qosWrite c 0x241 v) s = .next (s.putCore c { x with qnet := v })) ∧
  (v.toNat < 2 ^ 32 → exec (.qosWrite c 0x240 v) s = .next s ∧ exec (.qosWrite c 0x241 v) s = .next s) ∧
  (v.toNat < 2 ^ 16 → exec (.qosWrite c 0x242 v) s = .next (s.putCore c { x with qwgt := v })) ∧
  (v.toNat / 2 ^ 3 % 2 ^ 13 = 0 → ∃ x1, exec (.snapctlWrite c v) s = .next (s.putCore c x1) ∧
    (∀ i, 16 ≤ i → x1.snapCtl.getLsbD i = x.snapCtl.getLsbD i) ∧ x1.snapCtl.getLsbD 0 = v.getLsbD 0 ∧
    x1.snapCtl.getLsbD 1 = v.getLsbD 1 ∧ x1.snapCtl.getLsbD 2 = (x.snapCtl.getLsbD 2 && !v.getLsbD 2)) ∧
  (v.toNat % 2 ^ 32 / 2 ^ 5 = 0 → v.toNat % 4 = 0 →
    ∃ s1 : State, exec (.scopepolWrite f v) s = .next s1 ∧ s1.vf f = { s.vf f with scopepol := v } ∧
      (∀ g, g ≠ f → s1.vf g = s.vf g) ∧ s1.mem = s.mem ∧
      ∀ x k, s1.thr x k = s.thr x k)

/-! ## Ordering, and moving between cores -/

/-- R150, R163: a FENCE goes on once its waits are over and its scope is one that SCOPEPOL allows; one that is held back,
as every instruction that is held back, changes nothing. A scope that SCOPEPOL does not allow raises SCOPE with TVAL
the word, before any wait; a FENCE, CRED or CBCAST that waits keeps the check it passed.

R172: FENCE.system is held back while a host store of its thread is on its way.

R181, R196: VFENCE raises the fault mark of a marked stream, the lowest of several (the model's choice, assumption 57),
and otherwise discards what read streams have fetched and not consumed. -/
def Obligations.Fences : Prop :=
  (∀ (s : State) (c : BitVec 3),
    let pol := (s.vf (s.owner s.curCore)).scopepol
    (Issues (.fence c) s → exec (.fence c) s = .next (s.onward (.fence c) s)) ∧
    (blocked (.fence c) s = false → (Instr.fence c).wf = true → (s.me.tm = false ∨ (cls (.fence c)).timed = true) →
      s.me.passed = none → 2 ≤ c.toNat → c.toNat < 5 → pol.getLsbD c.toNat = false →
      exec (.fence c) s = .next (s.trapped cSCOPE ((Instr.fence c).word.setWidth 64))) ∧
    (held (.fence c) s = false → ∀ p ∈ s.me.pend, p.mem = true → (s.me.tm = false ∨ (cls (.fence c)).timed = true) →
      (Instr.fence c).wf = true → earlyCheck (.fence c) s = none → ∃ r, p.phase = .done r) ∧
    (held (.fence 4) s = false → (s.me.tm = false ∨ (cls (.fence 4)).timed = true) → earlyCheck (.fence 4) s = none →
      ∀ q ∈ s.posted, ¬(q.home = s.me.home ∧ q.slot = s.me.homeSlot)) ∧
    (∀ i : Instr, s.me.passed = some i → checksScope i = true → earlyCheck i s = none) ∧
    (∀ i : Instr, i.isStep = false → held i s = true → exec i s = .next s)) ∧
  (∀ (s : State), Issues .vfence s →
    (∀ n c v, n < 8 → (s.me.stream n).mark = some (c, v) → (∀ m, m < n → (s.me.stream m).mark = none) →
      exec .vfence s = .next (s.failNow ⟨(c, v), some n⟩)) ∧
    ((∀ n, n < 8 → (s.me.stream n).mark = none) →
      ∃ t : Thread, exec .vfence s = .next (s.onward .vfence (s.putMe t)) ∧ t.x = s.me.x ∧ t.f = s.me.f ∧
        (∀ n, n < 8 → (∀ m, m < 8 → (s.me.stream m).indexed = false) →
          (t.stream n) = { s.me.stream n with fetched := [] })))

/-- R123, R125, R156: MIGRATE to the core where the thread is completes at once. To another core of the tenant it leaves
with a packet, unless the thread has a configured stream or holds the lease. A target that is no core of the tenant
raises BADWIN with TVAL the operand.

R123, R124, R229: a packet that arrives within its cluster takes the lowest free guest slot, 11 to 13 or 14 outside
virtual time; with none free it joins the queue of eight; with the queue full the thread stays at its source and the
packet is offered again. The registers that LIVE does not name arrive holding 0, and EPC, CAUSE and TVAL stay with the
slot (R65). At a core that is no longer the tenant's it is refused (R334). -/
def Obligations.MigrationAndArrival : Prop :=
  (∀ (s : State) (a : Reg) (dst : Nat), Issues (.migrate a) s →
    let v := s.me.rx a
    dst = (if a = 0 then s.me.home else v.toNat) →
    let mine := dst < 2048 ∧ s.owner dst = s.owner s.curCore
    let i := Instr.migrate a
    (¬mine → exec i s = .next (s.trapped cBADWIN v)) ∧
    (mine → dst = s.curCore → exec i s = .next (s.onward i s)) ∧
    (mine → dst ≠ s.curCore →
      (∀ n, s.me.firstStream = some n → exec i s = .next (s.trapped cSTREAM (BitVec.ofNat 64 n))) ∧
      (s.me.firstStream = none → s.holdsLease s.curCore s.curSlot = true →
        exec i s = .next (s.trapped cLEASE 0)) ∧
      (s.me.firstStream = none → s.holdsLease s.curCore s.curSlot = false →
        exec i s = .next (s.onward i (s.flyAway i { core := s.curCore, tgt := .foreign dst 0 } false false dst))))) ∧
  (∀ (s : State) (n c : Nat) (m : Move), s.packets[n]? = some m →
    clusterOf m.src = clusterOf m.dst → s.coreOut m.dst = false → s.quadDown m.dst = false → m.slot < 16 → m.src ≠ m.dst →
    let t := s.thr m.src m.slot
    let x := s.core m.dst
    let go := exec (.migrationArrival n) s
    (s.owner m.dst ≠ s.owner m.src → go = .next ({ s with packets := s.packets.eraseIdx n }.refuseMove m)) ∧
    (s.owner m.dst = s.owner m.src → m.dst ≠ t.home →
      (∀ k, x.arrivals = [] → x.freeGuest = some k → ∃ s1 : State, go = .next s1 ∧ s1.packets = s.packets.eraseIdx n ∧
        (s1.thr m.dst k).pc = t.pc ∧ (s1.thr m.dst k).tag = t.tag ∧ (s1.thr m.dst k).home = t.home ∧
        (s1.thr m.dst k).mig = true ∧ (t.st ≠ .trapped → (s1.thr m.dst k).epc = (s.thr m.dst k).epc) ∧
        (∀ q : Reg, (s1.thr m.dst k).rx q = if t.live.getLsbD q.toNat then t.rx q else 0) ∧
        (s1.thr m.src m.slot).st = .idle ∧
        (s1.thr m.src m.slot).held = (m.src == t.home && m.slot == t.homeSlot)) ∧
      (x.freeGuest = none → x.arrivals.length < 8 → ∃ s1 : State, go = .next s1 ∧
        (s1.core m.dst).arrivals = x.arrivals ++ [⟨t.arrived, m.src, m.slot⟩] ∧ (s1.thr m.src m.slot).st = .idle) ∧
      (x.freeGuest = none → x.arrivals.length = 8 → ∃ s1 : State, go = .next s1 ∧
        (s1.core m.src).offers = (s.core m.src).offers ++ [m] ∧ s1.thr m.src m.slot = t)) ∧
    (∀ q qs k, (s.core c).arrivals = q :: qs → (s.core c).freeGuest = some k →
      exec (.arrivalQueueAdmit c) s = .next ((s.putCore c { s.core c with arrivals := qs }).install c k q.th)) ∧
    (s.cycle % 256 = 0 → exec (.migrationReoffer c) s =
      .next { s.putCore c { s.core c with offers := [] } with packets := s.packets ++ (s.core c).offers }))

/-! ## Streams, vectors and the array -/

/-- R174, R175, R178, R183: a valid SCFG configures stream n: B is its parameter words 1 and 0, its count word 2, its mode
word 3; S is x[ra] or the element size, T and the rows x[rb] or none; it latches FCSR.RM, MXSB and the codebook that
its mode needs. f24 + n is a view from then on, and nothing else changes.

R177: SCFG checks its mode word and RM before anything else (ILLOP, TVAL the word), then that the stream is not
configured (STREAM, TVAL its number; but a stream that is marked faulted raises its mark, R181), then rights, limit,
multiples and window with TVAL its base (that every address fault gives the base is assumption 10). -/
def Obligations.StreamConfiguration : Prop :=
  (∀ (s : State) (n a b : Reg) (l : BitVec 4) (p : Params) (ta : Nat),
    let i := Instr.scfg n a b l p
    let t := s.me
    let st := scfgStream t a b p
    let ends := if st.total = 0 then (0, -1) else st.extent
    Issues i s → modeOk p.w3 = true → st.illop t = false → (t.stream n.toNat).configured = false →
    streamCheck s s.curCore t st.base ends.1 ends.2 (st.dir == 1) st.odd = .ok ta →
    ∃ u : Stream, exec i s = .next (s.onward i (s.putMe { t with
        streams := t.streams.setIfInBounds n.toNat u, f := t.f.setIfInBounds (24 + n.toNat) 0 })) ∧
      u.configured = true ∧ u.base.toNat = p.w1.toNat * 2 ^ 32 + p.w0.toNat ∧ u.count = p.w2.toNat ∧ u.mode = p.w3 ∧ u.ta = ta ∧
      u.pos = 0 ∧ u.mark = none ∧ u.indexed = false ∧
      u.rows = (if p.w3.getLsbD 10 then (t.rx b).toNat % 2 ^ 32 else 1) ∧
      u.stride = (if p.w3.getLsbD 11 then t.rx a else BitVec.ofNat 64 ((elemBits (p.w3.toNat % 16) + 7) / 8)) ∧
      u.rowStride = (if p.w3.getLsbD 10 then (t.rx b).extractLsb' 32 32 else 0) ∧
      u.mxsb = (if p.w3.toNat % 16 = 7 then t.mxsb else 0) ∧
      (p.w3.toNat % 16 ≠ 8 → u.codebook = []) ∧ (p.w3.toNat % 16 = 8 → u.codebook.length = 16 ∧ ∀ (k : Nat) (w : Word), k < 16 →
        t.cbk[4 * (p.w3.toNat / 2 ^ 14 % 4) + k / 4]? = some w →
        u.codebook[k]? = some (BitVec.ofNat 16 (w.toNat / 2 ^ (16 * (k % 4))))) ∧
      u.rm = (if p.w3.toNat / 2 ^ 12 % 4 = 1 then BitVec.ofNat 3 (t.fcsr.toNat / 2 ^ 5 % 8) else 0)) ∧
  (∀ (s : State) (n a b : Reg) (l : BitVec 4) (p : Params),
    let i := Instr.scfg n a b l p
    let t := s.me
    let st := scfgStream t a b p
    let ends := if st.total = 0 then (0, -1) else st.extent
    Issues i s →
    (modeOk p.w3 = false ∨ st.illop t = true → exec i s = .next (s.trapped cILLOP (i.word.setWidth 64))) ∧
    (modeOk p.w3 = true → st.illop t = false → (t.stream n.toNat).configured = true →
      ((t.stream n.toNat).mark = none → exec i s = .next (s.trapped cSTREAM (BitVec.ofNat 64 n.toNat))) ∧
      (∀ tr, (t.stream n.toNat).mark = some tr → exec i s = .next (s.failNow ⟨tr, some n.toNat⟩))) ∧
    (∀ c v, modeOk p.w3 = true → st.illop t = false → (t.stream n.toNat).configured = false →
      streamCheck s s.curCore t st.base ends.1 ends.2 (st.dir == 1) st.odd = .error (c, v) →
      v = st.base ∧ exec i s = .next (s.trapped c st.base)))

/-- R184, R185: SCFG2 configures an indexed stream over the index stream that x[ra] names, which becomes an index
stream. SREL returns a stream, and the index stream it owns, to unconfigured, with f24 + n reading 0; a fault mark is
raised instead, and SREL of an index stream raises STREAM with TVAL its number, before any wait. -/
def Obligations.IndexedStreamsAndRelease : Prop := ∀ (s : State) (n a b : Reg) (l : BitVec 4) (p : Params) (ta : Nat),
  let i := Instr.scfg2 n a b l p
  let t := s.me
  let k := (t.rx a).toNat
  let ix := t.stream k
  let fmt := p.w3.toNat % 16
  let w := (elemBits fmt + 7) / 8
  let st : Stream := { configured := true, mode := p.w3, base := p.w1 ++ p.w0, count := p.w2.toNat, stride := t.rx b
                       indexed := true, link := k }
  (Issues i s → modeOk p.w3 = true → st.illop t = false → p.w3.getLsbD 10 = false → p.w3.getLsbD 11 = false → k < 8 →
    (t.stream n.toNat).configured = false → ix.configured = true → ix.dir = 0 → ix.isIndex = false → k ≠ n.toNat →
    (ix.fmt = 0 ∨ 9 ≤ ix.fmt ∧ ix.fmt ≤ 12) → st.count ≤ ix.remaining →
    streamCheck s s.curCore t st.base 0 (w - 1) (st.dir == 1) (st.base.toNat % w != 0) = .ok ta →
    exec i s = .next (s.onward i (s.putMe ((t.putStream k { ix with isIndex := true }).configure n.toNat { st with ta := ta })))) ∧
  (let j := Instr.srel n l p
   let u := t.stream n.toNat
   (u.isIndex = true → Refuses j s cSTREAM (n.setWidth 64)) ∧
   (Issues j s →
    (u.mark = none → u.configured = true → u.indexed = false →
      exec j s = .next (s.onward j (s.putMe { t with
        streams := t.streams.setIfInBounds n.toNat {}, f := t.f.setIfInBounds (24 + n.toNat) 0 }))) ∧
    (u.mark = none → u.configured = true → u.indexed = true → u.link ≠ n.toNat → (t.stream u.link).configured = true →
      (t.stream u.link).indexed = false →
      exec j s = .next (s.onward j (s.putMe ((t.unconfigure n.toNat).unconfigure u.link)))) ∧
    (u.mark = none → u.configured = false → u.indexed = false → exec j s = .next (s.onward j (s.putMe t))) ∧
    (∀ c v, u.mark = some (c, v) → exec j s = .next (s.failNow ⟨(c, v), some n.toNat⟩))))

/-- R179, R180: the stream engine reads an element of a read stream that has not been read, and leaves it for its
consumer; it performs a produced element at its bank, the whole of it in PLAIN storage, unless an earlier one in the
same doubleword is still to be performed. An element that cannot be performed marks its stream with the fault (R181).
Neither goes on while the element's bank is shut (R134, R350). -/
def Obligations.StreamElementsMove : Prop := ∀ (s : State) (c k n e : Nat), c < 2048 → k < 16 → n < 8 →
  let t := s.thr c k
  let st := t.stream n
  (st.indexed = false → st.canFetch e = true → s.elemShut c t st e none = true → exec (.streamElementRead c k n e) s = .next s) ∧
  (st.indexed = false → st.canFetch e = true → s.elemShut c t st e none = false →
    exec (.streamElementRead c k n e) s =
      .next (s.putThr c k (t.putStream n { st with fetched := aset st.fetched e (s.readElem c t st e none) }))) ∧
  (∀ v ix, st.produced.find? (fun q => q.1 == e) = some (e, v, ix) →
    (earlierProduced s c t st e = true → exec (.streamElementWrite c k n e) s = .next s) ∧
    (s.elemShut c t st e ix = true → exec (.streamElementWrite c k n e) s = .next s) ∧
    (earlierProduced s c t st e = true ↔ ∃ (e2 : Nat) (v2 : Word32) (ix2 : Option Word) (ta ta2 : Nat) (ea ea2 : Word),
      (e2, v2, ix2) ∈ st.produced ∧ e2 < e ∧ elemTa s c t st e ix = .ok (ta, ea) ∧ elemTa s c t st e2 ix2 = .ok (ta2, ea2) ∧
      ta / 8 = ta2 / 8)) ∧
  (st.produced.find? (fun q => q.1 == e) = none → exec (.streamElementWrite c k n e) s = .next s) ∧
  (∀ v ix tr, st.produced.find? (fun q => q.1 == e) = some (e, v, ix) → earlierProduced s c t st e = false →
    elemTa s c t st e ix = .error tr →
    exec (.streamElementWrite c k n e) s = .next (s.putThr c k (t.putStream n
      { st with produced := st.produced.filter (fun q => q.1 != e), mark := some (st.mark.getD tr) }))) ∧
  (∀ v ix ta ea tc o, st.produced.find? (fun q => q.1 == e) = some (e, v, ix) → earlierProduced s c t st e = false →
    s.elemShut c t st e ix = false → elemTa s c t st e ix = .ok (ta, ea) → s.elemPlace c ta st.fmt = some (tc, o) → st.fmt ≠ 7 →
    exec (.streamElementWrite c k n e) s = .next ((s.putElem st.fmt (st.rowElem e).2 (scratchLoc tc o) v.toNat).putThr c k
      (t.putStream n { st with produced := st.produced.filter (fun q => q.1 != e) })))

/-- R186, R187, R196: a V-format instruction whose streams are in order issues, taking min(768, what its sources and
destination have left) elements, one beat to 192, a reduction or scan one more; one of no elements, and one of the
SFU, takes one beat (R188). A stream that is marked faulted raises its mark (R181); one that is not what it must be
raises STREAM with TVAL its number. -/
def Obligations.VectorInstructionsIssue : Prop := ∀ (s : State) (d a b : BitVec 3) (x y : Reg) (m : BitVec 2) (i : Instr) (xa xb : Word),
  (i, xa, xb) ∈ [(.vadd d a b y m, 0, s.me.rx y), (.vsub d a b y m, 0, s.me.rx y), (.vmul d a b y m, 0, s.me.rx y),
    (.vmin d a b y m, 0, s.me.rx y), (.vmax d a b y m, 0, s.me.rx y), (.vfma d a b x m, s.me.rx x, 0),
    (.vabs d a m, 0, 0), (.vneg d a m, 0, 0), (.vcvt d a m, 0, 0), (.vsel d a b x, s.me.rx x, 0),
    (.vcmp d a b x y m, s.me.rx x, s.me.rx y), (.vred d a y m, 0, s.me.rx y), (.vscan d a y m, 0, s.me.rx y),
    (.vdot d a b y m, 0, s.me.rx y), (.vexp d a, 0, 0), (.vlog d a, 0, 0), (.vrcp d a, 0, 0), (.vrsq d a, 0, 0),
    (.vtanh d a, 0, 0), (.vsigm d a, 0, (0 : Word))] →
  let t := s.me
  let srcs := vSources i xa
  let left := fun (n : Nat) => (t.stream n).remaining
  Issues i s → vLimits i xa = true → (vRounds i = true → t.fcsr.toNat / 2 ^ 5 % 8 < 4) →
  (∀ n tr, (srcs ++ [d.toNat]).find? (fun n => (t.stream n).mark.isSome) = some n → (t.stream n).mark = some tr →
    exec i s = .next (s.failNow ⟨tr, some n⟩)) ∧
  (∀ n, vBadStream t d.toNat srcs = some n → (∀ n ∈ srcs, (t.stream n).mark = none) → (t.stream d.toNat).mark = none →
    exec i s = .next (s.trapped cSTREAM (BitVec.ofNat 64 n))) ∧
  (vBadStream t d.toNat srcs = none → (∀ n ∈ srcs, (t.stream n).mark = none) → (t.stream d.toNat).mark = none →
    ∃ (s1 : State) (q : Pending), exec i s = .next (s.onward i s1) ∧ SameMemory s s1 ∧ s1.me.x = t.x ∧ s1.me.streams = t.streams ∧
      s1.me.pend.getLast? = some q ∧ s1.me.pend.length = t.pend.length + 1 ∧ q.id = s.nextId ∧ q.ins = i ∧ q.names = d.toNat :: srcs ∧
      (∀ n ∈ srcs, q.elems ≤ left n) ∧ q.elems ≤ 768 ∧ (vReduces i = false → q.elems ≤ left d.toNat) ∧
      (q.elems = 768 ∨ (∃ n ∈ srcs, q.elems = left n) ∨ q.elems = left d.toNat) ∧
      (q.beats = if (cls i).sfu = true ∨ q.elems = 0 then 1 else (q.elems + 191) / 192 + if vReduces i || vScans i then 1 else 0))

/-- R190 to R193: what an elementwise instruction pushes, element by element: the FP32 operation, the 32-bit integer
operation or the bits of R192 and R193, with x[xb] for b in the scalar forms.

R188, R195: each with its flags, those of all elements together; and the vector SFU instructions evaluate each element
as the scalar ones of their name do.

R194: VRED folds each lane's elements in ascending order, VDOT its products with one fused step each, the lanes'
values are combined pair by pair, pass after pass, and the start value comes last; VSCAN pushes the results of its
fold one by one. VRED's and VDOT's integer sums are the sums, modulo 2^32, of all elements and the start value,
whatever the order of lanes and tree; VSCAN's are the running sums; and three floating-point elements are combined as
the lanes and the tree say, not from left to right. -/
def Obligations.VectorResults : Prop :=
  (∀ (md : Mode) (d p q : BitVec 3) (x y : Reg) (xa xb : Word) (a b c : Word32),
    let k : Word32 := xb.setWidth 32
    let e : Word32 := xa.setWidth 32
    let two := fun (i : Instr) => vElement i md xa xb [a, b]
    let one := fun (i : Instr) => vElement i md xa xb [a]
    let plain := fun (v : Word32) => (⟨v, 0⟩ : FRes)
    let four := fun (i : BitVec 2 → Instr) (f : Word32 → Word32 → FRes) (g : Word32 → Word32 → Word32) =>
      two (i 0) = f a b ∧ one (i 1) = f a k ∧ two (i 2) = plain (g a b) ∧ one (i 3) = plain (g a k)
    let less := fun (a b : Word32) => BitVec.ofInt 32 (min a.toInt b.toInt)
    let more := fun (a b : Word32) => BitVec.ofInt 32 (max a.toInt b.toInt)
    let toI := fun (r : Int × BitVec 5) => (⟨BitVec.ofInt 32 r.1, r.2⟩ : FRes)
    four (.vadd d p q y) (fAdd md) (· + ·) ∧ four (.vsub d p q y) (fSub md) (· - ·) ∧ four (.vmul d p q y) (fMul md) (· * ·) ∧
    four (.vmin d p q y) fMin less ∧ four (.vmax d p q y) fMax more ∧
    two (.vfma d p q x 0) = fFused md false false a b e ∧ two (.vfma d p q x 1) = fFused md false false a e b ∧
    vElement (.vfma d p q x 2) md xa xb [a, b, c] = fFused md false false a b c ∧
    one (.vabs d p 0) = plain (BitVec.ofNat 32 (a.toNat % 2 ^ 31)) ∧ one (.vabs d p 2) = plain (BitVec.ofNat 32 a.toInt.natAbs) ∧
    one (.vneg d p 0) = plain (BitVec.ofNat 32 (a.toNat + 2 ^ 31)) ∧ one (.vneg d p 2) = plain (-a) ∧
    one (.vcvt d p 0) = intToF md a.toInt ∧ one (.vcvt d p 1) = toI (fToInt md (-(2 ^ 31)) (2 ^ 31 - 1) a) ∧
    one (.vcvt d p 2) = intToF md a.toNat ∧ one (.vcvt d p 3) = toI (fToInt md 0 (2 ^ 32 - 1) a) ∧
    vElement (.vsel d p q x) md xa xb [a, b, c] = plain (if c ≠ 0 then a else b) ∧
    (∀ m, one (.vcmp d p 0 x y m) = vElement (.vcmp d p q x y m) md xa xb [a, k]) ∧
    (xa.getLsbD 0 = true → ∀ m, (two (.vcmp d p q x y m)).fl = 0) ∧
    (xa.getLsbD 0 = false →
      two (.vcmp d p q x y 0) = ⟨if (fEq a b).1 then 1 else 0, (fEq a b).2⟩ ∧ two (.vcmp d p q x y 1) = ⟨if (fLt a b).1 then 1 else 0, (fLt a b).2⟩ ∧
      two (.vcmp d p q x y 2) = ⟨if (fLe a b).1 then 1 else 0, (fLe a b).2⟩ ∧ two (.vcmp d p q x y 3) = ⟨if (fEq a b).1 then 0 else 1, (fEq a b).2⟩) ∧
    one (.vexp d p) = sfu .exp md a ∧ one (.vlog d p) = sfu .log md a ∧ one (.vrcp d p) = sfu .rcp md a ∧ one (.vrsq d p) = sfu .rsq md a ∧
    one (.vtanh d p) = sfu .tanh md a ∧ one (.vsigm d p) = sfu .sigm md a) ∧
  (∀ (md : Mode) (d p q : BitVec 3) (y : Reg) (op : BitVec 2) (xa xb : Word) (rows : List (List Word32)) (i : Instr) (n : Nat),
    let init : Word32 := xb.setWidth 32
    let as := rows.map (fun r => r.getD 0 0)
    let pairs := rows.map (fun r => (r.getD 0 0, r.getD 1 0))
    let f := fun (op : BitVec 2) => if op = 0 then fAdd md else if op = 1 then fMin else if op = 2 then fMax else fun a b => (⟨a + b, 0⟩ : FRes)
    let lanes := fun (z : Nat → Option FRes) => (List.range 192).filterMap z
    let fold := fun (g : FRes → FRes → FRes) (l : List FRes) => match l with | [] => none | v :: r => some (r.foldl g v)
    let dot := fun (l : List (Word32 × Word32)) => match l with
      | [] => none
      | v :: r => some (r.foldl (fun z w => ⟨(fFused md false false w.1 w.2 z.v).v, z.fl ||| (fFused md false false w.1 w.2 z.v).fl⟩) (fMul md v.1 v.2))
    let idot := fun (l : List (Word32 × Word32)) => fold (FRes.join (f 3)) (l.map (fun w => ⟨w.1 * w.2, 0⟩))
    let ends := fun (g : Word32 → Word32 → FRes) (z : List FRes) (out : List Word32 × BitVec 5) =>
      ∃ r, Combined (FRes.join g) z r ∧ out = ([(g init r.v).v], r.fl ||| (g init r.v).fl)
    let scan := vResult (.vscan d p y op) md xa xb rows
    let step := fun (e : Nat) => f op (if e = 0 then init else scan.1.getD (e - 1) 0) (as.getD e 0)
    (vReduces i = false → vScans i = false →
      (vResult i md xa xb rows).1 = rows.map (fun r => (vElement i md xa xb r).v) ∧
      ((vResult i md xa xb rows).2.getLsbD n = true ↔ ∃ r ∈ rows, (vElement i md xa xb r).fl.getLsbD n = true)) ∧
    (rows ≠ [] →
      ends (f op) (lanes (fun l => fold (FRes.join (f op)) ((laneElems as l).map (⟨·, 0⟩)))) (vResult (.vred d p y op) md xa xb rows) ∧
      ends (f 0) (lanes (fun l => dot (laneElems pairs l))) (vResult (.vdot d p q y 0) md xa xb rows) ∧
      ends (f 3) (lanes (fun l => idot (laneElems pairs l))) (vResult (.vdot d p q y 2) md xa xb rows)) ∧
    vResult (.vred d p y op) md xa xb [] = ([], 0) ∧ vResult (.vdot d p q y op) md xa xb [] = ([], 0) ∧
    scan.1.length = rows.length ∧ (∀ e, e < rows.length → scan.1[e]? = some (step e).v) ∧
    (scan.2.getLsbD n = true ↔ ∃ e, e < rows.length ∧ (step e).fl.getLsbD n = true)) ∧
  (∀ (md : Mode) (d p q : BitVec 3) (x y : Reg) (xa xb : Word) (a b : Word32),
    let k : Word32 := xb.setWidth 32
    let at2 := fun (i : Instr) => (vElement i md xa xb [a, b]).v
    let at1 := fun (i : Instr) => (vElement i md xa xb [a]).v
    at2 (.vadd d p q y 0) = (fAdd md a b).v ∧ at1 (.vadd d p 0 y 1) = (fAdd md a k).v ∧
    at2 (.vadd d p q y 2) = a + b ∧ at1 (.vadd d p 0 y 3) = a + k ∧
    at2 (.vsub d p q y 0) = (fSub md a b).v ∧ at1 (.vsub d p 0 y 3) = a - k ∧
    at2 (.vmul d p q y 0) = (fMul md a b).v ∧ at2 (.vmul d p q y 2) = a * b ∧
    at2 (.vmin d p q y 2) = BitVec.ofInt 32 (min a.toInt b.toInt) ∧ at2 (.vmax d p q y 2) = BitVec.ofInt 32 (max a.toInt b.toInt) ∧
    at2 (.vfma d p q x 0) = (fFused md false false a b (xa.setWidth 32)).v ∧
    at2 (.vfma d p q x 1) = (fFused md false false a (xa.setWidth 32) b).v ∧
    at1 (.vabs d p 0) = BitVec.ofNat 32 (a.toNat % 2 ^ 31) ∧ at1 (.vabs d p 2) = BitVec.ofNat 32 a.toInt.natAbs ∧
    at1 (.vneg d p 2) = -a ∧ (at1 (.vneg d p 0)).toNat = (a.toNat + 2 ^ 31) % 2 ^ 32 ∧
    at1 (.vcvt d p 0) = (intToF md a.toInt).v ∧ at1 (.vcvt d p 2) = (intToF md a.toNat).v ∧
    (∀ c : Word32, (vElement (.vsel d p q x) md xa xb [a, b, c]).v = if c ≠ 0 then a else b) ∧
    (xa.getLsbD 0 = true →
      at2 (.vcmp d p q x y 0) = (if a = b then 1 else 0) ∧ at2 (.vcmp d p q x y 1) = (if a.toInt < b.toInt then 1 else 0) ∧
      at2 (.vcmp d p q x y 2) = (if a.toInt ≤ b.toInt then 1 else 0) ∧ at2 (.vcmp d p q x y 3) = (if a ≠ b then 1 else 0)) ∧
    (∀ m, xa.getLsbD 0 = false → m ≠ 3 → at2 (.vcmp d p q x y m) =
      if (if m = 0 then (fEq a b).1 else if m = 1 then (fLt a b).1 else (fLe a b).1) then 1 else 0)) ∧
  (∀ (md : Mode) (d p q : BitVec 3) (y : Reg) (xa xb : Word) (rows : List (List Word32)),
    let init : Word32 := xb.setWidth 32
    let as := rows.map (fun r => r.getD 0 0)
    let bs := rows.map (fun r => r.getD 1 0)
    (rows ≠ [] → vResult (.vred d p y 3) md xa xb rows = ([init + as.sum], 0)) ∧
    (rows ≠ [] → vResult (.vdot d p q y 2) md xa xb rows = ([init + (List.zipWith (· * ·) as bs).sum], 0)) ∧
    vResult (.vscan d p y 3) md xa xb rows =
      ((List.range rows.length).map (fun n => init + (as.take (n + 1)).sum), 0) ∧
    vResult (.vred d p y 0) md xa xb [] = ([], 0) ∧
    (∀ a b c : Word32, (vResult (.vred d p y 0) md xa xb [[a], [b], [c]]).1 =
      [(fAdd md init (fAdd md (fAdd md a b).v c).v).v]))

/-- R199, R201, R208: MLEASE asks for n counted commands, 1 to 64, and sleeps in its cluster's queue. Any other n raises
ILLOP, and a thread that holds the lease ILLCFG, with TVAL the word.

R199 to R203, R209, R210: a free array grants the only request: the lease has its n, none issued or completed, both
codebooks and all accumulators 0, and the request completes. MFREE ends the lease once its commands have completed;
MWAIT goes on. The lease ends when 65,536 ungated cycles have passed, and not before. -/
def Obligations.Leases : Prop :=
  (∀ (s : State) (l : BitVec 4) (p : Params),
    let i := Instr.mlease l p
    let n := p.w0.toNat
    let cl := clusterOf s.curCore
    let holds := s.holdsLease s.curCore s.curSlot = true
    Issues i s →
    (n < 1 ∨ 64 < n → exec i s = .next (s.trapped cILLOP (i.word.setWidth 64))) ∧
    (1 ≤ n → n ≤ 64 → holds → exec i s = .next (s.trapped cILLCFG (i.word.setWidth 64))) ∧
    (1 ≤ n → n ≤ 64 → ¬holds → ∃ s1 : State, exec i s = .next (s.onward i s1) ∧ SameMemory s s1 ∧
      (s1.cluster cl).leaseQ = (s.cluster cl).leaseQ ++ [⟨⟨s.curCore, s.curSlot, s.nextId⟩, s.owner s.curCore, n⟩] ∧
      (s1.cluster cl).lease = (s.cluster cl).lease ∧
      ∃ q, s1.me.pend.getLast? = some q ∧ q.id = s.nextId ∧ q.ins = i ∧ q.phase = .asleep)) ∧
  (∀ (s : State) (p : Params) (cl : Nat) (q : LeaseReq),
    let k := s.cluster cl
    (k.lease = none → k.leaseQ = [q] → ∃ (s1 : State) (x : Lease), exec (.arrayLeaseGrant cl) s = .next s1 ∧
      (s1.cluster cl).lease = some x ∧ x.core = q.ref.core ∧ x.slot = q.ref.slot ∧ x.n = q.n ∧ x.issued = 0 ∧ x.completed = 0 ∧
      x.at_ = s.ungated ∧ (∀ d i, accRow (x.accAt d) i = List.replicate 480 0) ∧ x.cba = List.replicate 16 0 ∧
      x.cbb = List.replicate 16 0 ∧ (s1.cluster cl).leaseQ = [] ∧
      (∀ u, s.pending q.ref = some u → ∃ v, s1.pending q.ref = some v ∧ v.phase = .done {})) ∧
    (k.lease.isSome = true → exec (.arrayLeaseGrant cl) s = .next s) ∧
    (Issues (.mfree p) s →
      (s.holdsLease s.curCore s.curSlot = true → exec (.mfree p) s = .next (s.onward (.mfree p)
        (s.putCluster (clusterOf s.curCore) { s.cluster (clusterOf s.curCore) with lease := none }))) ∧
      (s.holdsLease s.curCore s.curSlot = false → exec (.mfree p) s = .next (s.onward (.mfree p) s))) ∧
    (Issues (.mwait p) s → exec (.mwait p) s = .next (s.onward (.mwait p) s)) ∧
    (∀ x, k.lease = some x →
      (s.ungated < x.at_ + 65536 → exec (.leaseTimeLimit cl) s = .next s) ∧
      (x.at_ + 65536 ≤ s.ungated → ∃ s1 : State, exec (.leaseTimeLimit cl) s = .next s1 ∧ (s1.cluster cl).lease = none)))

/-- R201, R204, R212 to R226: a counted command of the leaseholder that passes its checks joins the end of the array's
queue and counts against the lease: one more is issued, and an MLOADB that finds a place in the queue has completed. One
that reads memory comes behind the thread's own host stores (assumption 56). Without the lease, or with its n commands
issued, it raises LEASE with TVAL 0; a value out of its limits raises ILLOP first. -/
def Obligations.CountedCommandsIssue : Prop := ∀ (s : State) (d a b : Reg) (l : BitVec 4) (c : BitVec 1) (p : Params) (ta tb : Nat),
  let t := s.me
  let cl := clusterOf s.curCore
  let k := s.cluster cl
  let bad := fun (i : Instr) => exec i s = .next (s.trapped cLEASE 0)
  let ill := fun (i : Instr) => exec i s = .next (s.trapped cILLOP (i.word.setWidth 64))
  let joins := fun (i : Instr) => ∃ (s1 : State) (x : Cmd), exec i s = .next (s.onward i s1) ∧
    SameMemory (if readsMemory i then s.landAll t else s) s1 ∧
    (s1.cluster cl).cmds = k.cmds ++ [x] ∧ x.ins = i ∧ x.ref = ⟨s.curCore, s.curSlot, s.nextId⟩ ∧
    (∀ y, k.lease = some y →
      let z := { y with issued := y.issued + 1 }
      (i ≠ .mloadb a b l p ∨ 4 ≤ k.cmds.length → (s1.cluster cl).lease = some z) ∧
      (i = .mloadb a b l p → k.cmds.length < 4 →
        (s1.cluster cl).lease = if y.completed + 1 = y.n then none else some { z with completed := y.completed + 1 })) ∧
    s1.me.x = t.x ∧ s1.nextId = s.nextId + 1
  let fits := fun (i : Instr) (ok : Prop) =>
    Issues i s → (s.leaseFail = none → ok → joins i) ∧ (s.leaseFail ≠ none → ok → bad i)
  let limited := fun (i : Instr) (ok : Prop) (more : Prop) =>
    Issues i s → (s.leaseFail = none → ok → more → joins i) ∧ (s.leaseFail ≠ none → ok → bad i) ∧ (¬ok → ill i)
  let extent := fun (n al : Nat) (r : Reg) (ta : Nat) =>
    s.extentTa t { ea := t.rx r, n := n, align := al, sort := .record, r := true } false = .ok ta
  let M := p.w0.toNat
  let K := p.w1.toNat
  let bf := p.w2.toNat % 16
  let x := t.rx a
  let st := t.stream (x.toNat % 8)
  let free := fun (n m : Nat) => dir2Fail t n m = none
  let band := anvilFail (t.rx b) K bf = none
  fits (.mzero d a l p) True ∧
  limited (.mprog l p) (progOk [p.w0, p.w1, p.w2, p.w3] = true) True ∧
  limited (.mcb a l p) (M ≤ 1) (extent 32 8 a ta) ∧
  limited (.mloadb a b l p) (3 ≤ p.w2.toNat ∧ p.w2.toNat ≤ 9 ∧ K ≠ 0 ∧ p.w3.toNat % 8 = 0)
    (extent ((K - 1) * (if p.w3 = 0 then 60 * elemBits bf else p.w3.toNat) + 60 * elemBits bf) 8 a ta ∧
      (bf = 7 → extent (480 * ((K + 31) / 32)) 1 b tb) ∧ anvilFail (p.w0.setWidth 64) K bf = none) ∧
  limited (.mma d a b l c p)
    (1 ≤ M ∧ M ≤ 480 ∧ K ≠ 0 ∧ p.w2.toNat / 2 ^ 5 = 0 ∧ x.toNat < 8 ∧ 3 ≤ bf ∧ bf ≤ 9 ∧
      (st.configured = true → (pairGroup st.fmt bf).isSome = true))
    (free (x.toNat % 8) (M * K) ∧ band) ∧
  limited (.mmas d a b l c p)
    (1 ≤ M ∧ M ≤ 480 ∧ K ≠ 0 ∧ p.w2.toNat / 2 ^ 5 = 0 ∧ x.toNat < 128 ∧ x.getLsbD 3 = false ∧ 3 ≤ bf ∧ bf ≤ 9 ∧
      (st.configured = true → (pairGroup st.fmt bf).isSome = true ∧ st.fmt ≠ 7 ∧ st.fmt ≠ 8))
    (free (x.toNat % 8) p.w3.toNat ∧ free (x.toNat / 16 % 8) (M * K) ∧ (t.stream (x.toNat / 16 % 8)).fmt = 13 ∧ band) ∧
  limited (.mrec d a b l p)
    (1 ≤ M ∧ M ≤ 480 ∧ K ≠ 0 ∧ p.w2.toNat / 2 ^ 6 = 0 ∧ x.toNat < 8 ∧ (3 ≤ bf ∧ bf ≤ 6 ∨ bf = 9) ∧
      (st.configured = true → st.fmt ≠ 0 ∧ st.fmt ≠ 7 ∧ st.fmt ≠ 8))
    (free (x.toNat % 8) (M * K) ∧ band) ∧
  limited (.mocmp d a b l p)
    (1 ≤ M ∧ M ≤ 480 ∧ 1 ≤ K ∧ K ≤ 480 ∧ p.w2.toNat / 2 ^ 6 = 0 ∧ ¬(p.w2.getLsbD 3 = true ∧ p.w2.getLsbD 4 = true) ∧ (a = b → M = K))
    (free a.toNat M ∧ (a ≠ b → free b.toNat K)) ∧
  limited (.mepi d a b l p)
    (1 ≤ M ∧ M ≤ 480 ∧ p.w2.toNat / 2 ^ 7 = 0 ∧
      (if p.w2.getLsbD 4 then (bf = 9 ∨ bf = 11 ∨ bf = 12) ∧ p.w2.getLsbD 6 = false else 2 ≤ bf ∧ bf ≤ 7) ∧
      K % 4 = 0 ∧ 60 * elemBits bf ≤ K ∧ (bf = 7 → K = 240) ∧ (p.w2.getLsbD 6 = false → p.w3 = 0))
    (s.extentTa t { ea := x, n := epiBytes bf K M, align := 4, sort := .rawRecord, w := true } true = .ok ta ∧
      (b ≠ 0 → s.extentTa t { ea := t.rx b, n := 1920, align := 4, sort := .rawRecord, r := true } true = .ok tb)) ∧
  fits (.btand d a b l) True ∧ fits (.btor d a b l) True ∧ fits (.btxor d a b l) True ∧ fits (.btnot d a l) True ∧
  fits (.bttrn d a l) True ∧ fits (.btcomp d a b l) True ∧ fits (.btclo d a l c) True ∧
  limited (.btld d a l) True (extent 28800 8 a ta) ∧
  limited (.btst d a l) True (s.extentTa t { ea := x, n := 28800, align := 8, sort := .record, w := true } false = .ok ta) ∧
  limited (.btrc d a b l) (1 ≤ (t.rx b).toNat ∧ (t.rx b).toNat ≤ 480)
    (let u := t.stream d.toNat
     u.mark = none ∧ u.configured = true ∧ u.dir = 1 ∧ (u.fmt = 0 ∨ 9 ≤ u.fmt ∧ u.fmt ≤ 12) ∧
     (t.rx b).toNat + t.promised d.toNat ≤ u.remaining)

/-- R224: BTCLO gives the transitive closure of its tile, or with .r the reflexive-transitive one.

R52, R215: the integer product of MMA adds to each accumulator element the sum of its K products, modulo 2^32; rows
beyond M are kept. Of a floating-point pair an element takes its products in groups: each group's exact sum is added
with one rounding to nearest, and a NaN, 0 × ∞ or ∞ − ∞ gives the default NaN. Elements of A and B decode exactly.

R215, R216, R220: the array executes MMA and MMAS so on the elements it has read, those of MMAS where its bitmap is
set; a bitmap of another count than the stated length raises SPARSE_LEN late and changes no accumulator. MREC runs its
microprogram for each k in turn.

R221: MOCMP leaves the tile of its relation, and raises NV for a NaN in the IEEE mode.

R45, R47, R217: MEPI reads its rows, sets them to +0 with CLR, and is left with the words that it writes: scale and
bias applied and narrowed, the blocks of MXFP4 with their scales, and the counter of its saturation events last. A
bias vector is read doubleword by doubleword after the rows, in any order, and the image is made with the last of
them; a fault ends the transfer with nothing written (at what moments they are read is the model's choice, assumption
11). -/
def Obligations.TileAndMatrixResults : Prop :=
  (∀ (t : Tile) (i j : Nat), i < 480 → j < 480 →
    let step := fun (x y : Nat) => x < 480 ∧ y < 480 ∧ t.bit x y = true
    ((tileClosure false t).bit i j = true ↔ Relation.TransGen step i j) ∧
    ((tileClosure true t).bit i j = true ↔ i = j ∨ Relation.TransGen step i j)) ∧
  (∀ (s : State) (cl : Nat) (l : Lease) (d boff M K g : Nat) (a : Array (Option (Nat × Nat))),
    let new := mmaRows s cl l d 9 9 boff M K g a
    let old := l.accAt d
    let av := fun (i k : Nat) => match a.getD (i * K + k) none with | some x => (BitVec.ofNat 8 x.1).toInt | none => 0
    let bv := fun (k j : Nat) => (BitVec.ofNat 8 (s.read (anvilLoc cl j (boff + k)) 1)).toInt
    (∀ i j v, i < M → (accRow old i)[j]? = some v →
      (accRow new i)[j]? = some (v + BitVec.ofInt 32 (((List.range K).map (fun k => av i k * bv k j)).sum))) ∧
    (∀ i, M ≤ i → accRow new i = accRow old i)) ∧
  (∀ (s : State) (cl : Nat) (l : Lease) (d af bf boff M K g i j k w : Nat) (v : Word32) (a : Array (Option (Nat × Nat))),
    let new := mmaRows s cl l d af bf boff M K g a
    let product := fun (k : Nat) => (a.getD (i * K + k) none).map (fun x => mulFV (exactElem af (if af = 8 then l.cba else []) x.1 x.2)
      (exactElem bf (if bf = 8 then l.cbb else []) (s.bElem cl boff K bf k j).1 (s.bElem cl boff K bf k j).2))
    (af ≠ 9 → 1 ≤ g → i < M → (accRow (l.accAt d) i)[j]? = some v →
      ∃ sum : Nat → Word32, sum 0 = v ∧ (accRow new i)[j]? = some (sum ((K + g - 1) / g)) ∧
        ∀ q, q * g < K → sum (q + 1) = groupAdd (sum q) (((List.range K).filter (fun k => k / g == q)).filterMap product)) ∧
    (af ≠ 9 → M ≤ i → accRow new i = accRow (l.accAt d) i) ∧
    ((bf, w) ∈ [(3, 16), (4, 16), (5, 8), (6, 8), (7, 4), (8, 4), (9, 8)] →
      (s.bElem cl boff K bf k j).1 = s.read (anvilLoc cl j (boff + k * w / 8)) ((w + 7) / 8) / 2 ^ (k * w % 8) % 2 ^ w) ∧
    (s.bElem cl boff K 7 k j).2 = s.read (anvilLoc cl j (boff + 32 * ((K + 63) / 64) + k / 32)) 1) ∧
  (∀ (acc : Word32) (ps : List FV) (x y : FV) (fmt eb fb raw sc : Nat) (cb : List (BitVec 16)),
    let all := val32 acc :: ps
    let isNum := fun (v : FV) => ∃ s m e, v = .num s m e
    let nan := (∃ v ∈ all, v.isNaN = true) ∨ (FV.inf true ∈ all ∧ FV.inf false ∈ all)
    let exact := value32 acc + (ps.map valueFV).sum
    let zeros := ∀ v ∈ all, ∃ e, v = .num true 0 e
    (nan → groupAdd acc ps = 0x7FC00000#32) ∧
    (∀ b, ¬nan → FV.inf b ∈ all → groupAdd acc ps = if b then 0xFF800000#32 else 0x7F800000#32) ∧
    ((∀ v ∈ all, isNum v) → (∃ fl, RoundedOnce 0 (.of exact) ⟨groupAdd acc ps, fl⟩) ∧
      (exact = 0 → (zeros → groupAdd acc ps = 0x80000000#32) ∧ (¬zeros → groupAdd acc ps = 0))) ∧
    (isNum x → isNum y → isNum (mulFV x y) ∧ valueFV (mulFV x y) = valueFV x * valueFV y) ∧
    (x.isNaN = true ∨ y.isNaN = true ∨ (∃ s t e, x = .inf s ∧ y = .num t 0 e) ∨ (∃ s t e, x = .num t 0 e ∧ y = .inf s) →
      (mulFV x y).isNaN = true) ∧
    ((fmt, eb, fb) ∈ [(3, 8, 7), (4, 5, 10), (5, 4, 3), (6, 5, 2)] → raw < 2 ^ (1 + eb + fb) →
      raw / 2 ^ fb % 2 ^ eb ≠ 2 ^ eb - 1 ∨ (fmt = 5 ∧ raw % 128 ≠ 127) →
      let e := raw / 2 ^ fb % 2 ^ eb
      let m := raw % 2 ^ fb + if e = 0 then 0 else 2 ^ fb
      isNum (exactElem fmt cb raw sc) ∧ valueFV (exactElem fmt cb raw sc) =
        mkRat ((if 2 ^ (eb + fb) ≤ raw then -1 else 1) * (m * 2 ^ max e 1 : Nat)) (2 ^ (2 ^ (eb - 1) - 1 + fb))) ∧
    (raw < 16 → sc < 255 → isNum (exactElem 7 cb raw sc) ∧ valueFV (exactElem 7 cb raw sc) =
      mkRat ((if 8 ≤ raw then -1 else 1) * (([0, 1, 2, 3, 4, 6, 8, 12].getD (raw % 8) 0) * 2 ^ sc : Nat)) (2 ^ 128)) ∧
    exactElem 8 cb raw sc = exactElem 3 [] (cb.getD raw 0).toNat 0) ∧
  (∀ (int : Bool) (prog : List Word32) (s0 w x y z : Word32) (st : Word32 × Word32) (a : Array Word32) (b : Nat → Word32)
      (K rel mode i j : Nat),
    let one := fun (s t : Word32) (n : Nat) => [a.getD K 0, b K, s, t].getD (w.toNat / 2 ^ n % 4) 0
    let key := fun (v : Word32) => if mode = 0 then (if v.msb then -((v.toNat % 2 ^ 31 : Nat) : Int) else (v.toNat : Int))
      else if mode = 1 then (if v.msb then 2 ^ 32 - 1 - (v.toNat : Int) else (v.toNat : Int) + 2 ^ 31) else v.toInt
    let less := key x < key y
    let equal := key x = key y
    recur int prog s0 a b 0 = s0 ∧
    recur int prog s0 a b (K + 1) = (progRun int (a.getD K 0) (b K) prog (recur int prog s0 a b K, 0)).1 ∧
    progRun int (a.getD K 0) (b K) [] st = st ∧
    progRun int (a.getD K 0) (b K) (w :: prog) st = progRun int (a.getD K 0) (b K) prog
      (if w = 0xF then st
       else
         let v := progOp int (w.toNat % 16) (one st.1 st.2 4) (one st.1 st.2 6) (one st.1 st.2 8)
         if w.getLsbD 10 then (v, st.2) else (st.1, v)) ∧
    progOp int 5 x y z = x &&& y ∧ progOp int 6 x y z = x ||| y ∧ progOp int 7 x y z = (if z ≠ 0 then x else y) ∧
    progOp true 0 x y z = x + y ∧ progOp true 1 x y z = x - y ∧ progOp true 2 x y z = x * y ∧
    progOp true 3 x y z = BitVec.ofInt 32 (min x.toInt y.toInt) ∧ progOp true 4 x y z = BitVec.ofInt 32 (max x.toInt y.toInt) ∧
    (nan32 x ∨ nan32 y → ∀ n, n < 5 → progOp false n x y z = 0x7FC00000#32) ∧
    (¬nan32 (fAdd 0 x y).v → progOp false 0 x y z = (fAdd 0 x y).v) ∧ (¬nan32 (fSub 0 x y).v → progOp false 1 x y z = (fSub 0 x y).v) ∧
    (¬nan32 (fMul 0 x y).v → progOp false 2 x y z = (fMul 0 x y).v) ∧
    (mode < 3 → rel < 8 →
      (mode = 0 ∧ (nan32 x ∨ nan32 y) → (relHolds rel mode x y i j = true ↔ rel = 3)) ∧
      (¬(mode = 0 ∧ (nan32 x ∨ nan32 y)) → (relHolds rel mode x y i j = true ↔
        [less, less ∨ equal, equal, ¬equal, ¬less ∧ ¬equal, ¬less, less ∨ (equal ∧ i < j), (¬less ∧ ¬equal) ∨ (equal ∧ i < j)].getD rel
          False)))) ∧
  (∀ (s : State) (cl : Nat) (x : Lease) (c : Cmd) (q : Pending) (d a b : Reg) (l : BitVec 4) (k : BitVec 1) (p : Params),
    let M := p.w0.toNat % 512
    let K := p.w1.toNat
    let bf := p.w2.toNat % 16
    let boff := c.ops.b.toNat
    let go := exec (.arrayCommandComplete cl) s
    let elems := fun (l : Assoc ARead) => l.map (fun e => rawOf e.2)
    let words := fun (fmt : Nat) (cb : List (BitVec 16)) (l : Assoc ARead) => (elems l).map (fun e => decodeElem fmt cb e.2 e.1)
    let bits := (elems c.av).map (·.1)
    let ends := fun (f : State → Lease → Prop) => ∃ (s1 : State) (y : Lease) (u : Pending), go = .next s1 ∧ (s1.cluster cl).lease = some y ∧
      s1.pending c.ref = some u ∧ u.phase = .done {} ∧ f s1 y
    let mma := fun (a : List (Option (Nat × Nat))) =>
      mmaRows s cl x d.toNat c.ops.n bf boff M K ((pairGroup c.ops.n bf).getD 1) a.toArray
    s.gated = false → (s.cluster cl).lease = some x → (s.cluster cl).cmds = [c] → (s.cluster cl).xfers = [] →
    (s.cluster cl).engineReset = false → s.pending c.ref = some q → q.phase = .queued → x.completed + 1 < x.n → x.orphan = false →
    (c.consumed = true → readFault c.av = none → readFault c.bv = none → s.bFault cl c.vf boff K bf = none → d.toNat < 4 →
      (c.ins = .mma d a b l k p → ends (fun _ y => y.accAt d.toNat = mma ((elems c.av).map some))) ∧
      (c.ins = .mmas d a b l k p →
        (bits.sum = p.w3.toNat → ∃ v : List (Option (Nat × Nat)), ends (fun _ y => y.accAt d.toNat = mma v) ∧ v.length = bits.length ∧
          ∀ i n, bits[i]? = some n → v[i]? = some (if n = 0 then none else (elems c.bv)[((bits.take i).filter (· != 0)).length]?)) ∧
        (bits.sum ≠ p.w3.toNat → ∃ (s1 : State) (y : Lease) (u : Pending), go = .next s1 ∧ s1.pending c.ref = some u ∧
          u.phase = .fault cSPARSE (p.w3.setWidth 64) ∧ (s1.cluster cl).lease = some y ∧ y.acc = x.acc)) ∧
      (c.ins = .mrec d a b l p → ends (fun _ y =>
        (∀ i j v, i < M → (accRow (x.accAt d.toNat) i)[j]? = some v →
          (accRow (y.accAt d.toNat) i)[j]? = some (recur (p.w2.getLsbD 5) x.prog v
            (((words c.ops.n [] c.av).drop (i * K)).take K).toArray (fun k => decodeElem bf [] 0 (s.bElem cl boff K bf k j).1) K)) ∧
        ∀ i, M ≤ i → accRow (y.accAt d.toNat) i = accRow (x.accAt d.toNat) i))) ∧
    (c.consumed = true → readFault c.av = none → readFault c.bv = none → d.toNat < 8 → c.ins = .mocmp d a b l p →
      let P := words c.ops.n c.ops.cb c.av
      let Q := if a = b then P else words c.ops.ta (c.ops.got.map (fun e => e.d.setWidth 16)) c.bv
      let mode := if p.w2.getLsbD 3 then 1 else if p.w2.getLsbD 4 then 2 else 0
      ∃ (s1 : State) (u : Pending), go = .next s1 ∧ s1.pending c.ref = some u ∧
        ((mode = 0 ∧ ∃ v, v ∈ P ++ Q ∧ nan32 v) → u.phase = .done { flags := fNV }) ∧
        (¬(mode = 0 ∧ ∃ v, v ∈ P ++ Q ∧ nan32 v) → u.phase = .done {}) ∧
        ∀ i j, i < 480 → j < 480 → (((s1.core c.ref.core).tile d.toNat).bit i j = true ↔
          i < p.w0.toNat ∧ j < p.w1.toNat ∧ relHolds (p.w2.toNat % 8) mode (P.getD i 0) (Q.getD j 0) i j = true)) ∧
    (c.ins = .mepi d a b l p → d.toNat < 4 →
      let rows := (List.range M).map (accRow (x.accAt d.toNat))
      let out := epiImage bf K (p.w2.getLsbD 4) (if p.w2.getLsbD 6 then some p.w3 else none) none rows
      ends (fun s1 y => (∀ i, accRow (y.accAt d.toNat) i = if p.w2.getLsbD 5 = true ∧ i < M then List.replicate 480 0
          else accRow (x.accAt d.toNat) i) ∧
        ∃ t : Xfer, (s1.cluster cl).xfers = [t] ∧ t.status = none ∧ t.core = c.ref.core ∧ t.ins = c.ins ∧ t.ops = c.ops ∧ t.seq = c.seq ∧
          (b = 0 → t.bias = none ∧ t.img.flatten = out.1 ∧ t.events = out.2) ∧
          (b ≠ 0 → t.bias = some [] ∧ t.rows = rows ∧ t.img = [])))) ∧
  (∀ (s : State) (cl n j : Nat) (x : Xfer) (got : Assoc Word) (d a b : Reg) (l : BitVec 4) (p : Params) (v : Word) (code : Byte)
      (ea : Word) (bias : Option (List Word32)) (w : Word32),
    let s1 := s.oneMove cl x.id n
    let l' := aset got n v
    let o := x.ops.c.toNat % 8 + 4 * j
    let out := epiImage (p.w2.toNat % 2 ^ 4) p.w1.toNat (p.w2.getLsbD 4) (if p.w2.getLsbD 6 then some p.w3 else none) bias x.rows
    x.ins = .mepi d a b l p →
    ((s.cluster cl).xfers = [x] → x.bias = some got → n < x.biasDws → alook got n = none →
      (s.biasDw x n = .error none → s1 = s) ∧
      (s.biasDw x n = .error (some (code, ea)) → SameMemory s s1 ∧
        (s1.cluster cl).xfers = [{ x with rows := [], bias := none, status := some (code, ea) }]) ∧
      (s.biasDw x n = .ok v → SameMemory s s1 ∧
        (l'.length < x.biasDws → (s1.cluster cl).xfers = [{ x with bias := some l' }]) ∧
        (x.biasDws ≤ l'.length → (s1.cluster cl).xfers = [x.imaged (some (x.biasWords l'))]))) ∧
    (x.biasWords got).length = 480 ∧
    (j < 480 → alook got (o / 8) = some v → (x.biasWords got)[j]? = some w → w.toNat = v.toNat / 2 ^ (8 * (o % 8)) % 2 ^ 32) ∧
    (x.imaged bias).img.flatten = out.1 ∧ (x.imaged bias).events = out.2 ∧ (x.imaged bias).bias = none ∧
    (x.imaged bias).status = x.status) ∧
  (∀ (ofmt stride i j b : Nat) (iacc : Bool) (scl : Option Word32) (bias : Option (List Word32)) (rows : List (List Word32)) (r : List Word32)
      (k c v : Word32),
    let w := elemBits ofmt
    let out := epiImage ofmt stride iacc scl bias rows
    let stored := fun (off bit width code : Nat) => ∃ W, (off + 4 * (bit / 32), W) ∈ out.1 ∧ W / 2 ^ (bit % 32) % 2 ^ width = code % 2 ^ width
    let bj := fun (j : Nat) => bias.map (fun l => l.getD j 0)
    let value := fun (j : Nat) (v : Word32) => epiValue scl (bj j) v
    let blk := (List.range 32).map (fun n => value (32 * b + n) (r.getD (32 * b + n) 0))
    let bound : Int := if ofmt = 9 then 2 ^ 7 else if ofmt = 11 then 2 ^ 15 else 2 ^ 31
    let sum : Int := v.toInt + match bj j with | some b => b.toInt | none => 0
    (∀ r ∈ rows, r.length = 480) → rows[i]? = some r →
    (r[j]? = some v →
      (ofmt = 9 ∨ ofmt = 11 ∨ ofmt = 12 → iacc = true → stored (i * stride) (j * w) w (BitVec.ofInt w (max (-bound) (min sum (bound - 1)))).toNat) ∧
      (2 ≤ ofmt ∧ ofmt ≤ 6 → iacc = false → stored (i * stride) (j * w) w (encodeElem ofmt 0 [] 0 (value j v)).raw) ∧
      (ofmt = 7 → stored (i * stride) (j * 4) 4 (mxCode (mxScale ((List.range 32).map (fun n =>
        value (j / 32 * 32 + n) (r.getD (j / 32 * 32 + n) 0)))).1 (value j v)).1)) ∧
    (ofmt = 7 → b < 15 → stored (240 * rows.length) (8 * (15 * i + b)) 8 (mxScale blk).1) ∧
    (∃ n, out.1.getLast? = some (n, out.2) ∧
      (ofmt ≠ 7 → n = (rows.length - 1) * stride + 60 * w) ∧ (ofmt = 7 → n = 240 * rows.length + (15 * rows.length + 3) / 4 * 4)) ∧
    out.2 < 2 ^ 32 ∧
    epiValue none none v = v ∧ epiValue (some k) none v = (fMul 0 v k).v ∧ epiValue none (some c) v = (fAdd 0 v c).v ∧
    epiValue (some k) (some c) v = (fFused 0 false false v k c).v ∧
    (encodeElem 2 0 [] 0 v).raw = v.toNat ∧
    ((∃ v ∈ blk, nan32 v) → mxScale blk = (255, 0)) ∧
    ((∀ v ∈ blk, ¬nan32 v) → (∀ v ∈ blk, v.toNat % 2 ^ 31 = 0 ∨ v.toNat % 2 ^ 31 = 0x7F800000) → mxScale blk = (127, 0)) ∧
    ((∀ v ∈ blk, ¬nan32 v) → v ∈ blk → finite32 v → 2 ^ 24 ≤ v.toNat % 2 ^ 31 →
      (∀ y ∈ blk, finite32 y → y.toNat % 2 ^ 31 ≤ v.toNat % 2 ^ 31) → mxScale blk = (v.toNat % 2 ^ 31 / 2 ^ 23 - 2, 0)))

/-- R204, R213, R218, R222, R224, R354: unless the rotation is gated, the array finishes the command at the head of its
queue: MZERO fills the accumulator, MPROG replaces the microprogram, and the tile operations act on whole tiles of the
issuing core. A poisoned source tile raises POISON late, with TVAL 0 (assumption 11).

R205, R211, R217: the last write of an MEPI, or the last move of an MLOADB that has nothing left to move, ends the
transfer, and its completion message, kind 10H with its function and sequence number, is posted to the core that
issued it. In a gated rotation nothing of this happens (R354). -/
def Obligations.ArrayCommandsExecute : Prop :=
  (∀ (s : State) (cl : Nat) (x : Lease) (c : Cmd) (q : Pending) (d a b : Reg) (l : BitVec 4)
      (p : Params),
    let k := s.cluster cl
    let go := exec (.arrayCommandComplete cl) s
    let tile := fun (n : Reg) => (s.core c.ref.core).tile n.toNat
    let finished := fun (s1 : State) => go = .next s1 ∧ (s1.cluster cl).cmds = [] ∧
      (∃ u, s1.pending c.ref = some u ∧ u.phase = .done {}) ∧ SameMemory s s1
    let makes := fun (f : Nat → Nat → Prop) => ∃ s1 : State, finished s1 ∧
      ∀ i j, i < 480 → j < 480 → ((((s1.core c.ref.core).tile d.toNat).bit i j = true) ↔ f i j)
    s.gated = false → k.lease = some x → k.cmds = [c] → k.xfers = [] → k.engineReset = false → s.pending c.ref = some q → q.phase = .queued →
    x.completed + 1 < x.n → x.orphan = false → d.toNat < 8 →
    (d.toNat < 4 → c.ins = .mzero d a l p → ∃ (s1 : State) (y : Lease), finished s1 ∧ (s1.cluster cl).lease = some y ∧
      y.completed = x.completed + 1 ∧ ∀ i, i < 480 → accRow (y.accAt d.toNat) i = List.replicate 480 (c.ops.a.setWidth 32)) ∧
    (c.ins = .mprog l p → ∃ (s1 : State) (y : Lease), finished s1 ∧ (s1.cluster cl).lease = some y ∧
      y.prog = [p.w0, p.w1, p.w2, p.w3]) ∧
    ((tile a).poison = false → (tile b).poison = false →
      (c.ins = .btand d a b l → makes (fun i j => (tile a).bit i j = true ∧ (tile b).bit i j = true)) ∧
      (c.ins = .btor d a b l → makes (fun i j => (tile a).bit i j = true ∨ (tile b).bit i j = true)) ∧
      (c.ins = .btxor d a b l → makes (fun i j => (tile a).bit i j ≠ (tile b).bit i j)) ∧
      (c.ins = .btnot d a l → makes (fun i j => (tile a).bit i j = false)) ∧
      (c.ins = .bttrn d a l → makes (fun i j => (tile a).bit j i = true)) ∧
      (c.ins = .btcomp d a b l → makes (fun i j => ∃ n, n < 480 ∧ (tile a).bit i n = true ∧ (tile b).bit n j = true))) ∧
    ((tile a).poison = true → c.ins = .btnot d a l → ∃ s1 : State, go = .next s1 ∧ (s1.cluster cl).cmds = [] ∧
      ∃ u, s1.pending c.ref = some u ∧ u.phase = .fault cPOISON 0)) ∧
  (∀ (s : State) (cl id : Nat) (x : Xfer) (c : Cmd) (rest : List Cmd) (d a b : Reg) (l : BitVec 4) (p : Params),
    let room := (s.core x.core).inbox.length < 1024 ∧ (s.core x.core).hwHeld = [] ∧ (s.core x.core).dqWaiters = [] ∧
      s.quadDown x.core = false
    let word0 := fun (f : Nat) => BitVec.ofNat 64 (0x10 + 256 * f + 2 ^ 16 * x.seq)
    (s.gated = true → exec (.mepiWritesDone cl id) s = .next s ∧ exec (.mloadbTransferDone cl id) s = .next s ∧
      exec (.arrayOperandsConsumed cl) s = .next s ∧ exec (.arrayCommandComplete cl) s = .next s) ∧
    (s.gated = false → s.xfer cl id = some x → room →
    ((x.ins = .mepi d a b l p → x.img = [] → x.bias = none → x.status = none → ∃ s1 : State, exec (.mepiWritesDone cl id) s = .next s1 ∧
      (s1.cluster cl).xfers = (s.cluster cl).xfers.filter (fun y => y.id != x.id) ∧ SameMemory s s1 ∧
      (s1.core x.core).inbox = (s.core x.core).inbox ++
        [.ofWords (word0 7) 0 (BitVec.ofNat 64 (x.events % 2 ^ 32)) (BitVec.ofNat 64 s.cycle)]) ∧
    (x.ins = .mloadb a b l p → (∀ n, n < (loadMoves p).1 + (loadMoves p).2 → n ∈ x.moved) →
      ∃ s1 : State, exec (.mloadbTransferDone cl id) s = .next s1 ∧
      (s1.cluster cl).xfers = (s.cluster cl).xfers.filter (fun y => y.id != x.id) ∧ SameMemory s s1 ∧
      (s1.core x.core).inbox = (s.core x.core).inbox ++ [.ofWords (word0 2) 0 0 (BitVec.ofNat 64 s.cycle)]) ∧
    (s.readCmd c ≠ none → (s.cluster cl).cmds = c :: rest → c.consumed = false → c.reads ≠ [] → (∀ q, s.pending c.ref = some q → q.phase = .queued) →
      ∃ (s1 : State) (c1 : Cmd), exec (.arrayOperandsConsumed cl) s = .next s1 ∧ (s1.cluster cl).cmds = c1 :: rest ∧ c1.consumed = true ∧
        c1.ins = c.ins ∧ c1.ref = c.ref))))

/-! ## Banks and messages -/

/-- R128: the operations of a FIFO, a STACK and a HIST bank on their contents. An empty one answers EMPTY, a full one
FULL, and neither then changes anything; a key of no bin answers ABSENT.

R128, R132: HEAP gives the entry of the least key over all members, of the lowest member of several and there the
earliest, and takes an insert in the member with the fewest entries among those with room, the lowest of several. MAP
finds a key from its home member on in ring order, and puts one that is absent in the first member with room; a store
of code 1 leaves a key that is there as it is. ABSENT and FULL change nothing.

R130, R134, R139: when the lock of a BANKCFG ends, the bank is empty with the personality and capacity of the word,
its bytes are 0, and BANKCFG completes with the word that was in force. A sleeper outside the waiter table is offered
again every 64 cycles: in those that are multiples of 64 (the model's choice, assumption 57). -/
def Obligations.BanksAndPersonalities : Prop :=
  (∀ (st : Store) (key : Nat) (v : Word) (e : Entry) (r : List Entry),
    let n : Entry := ⟨v, false⟩
    let loads := fun (k : Nat) => (st.load key k).map (fun x => (x.bs, x.datum, (x.st.getD st).seq))
    let stores := fun (k : Nat) => (st.store key k v).map (fun x => (x.bs, (x.st.getD st).seq))
    (st.kind = 1 →
      (st.seq = [] → loads 0 = some (bsEMPTY, none, []) ∧ loads 1 = some (bsEMPTY, none, [])) ∧
      (st.seq = e :: r → loads 0 = some (bsOK, some e, r) ∧ loads 1 = some (bsOK, some e, e :: r)) ∧
      (st.seq.length < st.cap → stores 0 = some (bsOK, st.seq ++ [n])) ∧
      (st.cap ≤ st.seq.length → stores 0 = some (bsFULL, st.seq)) ∧
      loads 2 = some (bsOK, some ⟨BitVec.ofNat 64 st.seq.length, false⟩, st.seq)) ∧
    (st.kind = 2 →
      (st.seq = [] → loads 0 = some (bsEMPTY, none, []) ∧ loads 1 = some (bsEMPTY, none, []) ∧ loads 3 = some (bsEMPTY, none, [])) ∧
      (st.seq = e :: r → loads 0 = some (bsOK, some e, r) ∧ loads 3 = some (bsOK, some e, e :: r)) ∧
      (st.seq = r ++ [e] → loads 1 = some (bsOK, some e, r)) ∧
      (st.seq.length < st.cap → stores 0 = some (bsOK, n :: st.seq) ∧ stores 1 = some (bsOK, st.seq ++ [n])) ∧
      (st.cap ≤ st.seq.length → stores 0 = some (bsFULL, st.seq) ∧ stores 1 = some (bsFULL, st.seq))) ∧
    (st.kind = 5 →
      (st.bins[key]? = some ⟨e.d, false⟩ →
        (st.store key 0 v).map (fun x => (x.bs, (x.st.getD st).bins)) = some (bsOK, st.bins.set key ⟨e.d + v, false⟩) ∧
        (st.store key 1 v).map (fun x => (x.bs, (x.st.getD st).bins)) = some (bsOK, st.bins.set key n) ∧
        (st.store key 2 v).map (fun x => (x.bs, (x.st.getD st).bins)) =
          some (bsOK, st.bins.set key ⟨if e.d.toNat < v.toNat then v else e.d, false⟩) ∧
        (st.load key 0).map (fun x => (x.bs, x.datum, (x.st.getD st).bins)) = some (bsOK, some ⟨e.d, false⟩, st.bins) ∧
        (st.load key 1).map (fun x => (x.bs, x.datum, (x.st.getD st).bins)) = some (bsOK, some ⟨e.d, false⟩, st.bins.set key ⟨0, false⟩)) ∧
      (st.bins[key]? = none → (st.load key 0).map (·.bs) = some bsABSENT ∧ (st.store key 0 v).map (·.bs) = some bsABSENT))) ∧
  (∀ (st : Store) (key m room : Nat) (v : Word) (old : Entry) (l : List (Nat × Entry)),
    let e : Entry := ⟨v, false⟩
    let loads := fun (code : Nat) => (st.load key code).map (fun x => (x.bs, x.datum, (x.st.getD st).parts))
    let stores := fun (code : Nat) => (st.store key code v).map (fun x => (x.bs, (x.st.getD st).parts))
    let total := (st.parts.map (fun p => p.2.length)).sum
    let hkey := fun (e : Entry) => e.d.toNat / 2 ^ 32
    let entry := fun (m r : Nat) (e : Entry) => ∃ n l, st.parts[m]? = some (n, l) ∧ (r, e) ∈ l
    let first := fun (m r : Nat) (e : Entry) => entry m r e ∧ ∀ m2 r2 e2, entry m2 r2 e2 → hkey e ≤ hkey e2 ∧
      (hkey e = hkey e2 → m < m2 ∨ (m = m2 ∧ r ≤ r2))
    let ring := fun (i : Nat) => (key * 0x9E37 % 2 ^ 16 % st.parts.length + i) % st.parts.length
    let nowhere := ∀ i, i < st.parts.length → ∀ n l, st.parts[ring i]? = some (n, l) → alook l key = none
    (st.kind = 3 →
      (total = 0 → loads 0 = some (bsEMPTY, none, st.parts) ∧ loads 1 = some (bsEMPTY, none, st.parts)) ∧
      (total ≠ 0 → ∃ m r e n l, first m r e ∧ st.parts[m]? = some (n, l) ∧ loads 1 = some (bsOK, some e, st.parts) ∧
        loads 0 = some (bsOK, some e, st.parts.set m (n, adel l r))) ∧
      (st.cap ≤ total → stores 0 = some (bsFULL, st.parts)) ∧
      (total < st.cap → st.parts[m]? = some (room, l) → l.length < room →
        (∀ m2 room2 l2, st.parts[m2]? = some (room2, l2) → l2.length < room2 → l.length ≤ l2.length ∧ (l.length = l2.length → m ≤ m2)) →
        stores 0 = some (bsOK, st.parts.set m (room, aset l st.rank e)) ∧ (st.store key 0 v).map (fun x => (x.st.getD st).rank) = some (st.rank + 1))) ∧
    (st.kind = 4 →
      (nowhere → loads 0 = some (bsABSENT, none, st.parts) ∧ loads 1 = some (bsABSENT, none, st.parts) ∧
        (st.cap ≤ total → stores 0 = some (bsFULL, st.parts) ∧ stores 1 = some (bsFULL, st.parts)) ∧
        (∀ i, total < st.cap → i < st.parts.length → st.parts[ring i]? = some (room, l) → l.length < room →
          (∀ j n l2, j < i → st.parts[ring j]? = some (n, l2) → n ≤ l2.length) →
          stores 0 = some (bsOK, st.parts.set (ring i) (room, aset l key e)) ∧ stores 1 = stores 0)) ∧
      (∀ i, i < st.parts.length → st.parts[ring i]? = some (room, l) → alook l key = some old →
        (∀ j n l2, j < i → st.parts[ring j]? = some (n, l2) → alook l2 key = none) →
        loads 0 = some (bsOK, some old, st.parts) ∧ loads 1 = some (bsOK, some old, st.parts.set (ring i) (room, adel l key)) ∧
        stores 0 = some (bsOK, st.parts.set (ring i) (room, aset l key e)) ∧ stores 1 = some (bsOK, st.parts))) ∧
    (st.kind = 3 ∨ st.kind = 4 → loads 2 = some (bsOK, some ⟨BitVec.ofNat 64 total, false⟩, st.parts))) ∧
  (∀ (s : State) (c b : Nat) (r : Ref) (p : Pending) (d a e : Reg) (l : BitVec 4), b < 8 →
    let k := s.bank c b
    (k.locked = some r → k.held = [] → s.pending r = some p → p.ins = .bankcfg d a e l 0 →
      ∃ s1 : State, exec (.bankConversionDone c b) s = .next s1 ∧
        (s1.bank c b).pers = Pers.empty (p.ops.b.toNat / 2 ^ 16 % 8) (p.ops.b.toNat % 2 ^ 16) ∧
        (s1.bank c b).cap = p.ops.b.toNat % 2 ^ 16 ∧ (s1.bank c b).locked = none ∧
        (∀ o, o < 0x8000 → s1.mem.byte (bankLoc c b o) = Config.unwritten) ∧
        (∀ q, q < bankLoc c b 0 ∨ bankLoc c b 0x8000 ≤ q → s1.mem.byte q = s.mem.byte q) ∧
        ∃ q, s1.pending r = some q ∧ q.phase = .done { x := [(d, p.ops.a)], bs := some bsOK }) ∧
    (k.locked = none → exec (.bankConversionDone c b) s = .next s) ∧
    (s.cycle % 64 ≠ 0 ∨ k.retriers = [] → exec (.waiterRetry c b) s = .next s) ∧
    (∀ q s', k.retriers = [q] → s.trySleeper q = some s' → s.cycle % 64 = 0 →
      exec (.waiterRetry c b) s = .next ((s'.modBank c b (fun k => { k with retriers := k.retriers.filter (· != q) })).serveBank c b)))

/-- R140, R154, R155: SEND's record is enqueued at its target core if the inbox has room, and otherwise reports FULL. DQ
takes the oldest message, its first doubleword to x[rd]; with none it reports EMPTY and 0, or sleeps under .W. A
message that the hardware holds enters when there is room and its quad is not being reset (assumption 29). -/
def Obligations.MessagesPass : Prop := ∀ (s : State) (r : Ref) (p : Pending) (d a : Reg) (l : BitVec 4) (w : BitVec 1) (c : Nat) (m : Msg)
    (ms : List Msg), s.pending r = some p →
  let x := s.core c
  (s.bankReady r p = true → p.ins = .send d a l → p.ops.stage = 1 → p.ops.a = BitVec.ofNat 64 (s.pkg.toNat * 2048 + c) → c < 2048 →
    s.owner c = s.owner r.core → s.coreOut c = false → clusterOf c = clusterOf r.core → x.dqWaiters = [] →
    (x.inbox.length < 1024 → ∃ s1 : State, atBank s r = .next s1 ∧ (s1.core c).inbox = x.inbox ++ [Msg.ofEntries p.ops.got] ∧
      ∃ q, s1.pending r = some q ∧ q.phase = .done { bs := some bsOK }) ∧
    (1024 ≤ x.inbox.length → atBank s r = .next (s.finish r { bs := some bsFULL }))) ∧
  (s.bankReady r p = true → p.ins = .dq d 0 l w → p.ops.stage = 0 → c = r.core →
    (x.inbox = m :: ms → m.d0.poison = false → ∃ s1 : State, atBank s r = .next s1 ∧ (s1.core c).inbox = ms ∧
      ∃ q, s1.pending r = some q ∧ q.phase = .done { x := [(d, m.d0.d)], bs := some bsOK }) ∧
    (x.inbox = [] → w = 0 → atBank s r = .next (s.finish r { x := [(d, 0)], bs := some bsEMPTY })) ∧
    (x.inbox = [] → w = 1 → ∃ s1 : State, atBank s r = .next s1 ∧ (s1.core c).dqWaiters = x.dqWaiters ++ [r] ∧
      ∃ q, s1.pending r = some q ∧ q.phase = .asleep)) ∧
  (x.hwHeld = m :: ms → x.dqWaiters = [] →
    (s.quadDown c = true → exec (.hwMessageDeliver c) s = .next s) ∧
    (s.quadDown c = false → x.inbox.length < 1024 → ∃ s1 : State, exec (.hwMessageDeliver c) s = .next s1 ∧ (s1.core c).inbox = x.inbox ++ [m] ∧
      (s1.core c).hwHeld = ms) ∧
    (1024 ≤ x.inbox.length → exec (.hwMessageDeliver c) s = .next s))

/-! ## Launches, gangs and scheduling -/

/-- R230 to R233, R279: a LAUNCH with x[rb] = 0 is recorded in a free entry of its die's table, the lowest (the model's
choice, assumption 57), with the thread's own segments and the next generation of that entry; x[rd] receives the handle
and BS is OK. With no entry free x[rd] is 0 and BS is FULL. A word out of its limits raises ILLOP and a thread that is not
the control thread PRIV, in that order; a W3 that names another tenant's launch is BADWIN late. A traced one takes the
object that its thread has armed, or ends at once with STATUS ILLCFG where none is armed or the object runs or is too
small. With x[rb] other than 0 the table's place is checked at issue, and the access that reads it leaves. -/
def Obligations.LaunchRecorded : Prop := ∀ (s : State) (d a b : Reg) (l : BitVec 4) (p : Params),
  let i := Instr.launch d a b l p
  let t := s.me
  let n := s.curCore / 512
  let gang := p.w2.toNat % 2 ^ 5
  let ok := p.w0.toNat % 4 = 0 ∧ 1 ≤ gang ∧ gang ≤ 16 ∧ p.w2.toNat / 2 ^ 5 % 8 = 0 ∧ p.w2.getLsbD 11 = false ∧ p.w2.toNat / 2 ^ 14 % 4 = 0 ∧
    p.w2.toNat / 2 ^ 29 = 0
  Issues i s →
  (¬ok → exec i s = .next (s.trapped cILLOP (i.word.setWidth 64))) ∧
  (ok → s.curSlot ≠ 0 ∨ t.mig = true → exec i s = .next (s.trapped cPRIV (i.word.setWidth 64))) ∧
  let vf := s.owner s.curCore
  let traced := p.w2.getLsbD 12 = true
  let foreign := p.w3 ≠ 0 ∧ ∃ v, v ≠ vf ∧ (s.named p.w3 = .active v ∨ ∃ st, s.named p.w3 = .ended v st)
  let unfit := ∀ o x, t.armed = some o → o ≠ 0 → alook s.traces o = some x → x.vf ≠ vf ∨ x.cap < p.w1.toNat ∨ x.running = true
  (ok → s.curSlot = 0 → t.mig = false → t.rx b ≠ 0 →
    (∀ tr, s.readTarget t { ea := t.rx b, n := 128, align := 16, sort := .record, r := true } = .error tr → exec i s = .next (s.trapped tr.1 tr.2)) ∧
    (∀ o, s.readTarget t { ea := t.rx b, n := 128, align := 16, sort := .record, r := true } = .ok o → ¬traced →
      Launched i s s { core := s.curCore, sys := t.sys, a := t.rx a, ea := t.rx b, n := 128, ta := o.ta, tgt := o.tgt, here := o.here }
        true false .flight)) ∧
  (ok → s.curSlot = 0 → t.mig = false → t.rx b = 0 → foreign → ∃ (s1 : State) (q : Pending), exec i s = .next (s.onward i s1) ∧
    SameMemory s s1 ∧ s1.dies = s.dies ∧ s1.me.pend.getLast? = some q ∧ q.phase = .fault cBADWIN (p.w3.setWidth 64)) ∧
  (ok → s.curSlot = 0 → t.mig = false → t.rx b = 0 → ¬foreign →
    (∀ e, (s.die n).freeEntry = some e → ∃ (s1 : State) (x : Launch) (q : Pending), exec i s = .next (s.onward i s1) ∧
      let gen := if (alook (s.die n).gens e).getD 0 = 2 ^ 22 - 1 then 1 else (alook (s.die n).gens e).getD 0 + 1
      x.handle = BitVec.ofNat 32 (n * 2 ^ 30 + e * 2 ^ 22 + gen) ∧ alook (s1.die n).launches e = some x ∧ x.vf = s.owner s.curCore ∧
      x.segs = t.g ∧ x.p = p ∧ x.arg = t.rx a ∧ x.inbox = .core s.curCore ∧ x.level = p.w2.toNat / 2 ^ 8 % 8 ∧ x.next = 0 ∧
      (¬traced → x.trace = none ∧ x.dead = false) ∧
      (traced → s1.me.armed = none ∧ (unfit → x.trace = none ∧ x.dead = true ∧ x.status = 0x10) ∧
        (¬unfit → x.dead = false ∧ ∃ o y, t.armed = some o ∧ x.trace = some o ∧ alook s1.traces o = some y ∧ y.running = true ∧ y.recs = [] ∧
          ∃ z, y.bound = some z ∧ z.p = p ∧ z.arg = t.rx a ∧ z.segs = t.g)) ∧
      s1.me.pend.getLast? = some q ∧ q.phase = .done { x := [(d, x.handle.setWidth 64)], bs := some bsOK } ∧
      SameMemory s s1) ∧
    ((s.die n).freeEntry = none → ∃ (s1 : State) (q : Pending), exec i s = .next (s.onward i s1) ∧ s1.dies = s.dies ∧
      s1.me.pend.getLast? = some q ∧ q.phase = .done { x := [(d, 0)], bs := some bsFULL }))

/-- R236, R245, R246: START begins a helper in an Idle slot 1 to 10 that is not held and not kept for a member that
has been saved: at x[rb], with x1 to x5 as the block received them, x6 its slot, the thread's segments, rounding mode
and tag, LIVE at its reset value, all else 0; BS is OK. Otherwise BS is FULL. REAP goes on if the slot is so, and
sleeps if not. Any other slot raises ILLCFG with TVAL the operand, and a START or REAP that is not the control
thread's PRIV. A slot from which a member of the gang has been saved is Swapped out (R93): that START finds it taken,
and that REAP waits for the member to come back and end, is assumption 22.

R95, R247: YIELD takes its thread out of rotation until the cycle after its next own position of the wheel; it then
re-enters, not before. -/
def Obligations.HelpersYieldAndWake : Prop :=
  (∀ (s : State) (a b : Reg), s.curSlot < 16 →
    let t := s.me
    let k := (t.rx a).toNat
    let u := s.thr s.curCore k
    let i := Instr.start a b
    let j := Instr.reap a
    let free := u.st = .idle ∧ u.held = false ∧ s.keptSlot s.curCore k t.tag = false
    (s.curSlot ≠ 0 ∨ t.mig = true → Refuses i s cPRIV (i.word.setWidth 64)) ∧
    (Issues i s →
      (k < 1 ∨ 10 < k → exec i s = .next (s.trapped cILLCFG (t.rx a))) ∧
      (1 ≤ k → k ≤ 10 → free → k ≠ s.curSlot → ∃ s1 : State, exec i s = .next (s.onward i s1) ∧
        s1.me = { t with bs := bsOK } ∧ (s1.thr s.curCore k).st = .run ∧ (s1.thr s.curCore k).pc = t.rx b ∧
        (∀ q : Fin 32, (s1.thr s.curCore k).x[q] =
          if h : 1 ≤ q.val ∧ q.val ≤ 5 then t.args[q.val - 1]'(by omega) else if q = 6 then BitVec.ofNat 64 k else 0) ∧
        (s1.thr s.curCore k).g = t.g ∧ (s1.thr s.curCore k).fcsr = BitVec.ofNat 64 (t.fcsr.toNat / 2 ^ 5 % 8 * 2 ^ 5) ∧
        (s1.thr s.curCore k).tag = t.tag ∧ (s1.thr s.curCore k).sys = false ∧ (s1.thr s.curCore k).bs = bsOK ∧
        (∀ q : Reg, (s1.thr s.curCore k).rf q = 0) ∧ (s1.thr s.curCore k).ovfc = 0 ∧ (s1.thr s.curCore k).mxsb = 0 ∧
        (s1.thr s.curCore k).cbk = Vector.replicate 16 0 ∧ (s1.thr s.curCore k).live = ~~~(1 : Word) ∧
        (∀ n, ((s1.thr s.curCore k).stream n).configured = false) ∧ SameMemory s s1) ∧
      (1 ≤ k → k ≤ 10 → ¬free → exec i s = .next (s.onward i (s.putMe { t with bs := bsFULL })))) ∧
    (Issues j s → s.curSlot = 0 → t.mig = false →
      (k < 1 ∨ 10 < k → exec j s = .next (s.trapped cILLCFG (t.rx a))) ∧
      (1 ≤ k → k ≤ 10 → free → exec j s = .next (s.onward j s)) ∧
      (1 ≤ k → k ≤ 10 → ¬free → Launched j s s { core := s.curCore, n := k } false false .asleep)) ∧
    (Issues j s → s.curSlot ≠ 0 ∨ t.mig = true → exec j s = .next (s.trapped cPRIV (j.word.setWidth 64)))) ∧
  (∀ (s : State) (c k n : Nat), s.curSlot < 16 →
    (Issues .yield s → ∃ m, s.cycle < m ∧ m ≤ s.cycle + 16 ∧ m % 16 = s.curSlot ∧
      exec .yield s = .next (s.onward .yield (s.putMe { s.me with yieldUntil := some (m + 1) }))) ∧
    ((s.thr c k).yieldUntil = some n →
      (n ≤ s.cycle → exec (.yieldWake c k) s = .next (s.putThr c k { s.thr c k with yieldUntil := none })) ∧
      (s.cycle < n → exec (.yieldWake c k) s = .next s)))

/-- R201, R239, R241, R248: EXIT of a thread outside virtual time that is not away from its gang core gives its lease
back and ends it: its slot is Idle and not held, and the gang counts slot 0's core as given up. While slot 0 has
others of its core to wait for, it is queued instead.

R249: BAR arrives at its barrier and sleeps; the arrival that makes the count releases all of them, goes on itself,
and leaves the barrier idle. A count that differs from the barrier's, and one below 1 or above 16 threads a core of
the gang, raises ILLCFG with TVAL the operand; a BAR of a thread that is no member of a gang raises it with TVAL the
word. The last two come before the wait for earlier accesses. -/
def Obligations.ExitAndBarriers : Prop :=
  (∀ (s : State), Issues .exit s → s.curSlot < 16 → s.me.tm = false →
    (s.me.member = true → s.me.homeSlot = 0 → s.me.mig = false) →
    let cl := clusterOf s.curCore
    (s.exitMay s.curCore s.curSlot = false → ∃ (s1 : State) (q : Pending), exec .exit s = .next (s.onward .exit s1) ∧
      (s.holdsLease s.curCore s.curSlot = true → (s1.cluster cl).lease = none) ∧ s1.me.pend = [q] ∧ q.ins = .exit ∧ q.phase = .queued ∧
      s1.me.st = s.me.st ∧ SameMemory s s1) ∧
    (s.exitMay s.curCore s.curSlot = true → ∃ s1 : State, exec .exit s = .next s1 ∧ s1.me.st = .idle ∧ s1.me.held = false ∧ s1.me.pend = [] ∧
      (s.holdsLease s.curCore s.curSlot = true → (s1.cluster cl).lease = none) ∧
      (s.holdsLease s.curCore s.curSlot = false → (s1.cluster cl).lease = (s.cluster cl).lease) ∧
      (s.me.member = true → s.curSlot = 0 → ∀ g ∈ (s.cluster cl).gangs, g.handle = s.me.tag.handle → g.block = s.me.tag.block →
        ∃ g1 ∈ (s1.cluster cl).gangs, g1.handle = g.handle ∧ g1.block = g.block ∧ g1.quads = g.quads ∧ g1.gone = g.gone ++ [s.curCore]) ∧
      SameMemory s s1)) ∧
  (∀ (s : State) (a : Reg) (n : BitVec 3) (g : Gang),
    let i := Instr.bar a n
    let t := s.me
    let cl := clusterOf t.home
    let old := alook g.bars n.toNat
    let here := (old.map (·.arrived)).getD []
    let r : Ref := ⟨s.curCore, s.curSlot, s.nextId⟩
    (t.member = false ∨ s.gang cl t.tag = none → Refuses i s cILLCFG (i.word.setWidth 64)) ∧
    (t.member = true → s.gang cl t.tag = some g → (t.rx a).toNat < 1 ∨ 16 * (4 * g.quads.length) < (t.rx a).toNat →
      Refuses i s cILLCFG (t.rx a)) ∧
    (Issues i s → s.gang cl t.tag = some g →
    (∀ o, old = some o → o.count ≠ (t.rx a).toNat → exec i s = .next (s.trapped cILLCFG (t.rx a))) ∧
    ((∀ o, old = some o → o.count = (t.rx a).toNat) →
      (here.length + 1 = (t.rx a).toNat → exec i s = .next (s.onward i
        ((here.foldl (fun s r => s.modPendAny r (fun p => { p with phase := .done {} })) s).modGang cl t.tag
          (fun g => { g with bars := adel g.bars n.toNat })))) ∧
      (here.length + 1 ≠ (t.rx a).toNat → exec i s = .next (s.onward i
        ((s.fly i { core := s.curCore } false false .asleep).modGang cl t.tag
          (fun g => { g with bars := aset g.bars n.toNat ⟨(t.rx a).toNat, here ++ [r]⟩ })))))))

/-- R236, R250: SPAWN reads its record, and at a core of the tenant with a free guest slot starts a child there: pc,
x1 to x3 from the record, x4 the parent's core, the segments and the rounding mode that the parent had at SPAWN, its
tag, and all other registers 0; BS is OK, or FULL with no slot free. A target with a bit above the 16 of a core's
number raises BADWIN with TVAL the operand, before any wait. -/
def Obligations.SpawnStartsChild : Prop := ∀ (s : State) (r : Ref) (p : Pending) (d a : Reg) (l : BitVec 4) (c : Nat),
  (2 ^ 16 ≤ (s.me.rx d).toNat → Refuses (.spawn d a l) s cBADWIN (s.me.rx d)) ∧
  (s.badTarget (s.me.rx d) = false →
    Accesses (.spawn d a l) s { ea := s.me.rx a, n := 32, align := 32, sort := .record, r := true }
      (fun o => { o with a := s.me.rx d, c := BitVec.ofNat 64 (s.me.fcsr.toNat / 2 ^ 5 % 8 * 2 ^ 5), segs := s.me.g.toList })) ∧
  (s.pending r = some p → s.bankReady r p = true → p.ins = .spawn d a l → p.ops.stage = 1 → (∀ e ∈ p.ops.got, e.poison = false) →
    p.ops.a = BitVec.ofNat 64 (s.pkg.toNat * 2048 + c) → c < 2048 → s.owner c = s.owner r.core → s.coreOut c = false →
    clusterOf c = clusterOf r.core →
    (∀ k, (s.core c).freeGuest = some k → ∃ s1 : State, atBank s r = .next s1 ∧ (s1.thr c k).st = .run ∧
      (s1.thr c k).pc = (p.ops.got.getD 0 ⟨0, false⟩).d ∧ (s1.thr c k).rx 1 = (p.ops.got.getD 1 ⟨0, false⟩).d ∧
      (s1.thr c k).rx 2 = (p.ops.got.getD 2 ⟨0, false⟩).d ∧ (s1.thr c k).rx 3 = (p.ops.got.getD 3 ⟨0, false⟩).d ∧
      (s1.thr c k).rx 4 = BitVec.ofNat 64 (s.pkg.toNat * 2048 + r.core) ∧ (s1.thr c k).tag = (s.thr r.core r.slot).tag ∧
      (∀ q : Reg, 4 < q.toNat → (s1.thr c k).rx q = 0) ∧ (∀ q : Reg, (s1.thr c k).rf q = 0) ∧ (s1.thr c k).fcsr = p.ops.c ∧
      (p.ops.segs.length = 8 → (s1.thr c k).g.toList = p.ops.segs) ∧ (s1.thr c k).sys = false ∧
      ((c, k) ≠ (r.core, r.slot) → ∃ q, s1.pending r = some q ∧ q.phase = .done { bs := some bsOK })) ∧
    ((s.core c).freeGuest = none → atBank s r = .next (s.finish r { bs := some bsFULL })))

/-- R234, R235: of the launches whose next block waits, whose W3 is satisfied and which a gang that is out does not bar,
the first in dispatch order that fits is placed: the higher level first, then the earlier entry. It takes the free
quads of lowest number of the lowest cluster that has enough and is not reserved for another, unless a gang was taken
out for it elsewhere (assumptions 21 and 22).

R235, R236: the dispatcher starts the next block of that launch: slot 0 of every core of its quads starts at the launch's entry with x1 the block, x2
the core's index in the gang, x3 the gang's cores, x4 the
argument, x5 the handle, and the launch's segments.

R234, R235: a launch that has waited 2^20 ungated cycles for a block to start rises one level, up to 7, and at level 7
reserves the cluster where its tenant has the most free quads, the lowest-numbered of several such, if it has quads in
any that is in service; before that nothing happens. A launch whose W3 is not satisfied has no block waiting
(assumption 21). -/
def Obligations.DispatchOfBlocks : Prop :=
  (∀ (s : State) (die b cl : Nat) (l : Launch) (qs : List Nat),
    s.place die = some (l, b, cl, qs) → qs.Nodup → ∃ s1 : State, exec (.dispatchBlockPlace die) s = .next s1 ∧
    (∀ n i q, qs[n]? = some q → i < 4 →
      let t := s1.thr (4 * q + i) 0
      t.st = .run ∧ t.pc = l.p.w0.setWidth 64 ∧ t.rx 1 = BitVec.ofNat 64 b ∧ t.rx 2 = BitVec.ofNat 64 (4 * n + i) ∧
      t.rx 3 = BitVec.ofNat 64 (4 * (l.p.w2.toNat % 2 ^ 5)) ∧ t.rx 4 = l.arg ∧ t.rx 5 = l.handle.setWidth 64 ∧ t.rx 6 = 0 ∧ t.g = l.segs ∧
      t.fcsr = 0 ∧ t.sys = false ∧ t.tag = ⟨l.handle, BitVec.ofNat 32 b⟩) ∧
    (∃ g ∈ (s1.cluster cl).gangs, g.handle = l.handle ∧ g.block = BitVec.ofNat 32 b ∧ g.quads = qs ∧ g.started = s.cycle) ∧
    SameMemory s s1) ∧
  (∀ (s : State) (die : Nat),
    let there := fun (l : Launch) => ∃ e, (e, l) ∈ (s.die die).launches
    let due := fun (l : Launch) => there l ∧ l.waiting.isSome = true ∧ s.depOf l = .ready ∧ s.levelOpen die l = true
    let gang := fun (l : Launch) => l.p.w2.toNat % 2 ^ 5
    (∀ l b cl qs, s.place die = some (l, b, cl, qs) →
      due l ∧ l.waiting = some b ∧ cl ∈ clustersOf die ∧ qs = (s.freeQuads cl l.vf l.handle).take (gang l) ∧ qs.length = gang l ∧
      (s.freeQuads cl l.vf l.handle).Pairwise (· < ·) ∧ s.reservedFor cl l.handle = false ∧
      (∀ q ∈ qs, q / 16 = cl ∧ s.quadOwner q = l.vf ∧ q ∉ (s.cluster cl).resetting ∧ (s.cluster cl).out = false ∧
        ∀ g ∈ (s.cluster cl).gangs, g.out = none ∨ g.restoring ≠ none → q ∉ g.quads) ∧
      (s.claimed die l.handle = none → ∀ c ∈ clustersOf die, c < cl →
        (s.freeQuads c l.vf l.handle).length < gang l ∨ s.reservedFor c l.handle = true) ∧
      ∀ l2, due l2 → l.level < l2.level ∨ (l.level = l2.level ∧ l2.entered < l.entered) → s.placement die l2 = none) ∧
    (∀ l, due l → s.claimed die l.handle = none → (∃ c ∈ clustersOf die, gang l ≤ (s.freeQuads c l.vf l.handle).length ∧
      s.reservedFor c l.handle = false) → s.place die ≠ none)) ∧
  (∀ (s : State) (die e : Nat) (l : Launch),
    alook (s.die die).launches e = some l → s.launchOf l.handle = some l →
    (s.ungated < l.since + 2 ^ 20 ∨ s.depOf l ≠ .ready →
      exec (.launchPromotion die e) s = .next s ∧ exec (.launchReserve die e) s = .next s) ∧
    (l.since + 2 ^ 20 ≤ s.ungated → l.waiting.isSome = true → s.depOf l = .ready →
      (l.level < 7 → ∃ s1 : State, exec (.launchPromotion die e) s = .next s1 ∧
        s1.launchOf l.handle = some { l with level := l.level + 1, entered := s.nextId, since := s.ungated }) ∧
      (l.level = 7 → l.reserve = none →
        exec (.launchPromotion die e) s = .next s ∧
        ∃ (s1 : State) (x : Option Nat), exec (.launchReserve die e) s = .next s1 ∧
          s1.launchOf l.handle = some { l with reserve := x } ∧
          (x = none → ∀ c ∈ clustersOf die, (s.cluster c).out = false → s.owned c l.vf = 0) ∧
          ∀ c, x = some c → c ∈ clustersOf die ∧ (s.cluster c).out = false ∧ 0 < s.owned c l.vf ∧
            ∀ c2 ∈ clustersOf die, (s.cluster c2).out = false → 0 < s.owned c2 l.vf →
              (s.freeQuads c2 l.vf l.handle).length ≤ (s.freeQuads c l.vf l.handle).length ∧
              ((s.freeQuads c2 l.vf l.handle).length = (s.freeQuads c l.vf l.handle).length → c ≤ c2))))

/-- R239, R240: a block whose cores have all given up their parts and of which no thread is left completes: the gang gives
up its quads. A launch that ends posts kind 20H with its STATUS, its handle and its counts, and frees its entry. To a core that
has passed to another virtual function it posts nothing, since no inbox of the launch's tenant is left there (the
model's choice, assumption 29). -/
def Obligations.BlocksAndLaunchesComplete : Prop := ∀ (s : State) (h b die e cl c : Nat) (g : Gang) (l : Launch) (st : Word32),
  let tag : Tag := ⟨BitVec.ofNat 32 h, BitVec.ofNat 32 b⟩
  (s.gangIn (handleDie tag.handle) tag = some (cl, g) →
    (s.blockOver g = true → ∃ s1 : State, exec (.blockComplete h b) s = .next s1 ∧
      (∀ x ∈ (s1.cluster cl).gangs, x.handle ≠ tag.handle ∨ x.block ≠ tag.block) ∧
      (s.launchOf tag.handle = some l → s1.launchOf tag.handle = some { l with done := l.done + 1 })) ∧
    (s.blockOver g = false → exec (.blockComplete h b) s = .next s)) ∧
  (alook (s.die die).launches e = some l → l.inbox = .core c → l.trace = none → handleDie l.handle = die → handleEntry l.handle = e →
    (s.launchEnds die l = some st → s.owner c ≠ l.vf → ∃ s1 : State, exec (.launchComplete die e) s = .next s1 ∧
      alook (s1.die die).launches e = none ∧ s1.core c = s.core c) ∧
    (s.launchEnds die l = some st → s.owner c = l.vf → s.quadDown c = false → (s.core c).inbox.length < 1024 → (s.core c).hwHeld = [] → (s.core c).dqWaiters = [] →
      ∃ s1 : State, exec (.launchComplete die e) s = .next s1 ∧ alook (s1.die die).launches e = none ∧
        (s1.core c).inbox = (s.core c).inbox ++ [.ofWords (BitVec.ofNat 64 (st.toNat * 2 ^ 32 + 0x20)) (l.handle.setWidth 64)
          (BitVec.ofNat 64 (l.abandoned * 2 ^ 32 + l.done)) (BitVec.ofNat 64 s.cycle)]) ∧
    (s.launchEnds die l = none → exec (.launchComplete die e) s = .next s))

/-- R251 to R253, R255: for a launch that fits nowhere, the dispatcher asks slot 15 of every core of the victim to save
each member into an entry of its own; the victim is restored into the slots it left once the launch it made way for
has started and its quads are free, and then goes on whole; its deadline does nothing before 65,536 ungated cycles, and
then takes out a gang that holds its quads, whatever its level. The victim is a candidate as R251 lists them, and none is
better: fewest quads, then the lowest level, then the latest start. A failed transfer sets TCCERR. That the victim's quads
stay with the launch it made way for until that has started or is gone or the deadline passes, that ungated cycles are
counted, and that a holder is taken out whether or not entries are free, are the model's choice (assumption 22). -/
def Obligations.PreemptionAndRestore : Prop := ∀ (s : State) (die v cl : Nat) (l : Launch) (g : Gang) (ms : List (Nat × Nat × Nat)) (t0 : Nat) (code : Byte) (ta : Word),
  (s.strayed die = none → s.joined die = none → s.emptied die = none → s.headLaunch die = some l → s.victimFor die l = some (cl, g) → s.memberEntries g = ms →
    (∀ m ∈ ms, (s.thr m.1 m.2.1).held = false) →
    ∃ s1 : State, exec (.preempt die) s = .next s1 ∧ ∀ m ∈ ms, { kind := 1, slot := m.2.1, entry := m.2.2 : SvcReq } ∈ (s1.core m.1).svc) ∧
  (let level := fun (x : Gang) => ((s.launchOf x.handle).map (·.level)).getD 0
   let mayGo := fun (c : Nat) (x : Gang) => c ∈ clustersOf die ∧ x ∈ (s.cluster c).gangs ∧
     (∃ y, s.launchOf x.handle = some y ∧ y.vf = l.vf ∧ y.level < l.level) ∧
     x.out = none ∧ x.saving = none ∧ x.restoring = none ∧ x.nopre = false ∧ x.banks &&& BitVec.ofNat 13 (l.p.w2.toNat / 2 ^ 16) = 0 ∧
     l.p.w2.toNat % 2 ^ 5 ≤ x.quads.length + (s.freeQuads c l.vf l.handle).length ∧ s.reservedFor c l.handle = false ∧
     ∀ n ∈ x.cores, 0 < tccCount (s.core n).tccCtl ∧ ((s.core n).membersOf x).length ≤ (s.core n).freeEntries.length
   (s.victimFor die l = some (cl, g) → mayGo cl g ∧ ∀ c x, mayGo c x → g.quads.length ≤ x.quads.length ∧
     (g.quads.length = x.quads.length → level g ≤ level x ∧ (level g = level x → x.started ≤ g.started))) ∧
   (∀ c x, mayGo c x → s.victimFor die l ≠ none)) ∧
  (s.strayed die = none → s.joined die = none → s.emptied die = none → s.headLaunch die = none → exec (.preempt die) s = .next s) ∧
  (s.victim v = some (cl, g) → g.out = some (ms, t0) →
    (g.restoring = none → s.mayRestore cl g ms = true → ∃ s1 : State, exec (.victimRestore v) s = .next s1 ∧
      ∀ m ∈ ms, { kind := 2, slot := m.2.1, entry := m.2.2 : SvcReq } ∈ (s1.core m.1).svc) ∧
    (s.mayRestore cl g ms = true ↔ (∀ x, g.claim = some x → x = g.handle ∨ s.launchOf x = none) ∧
      (∀ x ∈ (s.cluster cl).gangs, x.out = none ∨ x.restoring ≠ none → ∀ q ∈ g.quads, q ∉ x.quads) ∧
      ∀ m ∈ ms, (s.core m.1).free m.2.1 = true) ∧
    (g.restoring = none → s.mayRestore cl g ms = false → exec (.victimRestore v) s = .next s) ∧
    (g.restoring = some ms → (∀ m ∈ ms, (s.thr m.1 m.2.1).frozen = true) → ∃ s1 : State, exec (.victimRestore v) s = .next s1 ∧
      ∀ m ∈ ms, (s1.thr m.1 m.2.1).frozen = false) ∧
    (s.ungated < t0 + 65536 → exec (.restoreDeadline v) s = .next s) ∧
    (t0 + 65536 ≤ s.ungated → g.restoring = none →
      let s0 := s.modGang cl ⟨g.handle, g.block⟩ (fun x => { x with claim := none })
      (s0.holderOf cl g = none → exec (.restoreDeadline v) s = .next s0) ∧
      (∀ x, s0.holderOf cl g = some x → (∀ m ∈ s0.memberEntries x, (s0.thr m.1 m.2.1).held = false) →
        ∃ s1 : State, exec (.restoreDeadline v) s = .next s1 ∧
          ∀ m ∈ s0.memberEntries x, { kind := 1, slot := m.2.1, entry := m.2.2 : SvcReq } ∈ (s1.core m.1).svc) ∧
      (let held := fun (x : Gang) => x ∈ (s0.cluster cl).gangs ∧ x.out = none ∧ x.saving = none ∧ x.restoring = none ∧ ∃ q ∈ g.quads, q ∈ x.quads
       (∀ x, s0.holderOf cl g = some x → held x) ∧ ((∃ x, held x) → s0.holderOf cl g ≠ none)))) ∧
  (∃ s1 : State, exec (.tccTransferFail cl code ta) s = .next s1 ∧
    (s1.core cl).tccErr = BitVec.ofNat 64 (2 ^ 63 + code.toNat * 2 ^ 52 + ta.toNat % 2 ^ 52) ∧
    s1.reports = s.reports ++ [⟨cl, 15, code.setWidth 64, 0, ta⟩])

/-! ## Engines, tables and traces -/

/-- R257, R262, R263, R265, R274: a post whose checks pass is put in flight with its operands and the thread's eight
segment registers. A value out of its limits raises ILLOP, overlapping rows and an undefined table ILLCFG, with TVAL
the word, before any extent is checked. -/
def Obligations.EnginePostsIssue : Prop := ∀ (s : State) (d a b : Reg) (l : BitVec 4) (p : Params),
  let t := s.me
  let x := t.rx a
  let n := p.w0.toNat
  let posts := fun (i : Instr) (o : Operands) =>
    Launched i s s { o with core := s.curCore, sys := t.sys, segs := t.g.toList } false false .queued
  let ill := fun (i : Instr) (c : Byte) => exec i s = .next (s.trapped c (i.word.setWidth 64))
  let rows := p.w1.toNat % 2 ^ 16
  let copyFits := n % 8 = 0 ∧ 8 ≤ n ∧ n ≤ 2 ^ 31 ∧ rows ≠ 0 ∧ p.w1.toNat / 2 ^ 27 = 0 ∧ p.w2.toNat % 8 = 0 ∧ p.w3.toNat % 8 = 0
  let overlap := copyOverlaps t.g.toList x (t.rx b) p
  let table := s.tableOf (s.owner s.curCore) n
  let rowsFit := fun (i : Instr) (w : Bool) (ok : Prop) =>
    let fits := n < 64 ∧ 1 ≤ p.w1.toNat ∧ p.w1.toNat ≤ 4096 ∧ p.w3.toNat % 8 = 0 ∧ ok
    Issues i s →
      (¬fits → ill i cILLOP) ∧ (fits → table = none → ill i cILLCFG) ∧
      (∀ tb ta, fits → table = some tb → (p.w3 ≠ 0 → tb.rowBytes ≤ p.w3.toNat) →
        s.engineTa t x (8 + p.w1.toNat * (if p.w2.getLsbD 0 then 2 else 1)) 8 false = .ok ta →
        (∀ k, k < p.w1.toNat → ∃ y, s.stripedTa t
          (t.rx b + BitVec.ofNat 64 (k * if p.w3 = 0 then tb.rowBytes else p.w3.toNat)) tb.rowBytes w = .ok y) →
        posts i { ea := x, ta := segTa t.g.toList x, b := t.rx b })
  (Issues (.copy a b l p) s →
    (¬copyFits → ill (.copy a b l p) cILLOP) ∧ (copyFits → overlap = true → ill (.copy a b l p) cILLCFG) ∧
    (copyFits → overlap = false →
      (∀ q, q < rows → ∃ y, s.engineTa t (x + p.w2.signExtend 64 * BitVec.ofNat 64 q) n 8 false = .ok y) →
      (∀ q, q < rows → ∃ y, (if p.w1.getLsbD 16 then s.stripedTa t (t.rx b + p.w3.signExtend 64 * BitVec.ofNat 64 q) n true
        else s.engineTa t (t.rx b + p.w3.signExtend 64 * BitVec.ofNat 64 q) n 8 true) = .ok y) →
      posts (.copy a b l p) { ea := x, b := t.rx b })) ∧
  rowsFit (.gath a b l p) true (p.w2.toNat / 2 ^ 14 = 0 ∧ p.w2.toNat / 2 % 4 = 0) ∧
  rowsFit (.scat a b l p) false (p.w2.toNat / 2 ^ 3 = 0) ∧
  (Issues (.rmig d a b l p) s →
    (64 ≤ n → ill (.rmig d a b l p) cILLOP) ∧ (n < 64 → table = none → ill (.rmig d a b l p) cILLCFG) ∧
    (∀ tb, n < 64 → table = some tb →
      (x = 0 → posts (.rmig d a b l p) { ea := 0, ta := 0, b := t.rx b }) ∧
      (∀ ta, x ≠ 0 → s.engineTa t x tb.rowBytes 8 true = .ok ta → taOnChip ta = false →
        posts (.rmig d a b l p) { ea := x, ta := ta, b := t.rx b })))

/-- R257 to R261, R263, R267, R270: an engine accepts a post while fewer than 64 wait, and the post then completes for its
thread; it runs at most eight, which are not counted among those that wait (the model's choice, assumption 13). A post that
has moved everything, or has stopped, leaves the engine and its message, kind 30H with FUNC, STATUS, ADDR and COUNT, is
posted: COUNT is the rows that were moved whole. In a gated rotation it neither starts nor ends. -/
def Obligations.EnginePostsRun : Prop := ∀ (s : State) (r : Ref) (p : Pending) (cl die group : Nat) (a b : Reg) (l : BitVec 4)
    (w : Params) (x : Post) (entry : Word),
  let home := clusterOf r.core
  let q := s.cluster home
  let k := s.cluster cl
  let accept := exec (.enginePostAccept r.core r.slot r.id) s
  let d := s.die die
  (s.pending r = some p → p.phase = .queued → p.ins = .copy a b l w →
    (∀ y ∈ (s.thr r.core r.slot).pend, y.id < r.id → y.phase ≠ .queued) →
    (64 ≤ q.engineQ.length ∨ q.engineReset = true → accept = .next s) ∧
    (q.engineQ.length < 64 → q.engineReset = false → w.w1.getLsbD 16 = false → ∃ (s1 : State) (y : Post), accept = .next s1 ∧
      (s1.cluster home).engineQ = q.engineQ ++ [y] ∧ y.id = r.id ∧ y.ins = p.ins ∧ y.ops = p.ops ∧ y.core = r.core ∧ y.clusters = none ∧
      ∃ u, s1.pending r = some u ∧ u.phase = .done {}) ∧
    (q.engineQ.length < 64 → q.engineReset = false → w.w1.getLsbD 16 = true →
      let g := w.w1.toNat / 2 ^ 17 % 2 ^ 10
      (mcgValid ((alook s.mcgroups g).getD 0) (s.owner r.core) = false → accept = .next (s.lateFail r cMCGRP (BitVec.ofNat 64 g))))) ∧
  (s.gated = true → exec (.enginePostStart cl) s = .next s ∧ exec (.enginePostComplete cl x.id) s = .next s) ∧
  (k.engineQ = [x] → k.engineReset = false → s.gated = false →
    (k.engineRun.length < 8 → ∃ s1 : State, exec (.enginePostStart cl) s = .next s1 ∧ (s1.cluster cl).engineQ = [] ∧
      (s1.cluster cl).engineRun = k.engineRun ++ [x]) ∧
    (8 ≤ k.engineRun.length → exec (.enginePostStart cl) s = .next s)) ∧
  (s.gated = false → k.engineRun = [x] → x.ins = .copy a b l w → 8 ≤ w.w0.toNat → (∀ m, m < x.total → m ∈ x.moved) →
    (s.core x.core).inbox.length < 1024 → (s.core x.core).hwHeld = [] → (s.core x.core).dqWaiters = [] →
    s.quadDown x.core = false →
    ∃ s1 : State, exec (.enginePostComplete cl x.id) s = .next s1 ∧ (s1.cluster cl).engineRun = [] ∧ SameMemory s s1 ∧
      (s1.core x.core).inbox = (s.core x.core).inbox ++ [.ofWords
        (BitVec.ofNat 64 ((x.status.getD (0, 0)).1 * 2 ^ 32 + 0x30)) (x.status.getD (0, 0)).2
        (BitVec.ofNat 64 (w.w1.toNat % 2 ^ 16)) (BitVec.ofNat 64 s.cycle)]) ∧
  (s.gated = false → k.engineRun = [x] → x.ins = .copy a b l w → 8 ≤ w.w0.toNat → x.stopped = true → x.table = none →
    (s.core x.core).inbox.length < 1024 → (s.core x.core).hwHeld = [] → (s.core x.core).dqWaiters = [] →
    s.quadDown x.core = false →
    let n := w.w0.toNat / 8
    let whole := (List.range (w.w1.toNat % 2 ^ 16)).filter (fun row => (List.range n).all (fun i => x.moved.contains (row * n + i)))
    ∃ s1 : State, exec (.enginePostComplete cl x.id) s = .next s1 ∧ (s1.cluster cl).engineRun = [] ∧ SameMemory s s1 ∧
      (s1.core x.core).inbox = (s.core x.core).inbox ++ [.ofWords
        (BitVec.ofNat 64 ((x.status.getD (0, 0)).1 * 2 ^ 32 + 0x30)) (x.status.getD (0, 0)).2
        (BitVec.ofNat 64 whole.length) (BitVec.ofNat 64 s.cycle)]) ∧
  (∀ o n : Word, scatNew 0 o n = n ∧ scatNew 3 o n = o + n ∧
    scatNew 1 o n = (fAdd 0 (o.extractLsb' 32 32) (n.extractLsb' 32 32)).v ++ (fAdd 0 (o.extractLsb' 0 32) (n.extractLsb' 0 32)).v) ∧
  (2 ^ 20 ≤ d.lookups → exec (.rowCacheAge die) s = .next (s.putDie die
    { d with lookups := d.lookups - 2 ^ 20, lines := d.lines.map (fun x => (x.1, x.2.1, x.2.2.1, x.2.2.2 / 2)) })) ∧
  (d.lookups < 2 ^ 20 → exec (.rowCacheAge die) s = .next s) ∧
  (group < 1024 → entry.toNat / 2 ^ 50 % 2 ^ 13 = 0 → entry.toNat / 2 ^ 32 % 2 ^ 9 = 0 →
    exec (.mcgroupLoad group entry) s = .next { s with mcgroups := aset s.mcgroups group entry })

/-- R268, R271 to R273: TBLSET reads its 64-byte descriptor before anything issues under its cover: a bad one raises ILLOP
exactly, a good one defines the table unless a post on it is unfinished (BUSY), and the table's base before is given;
TBLSW gives a table its new base and version; SHSTAT reads a counter of a shard, and clears it with RESET. That TBLSET
covers what follows it, and that TBLSW tests its limits before the table, in R262's order and not that of R272's
pseudocode, is the model's choice (assumption 35). -/
def Obligations.DirectoryInstructions : Prop := ∀ (s : State) (r : Ref) (q : Pending) (d a : Reg) (l : BitVec 4) (p : Params),
  let t := s.me
  let n := p.w0.toNat
  let x := t.rx a
  let vf := s.owner s.curCore
  let ill := fun (i : Instr) (c : Byte) => exec i s = .next (s.trapped c (i.word.setWidth 64))
  let owner := s.owner q.ops.core
  let answer := fun (v : Nat) (b : BitVec 3) => ({ x := [(d, BitVec.ofNat 64 v)], bs := some b } : Result)
  (∀ c0 c1 c2 c3 c4 c5 c6 c7 : Word, descTable [c0, c1, c2, c3, c4, c5, c6, c7] =
    { base := c0.toNat % 2 ^ 52, shStride := c1.toNat % 2 ^ 52, rows := c2.toNat % 2 ^ 40, rowBytes := c3.toNat % 2 ^ 16
      shards := c3.toNat / 2 ^ 16 % 2 ^ 4 + 1, version := c4.setWidth 32 }) ∧
  (Issues (.tblset d a l p) s →
    (64 ≤ n → ill (.tblset d a l p) cILLOP) ∧
    (∀ ta, n < 64 → s.engineTa t x 64 8 false = .ok ta →
      exec (.tblset d a l p) s = .next (s.onward (.tblset d a l p) (s.addPend s.curCore s.curSlot (t.flying (.tblset d a l p)
        { ea := x, ta := ta, n := 64, core := s.curCore, sys := t.sys, tgt := .paged ta } 0 true true .flight))))) ∧
  (∀ es s0 s1, s.pending r = some q → s.bankReady r q = true → q.ins = .tblset d a l p → q.ops.core = r.core →
    (s.landAll (s.thr r.core r.slot)).payRange r r.core q.ops.ta 8 { r := true, sys := q.ops.sys } = (s0, true) →
    s0.agentRead r.core (s0.owner r.core) (s0.thr r.core r.slot).tag q.ops.sys q.ops.ta 8 0 = .ok (es, s1) → (∀ e ∈ es, e.poison = false) →
    let ds := es.map (fun e : Entry => e.d)
    let own := s1.owner r.core
    let s2 := s1.modPend r (fun u => { u with cover := 4 })
    let prev := ((s1.tableOf own n).map (fun t => t.base)).getD 0
    (descOk ds = false → atBank s r = .next (s1.exactFail r q cILLOP (q.ins.word.setWidth 64))) ∧
    (descOk ds = true → s1.postsOn own n ≠ [] → atBank s r = .next (s2.finish r (answer prev bsBUSY))) ∧
    (descOk ds = true → s1.postsOn own n = [] → (descTable ds).rows ≠ 0 →
      atBank s r = .next ((s2.putTable own n (descTable ds)).finish r (answer prev bsOK))) ∧
    (descOk ds = true → s1.postsOn own n = [] → (descTable ds).rows = 0 →
      atBank s r = .next ((s2.dropTable own n).finish r (answer prev bsOK)))) ∧
  (Issues (.tblsw d a l p) s →
    let fits := n < 64 ∧ x.toNat % 8 = 0 ∧ x.toNat < 2 ^ 51
    (¬fits → ill (.tblsw d a l p) cILLOP) ∧ (fits → s.tableOf vf n = none → ill (.tblsw d a l p) cILLCFG) ∧
    (fits → s.tableOf vf n ≠ none → Launched (.tblsw d a l p) s s { a := x, core := s.curCore } false false .queued)) ∧
  (∀ tb, s.pending r = some q → q.phase = .queued → q.ins = .tblsw d a l p → s.tableOf owner n = some tb →
    (q.ops.stage = 0 → tb.moving = [] → ∃ (s1 : State) (u : Pending), exec (.longLatencyComplete r.core r.slot r.id) s = .next s1 ∧
      s1.tableOf owner n = some { tb with base := q.ops.a.toNat, version := p.w1, fwd := [] } ∧
      s1.pending r = some u ∧ u.ops.stage = 1 ∧ u.ops.b = BitVec.ofNat 64 tb.base) ∧
    (q.ops.stage = 1 → (∀ u ∈ s.postsOn owner n, ∀ y, u.table = some y → y.old = none) →
      exec (.longLatencyComplete r.core r.slot r.id) s = .next (s.finish r { x := [(d, q.ops.b)], bs := some bsOK }))) ∧
  (Issues (.shstat d l p) s →
    let i := Instr.shstat d l p
    let kind := p.w2.toNat / 2 % 4
    let fits := n < 64 ∧ kind ≠ 3 ∧ p.w2.toNat / 2 ^ 3 = 0
    let c := 3 * p.w1.toNat + kind
    (¬fits → ill i cILLOP) ∧ (fits → s.tableOf vf n = none → ill i cILLCFG) ∧
    (∀ tb, fits → s.tableOf vf n = some tb →
      (tb.shards ≤ p.w1.toNat → ill i cILLOP) ∧
      (p.w1.toNat < tb.shards →
        let s1 := if p.w2.getLsbD 0 then s.modTable vf n (fun tb => { tb with counters := adel tb.counters c }) else s
        Launched i s s1 { core := s.curCore } false false (.done { x := [(d, (alook tb.counters c).getD 0)] }))))

/-- R277 to R279, R284: TRREG makes a trace object within the tenant's quota, sets or clears a tracked region, arms an
object or frees it; a running object answers BUSY. An object not in use raises ILLCFG with TVAL the word, another
tenant's BADWIN; that its TVAL is the object's number (assumption 37) and that a new number is the lowest free one
(assumption 57) are the model's choice. TRINFO reads an item of a record.

R281 to R283: RELAUNCH reads its patch, which it keeps, and is posted; a run decides at one instant which blocks it
runs again. With none it ends there, and its message, kind 31H, gives the blocks re-run and retained; else its launch
starts those, and ends once they have completed. -/
def Obligations.TracesAndRelaunches : Prop :=
  (∀ (s : State) (d a b : Reg) (l : BitVec 4) (p : Params) (n : Nat),
    let t := s.me
    let vf := s.owner s.curCore
    let v := s.vf vf
    let len := (t.rx b).toNat
    let gives := fun (i : Instr) (s1 : State) (r : Result) => Launched i s s1 { core := s.curCore } false false (.done r)
    let trap := fun (i : Instr) (c : Byte) (tv : Word) => exec i s = .next (s.trapped c tv)
    let wordOf := fun (i : Instr) => i.word.setWidth 64
    let create := Instr.trregCreate d a b l p
    let region := Instr.trregRegion d a b l p
    let used := (s.traces.filter (fun x => x.2.vf == vf)).foldl (fun n x => n + x.2.cap) 0
    let onObject := fun (i : Instr) (num : Word32) (k : Trace → Prop) => Issues i s →
      (alook s.traces num.toNat = none → trap i cILLCFG (wordOf i)) ∧
      (∀ x, alook s.traces num.toNat = some x → (x.vf ≠ vf → trap i cBADWIN (num.setWidth 64)) ∧ (x.vf = vf → k x))
    (Issues create s →
      (len < 1 ∨ 2 ^ 24 < len → trap create cILLOP (wordOf create)) ∧
      (1 ≤ len → len ≤ 2 ^ 24 → n < 255 → (∀ m, m < n → alook s.traces (m + 1) ≠ none) → alook s.traces (n + 1) = none →
        (used + len ≤ v.quota → gives create { s with traces := aset s.traces (n + 1) { vf := vf, cap := len } }
          { x := [(d, BitVec.ofNat 64 (n + 1))], bs := some bsOK }) ∧
        (v.quota < used + len → gives create s { x := [(d, 0)], bs := some bsFULL })) ∧
      (1 ≤ len → len ≤ 2 ^ 24 → (∀ m, m < 255 → alook s.traces (m + 1) ≠ none) → gives create s { x := [(d, 0)], bs := some bsFULL })) ∧
    (Issues region s →
      (16 ≤ p.w1.toNat ∨ len % 4096 ≠ 0 → trap region cILLOP (wordOf region)) ∧
      (p.w1.toNat < 16 → len = 0 → (∀ x ∈ s.traces, x.2.vf = vf → x.2.running = false) →
        gives region (s.putVf vf { v with regions := adel v.regions p.w1.toNat }) { bs := some bsOK }) ∧
      (∀ ta, p.w1.toNat < 16 → len % 4096 = 0 → len ≠ 0 → s.engineTa t (t.rx a) len 4096 false = .ok ta →
        ta = segTa t.g.toList (t.rx a) → taOnChip ta = false →
        (∀ e ∈ v.regions, e.1 ≠ p.w1.toNat → ta + len ≤ e.2.1 ∨ e.2.1 + e.2.2 ≤ ta) →
        ((∀ x ∈ s.traces, x.2.vf = vf → x.2.running = false) →
          gives region (s.putVf vf { v with regions := aset v.regions p.w1.toNat (ta, len) }) { bs := some bsOK }) ∧
        ((∃ x ∈ s.traces, x.2.vf = vf ∧ x.2.running = true) → gives region s { bs := some bsBUSY }))) ∧
    onObject (.trregArm d a b l p) p.w1 (fun x =>
      (x.running = true → gives (.trregArm d a b l p) s { bs := some bsBUSY }) ∧
      (x.running = false → gives (.trregArm d a b l p) (s.putMe { t with armed := some p.w1.toNat }) { bs := some bsOK })) ∧
    onObject (.trregFree d a b l p) p.w1 (fun x =>
      (x.running = true → gives (.trregFree d a b l p) s { bs := some bsBUSY }) ∧
      (x.running = false → gives (.trregFree d a b l p) { s with traces := adel s.traces p.w1.toNat } { bs := some bsOK })) ∧
    (Issues (.trinfo d l p) s → ∀ x, alook s.traces p.w0.toNat = some x → x.vf = vf →
      let i := Instr.trinfo d l p
      let y := (alook x.recs p.w1.toNat).getD {}
      let item := fun (k : Nat) (w : Word) => p.w1.toNat < x.cap → p.w3.toNat ≤ 63 → p.w2.toNat = k →
        gives i s { x := [(d, w)] }
      (x.cap ≤ p.w1.toNat ∨ 6 < p.w2.toNat ∨ 63 < p.w3.toNat → trap i cILLOP (wordOf i)) ∧
      item 0 (BitVec.ofNat 64 ((if y.valid then 2 ^ 63 else 0) + (if y.all then 2 ^ 62 else 0) + (if y.unstable then 2 ^ 61 else 0) +
        y.writes.length * 2 ^ 7 + y.reads.length)) ∧
      item 1 (BitVec.ofNat 64 y.s) ∧ item 2 (BitVec.ofNat 64 y.e) ∧ item 5 (if s.wouldRerun vf y then 1 else 0) ∧
      item 6 (y.handle.setWidth 64))) ∧
  (∀ (s : State) (d a : Reg) (l : BitVec 4) (y : BitVec 1) (p : Params) (o : Nat) (t : Trace)
      (run : Run) (x : Launch),
    let i := Instr.relaunch d a l y p
    let me := s.me
    let n := p.w2.toNat
    let fits := p.w1.toNat % 8 = 0 ∧ n % 8 = 0 ∧ n ≤ 256
    let room := (s.core run.core).inbox.length < 1024 ∧ (s.core run.core).hwHeld = [] ∧ (s.core run.core).dqWaiters = [] ∧
      s.quadDown run.core = false
    let message := fun (s1 : State) (status rerun kept : Nat) => (s1.core run.core).inbox = (s.core run.core).inbox ++
      [.ofWords (BitVec.ofNat 64 (status * 2 ^ 32 + 0x231)) (run.handle.setWidth 64) (BitVec.ofNat 64 (rerun * 2 ^ 32 + kept))
        (BitVec.ofNat 64 s.cycle)]
    let posted := fun (ta : Nat) => exec i s = .next (s.onward i ((s.addPend s.curCore s.curSlot (me.flying i
      { ea := me.rx a, ta := ta, n := n, core := s.curCore, sys := me.sys, segs := me.g.toList } 0 true true .queued)).relaunchRead
      ⟨s.curCore, s.curSlot, s.nextId⟩))
    let stops := fun (s1 : State) => ∃ t1, alook s1.traces o = some t1 ∧ t1.running = false ∧ t1.run = none
    (Issues i s →
      (¬fits → exec i s = .next (s.trapped cILLOP (i.word.setWidth 64))) ∧
      (fits → alook s.traces p.w0.toNat = none → exec i s = .next (s.trapped cILLCFG (i.word.setWidth 64))) ∧
      (∀ t, fits → alook s.traces p.w0.toNat = some t → t.vf = s.owner s.curCore →
        (n = 0 → posted 0) ∧ (∀ ta, n ≠ 0 → s.engineTa me (me.rx a) n 8 false = .ok ta → posted ta))) ∧
    (∀ r q s0 es s1, s.pending r = some q → q.ops.stage = 0 → q.ops.n / 8 ≠ 0 → (s.thr r.core r.slot).mayPerform q = true →
      (s.landAll (s.thr r.core r.slot)).payRange r r.core q.ops.ta (q.ops.n / 8) { r := true, sys := q.ops.sys } = (s0, true) →
      s0.agentRead r.core (s0.owner r.core) (s0.thr r.core r.slot).tag q.ops.sys q.ops.ta (q.ops.n / 8) 0 = .ok (es, s1) →
      s.relaunchRead r = s1.modPend r
        (fun u => { u with mem := false, cover := (cls u.ins).la, ops := { u.ops with got := es, stage := 1 } })) ∧
    (s.gated = true → exec (.relaunchRunStart o) s = .next s) ∧
    (∀ b, s.gated = false → alook s.traces o = some t → t.run = some run → run.decided = false → run.silent = false → run.patch = [] → t.bound = some b →
      let blocks := b.p.w1.toNat
      let again := (List.range blocks).filter (fun k => s.wouldRerun t.vf ((alook t.recs k).getD {}))
      (again = [] → room → t.queued = none → ∃ s1 : State, exec (.relaunchRunStart o) s = .next s1 ∧ message s1 0 0 blocks ∧ stops s1) ∧
      (again ≠ [] → s.launchOf run.handle = some x → ∃ s1 : State, exec (.relaunchRunStart o) s = .next s1 ∧
        s1.launchOf run.handle = some { x with only := some again } ∧
        ∃ t1, alook s1.traces o = some t1 ∧
          t1.run = some { run with decided := true, rerun := again.length, kept := blocks - again.length })) ∧
    (alook s.traces o = some t → t.run = some run → run.silent = false → s.launchOf run.handle = some x →
      (run.decided = true → x.over = true → s.launchQuiet run.handle = true → room → t.queued = none →
        ∃ s1 : State, exec (.relaunchComplete o) s = .next s1 ∧ message s1 x.status.toNat run.rerun run.kept ∧ stops s1) ∧
      (run.decided = false ∨ x.over = false ∨ s.launchQuiet run.handle = false → exec (.relaunchComplete o) s = .next s)))

/-! ## Virtual time -/

/-- R287 to R289, R305: TMODE.on, in the control thread of a core outside virtual time whose slot 14 is free, starts
the timed thread there at x[ra] with TM set, LVT at the core's copy of GVT and the empty inbox, log and queue, and
zeroes banks 13 and 14; else BS is BUSY or FULL. TMODE.off ends the timed thread while it sleeps in TNEXT and nothing
of virtual time is left; else BS is BUSY. Either raises PRIV in any thread but the control thread, and TMODE.on ALIGN
for an x[ra] that is no multiple of 4.

R302, R308, R309: TOUT logs a doubleword and leaves it in the output queue, with the key its thread is at; a port
writes the queued doubleword of the least key once GVT has passed it. GVTRD reads the core's copy of GVT, GVTRD.W
sleeps until that is above x[ra]. -/
def Obligations.VirtualTimeAndOutput : Prop :=
  (∀ (s : State) (a : Reg) (v : VTime),
    let t := s.me
    let c := s.curCore
    let x := s.core c
    let on := Instr.tmodeOn a
    let off := Instr.tmodeOff
    let timedBank := fun (q : Nat) => (bankLoc c 13 0 ≤ q ∧ q < bankLoc c 13 0 + 0x8000) ∨ (bankLoc c 14 0 ≤ q ∧ q < bankLoc c 14 0 + 0x8000)
    (s.curSlot ≠ 0 ∨ t.mig = true → Refuses on s cPRIV (on.word.setWidth 64)) ∧
    (s.curSlot = 0 → t.mig = false → (t.rx a).toNat % 4 ≠ 0 → Refuses on s cALIGN (t.rx a)) ∧
    (Issues on s →
      (x.vt ≠ none → exec on s = .next (s.onward on (s.putMe { t with bs := bsBUSY }))) ∧
      (x.vt = none → (s.thr c 14).st ≠ .idle ∨ (s.thr c 14).held = true → exec on s = .next (s.onward on (s.putMe { t with bs := bsFULL }))) ∧
      (x.vt = none → (s.thr c 14).st = .idle → (s.thr c 14).held = false → ∃ s1 : State, exec on s = .next (s.onward on s1) ∧
        (s1.core c).vt = some { restart := t.rx a, base := ⟨x.gvtCopy, 0⟩, cur := ⟨x.gvtCopy, 0⟩ } ∧ (s1.core c).lvt = x.gvtCopy ∧
        (s1.core c).sendCount = 0 ∧ (s1.thr c 14).st = .run ∧ (s1.thr c 14).pc = t.rx a ∧ (s1.thr c 14).tm = true ∧
        (s1.thr c 14).g = t.g ∧ s1.me.bs = bsOK ∧
        ∀ q, (timedBank q → s1.mem.byte q = Config.unwritten) ∧ (¬timedBank q → s1.mem.byte q = s.mem.byte q))) ∧
    (Issues off s →
      (s.curSlot ≠ 0 ∨ t.mig = true → exec off s = .next (s.trapped cPRIV (off.word.setWidth 64))) ∧
      (s.curSlot = 0 → t.mig = false →
        (x.vt = none → exec off s = .next (s.onward off (s.putMe { t with bs := bsOK }))) ∧
        (x.vt = some v →
          let rests := (s.thr c 14).inTnext = true ∧ v.inbox = [] ∧ v.log = [] ∧ v.out = []
          (¬rests → exec off s = .next (s.onward off (s.putMe { t with bs := bsBUSY }))) ∧
          (rests → ∃ s1 : State, exec off s = .next (s.onward off s1) ∧ (s1.core c).vt = none ∧ (s1.thr c 14).st = .idle ∧
            s1.me.bs = bsOK))))) ∧
  (∀ (s : State) (d r a : Reg) (v : VTime) (e : OutEntry) (k loc : Nat) (g : Word),
    let t := s.me
    let c := s.curCore
    let x := s.core c
    let out := Instr.tout r a
    let nd : Need := { ea := t.rx a, n := 8, align := 8, w := true, dbl := true, sysOk := true }
    let trap := fun (i : Instr) (code : Byte) (tv : Word) => exec i s = .next (s.trapped code tv)
    let free := exec (.outputRelease k) s
    (Issues out s →
      (t.tm = false → trap out cPRIV (out.word.setWidth 64)) ∧
      (∀ ta tgt, t.tm = true → resolve s c t nd = .ok (ta, tgt) →
        (taOnChip ta = true → trap out cBADWIN (t.rx a)) ∧
        (taOnChip ta = false → x.vt = some v → v.log.length + x.reserved + 1 ≤ 1024 → v.out.length < 64 →
          ∃ s1 : State, exec out s = .next (s.onward out s1) ∧ SameMemory s s1 ∧ (s1.core c).vt = some { v with
            log := v.log ++ [⟨v.cur, .out (BitVec.ofNat 64 ta) (t.rx r), []⟩]
            out := v.out ++ [⟨v.cur, BitVec.ofNat 64 ta, t.rx r, t.sys⟩] }))) ∧
    (v.release g = some e → e ∈ v.out ∧ e.key.vrt.toNat < g.toNat ∧ ∀ y ∈ v.out, y.key.vrt.toNat < g.toNat → y.key.lt e.key = false) ∧
    ((s.core k).vt = some v → (s.thr k 14).pend = [] →
      (v.release (s.vf (s.owner k)).gvt = none → free = .next s) ∧
      (v.release (s.vf (s.owner k)).gvt = some e → s.agentPlace k e.ta.toNat e.ta.toNat { w := true, sys := e.sys } = .at loc → s.poisoned loc = false →
        ∃ s1 : State, free = .next s1 ∧ s1.mem = (s.store loc 8 e.v.toNat).mem ∧ (s1.core k).vt = some { v with out := v.out.erase e })) ∧
    WritesX (.gvtrd d) s d x.gvtCopy ∧
    ((t.rx a).toNat < x.gvtCopy.toNat → WritesX (.gvtrdW d a) s d x.gvtCopy) ∧
    (x.gvtCopy.toNat ≤ (t.rx a).toNat → Issues (.gvtrdW d a) s →
      Launched (.gvtrdW d a) s s { core := c, a := t.rx a } false false .asleep))

/-- R285, R286, R290, R295, R306, R307: TSEND checks its target and its time, above the floor and below 2^48, has a log
entry reserved or sleeps for one, then reads its record; a core of the tenant takes the message with the key of VRT
and the sender's count, or answers ABSENT or FULL; any other, and one out of service, is BADWIN. That the log entry is
reserved before the record is read, and that a core whose quad is being reset answers ABSENT as one where virtual time
is off, is the model's choice (assumption 24). TNEXT takes the unprocessed message of the least key, and LVT becomes its
VRT; with none it sleeps. -/
def Obligations.TimedMessages : Prop := ∀ (s : State) (d r a b : Reg) (l : BitVec 4) (m : TMsg) (v : VTime) (n : Nat) (e : Timed)
    (q : Ref) (p : Pending),
  let t := s.me
  let c := s.curCore
  let x := s.core c
  let send := Instr.tsend r a b l
  let next := Instr.tnext d a
  let time := t.rx b
  let core := (t.rx r).toNat
  let foreign := core / 2048 = s.pkg.toNat ∧ s.isCoreOf (core % 2048) (s.owner s.curCore) = false
  let late := max (x.lvt.toNat / 2 ^ 16) (x.gvtCopy.toNat / 2 ^ 16)
  let trap := fun (i : Instr) (code : Byte) (tv : Word) => exec i s = .next (s.trapped code tv)
  (Issues send s →
    (t.tm = false → trap send cPRIV (send.word.setWidth 64)) ∧
    (t.tm = true → 2 ^ 16 ≤ core → trap send cBADWIN (t.rx r)) ∧
    (t.tm = true → core < 2 ^ 16 → late < time.toNat → time.toNat < 2 ^ 48 → x.logRoom 1 = true → foreign →
      (∃ ta tgt, resolve s c t { ea := t.rx a, n := 32, align := 32, sort := .record, r := true } = .ok (ta, tgt) ∧ tgt.away = none) →
      trap send cBADWIN (t.rx r)) ∧
    (t.tm = true → core < 2 ^ 16 → 2 ^ 48 ≤ time.toNat ∨ time.toNat ≤ late → trap send cILLCFG time)) ∧
  (t.tm = true → core < 2 ^ 16 → late < time.toNat → time.toNat < 2 ^ 48 → ¬foreign → x.logRoom 1 = true →
    Accesses send s { ea := t.rx a, n := 32, align := 32, sort := .record, r := true } (fun o => { o with a := t.rx r, b := time })) ∧
  (Issues send s → t.tm = true → core < 2 ^ 16 → late < time.toNat → time.toNat < 2 ^ 48 → x.logRoom 1 = false →
    ∃ (s1 : State) (u : Pending), exec send s = .next (s.onward send s1) ∧ SameMemory s s1 ∧ s1.me.pend.getLast? = some u ∧
      u.ins = send ∧ u.phase = .asleep ∧ (s1.core c).lvt = x.lvt) ∧
  (s.timed[n]? = some e → e.anti = false → s.timedFirst n e = true → e.ref = some q → q.core = e.src → s.pending q = some p →
    let y := s.core e.dst
    let key : Key := ⟨e.key.vrt, (s.core e.src).sendCount⟩
    let theirs := s.coreOut e.dst = true ∨ s.owner e.dst ≠ e.vf
    let answers := fun (b : BitVec 3) (more : State → Prop) => ∃ (s1 : State) (u : Pending), exec (.timedMessageAccept n) s = .next s1 ∧
      s1.timed = s.timed.eraseIdx n ∧ s1.pending q = some u ∧ u.phase = .done { bs := some b } ∧ more s1
    (theirs → ∃ (s1 : State) (u : Pending), exec (.timedMessageAccept n) s = .next s1 ∧ s1.timed = s.timed.eraseIdx n ∧
      s1.pending q = some u ∧ u.phase = .fault cBADWIN (BitVec.ofNat 64 (s.coreId e.dst))) ∧
    (¬theirs → y.vt = none → answers bsABSENT (fun _ => True)) ∧
    (¬theirs → y.vt = some v → 640 ≤ v.inbox.length → answers bsFULL (fun _ => True)) ∧
    (¬theirs → y.vt = some v → v.inbox.length < 640 → answers bsOK (fun s1 => (s1.core e.src).sendCount = (s.core e.src).sendCount + 1 ∧
      ∃ v1, (s1.core e.dst).vt = some v1 ∧ v1.inbox = v.inbox ++ [{ key := key, payload := e.payload }] ∧
        (key.lt v.cur = true → v1.straggler ≠ none)))) ∧
  (∀ l : List TMsg, leastMsg l = some m → m ∈ l ∧ ∀ y ∈ l, y.key.lt m.key = false) ∧
  (Issues next s →
    (s.curSlot ≠ 14 ∨ t.tm = false → trap next cPRIV (next.word.setWidth 64)) ∧
    (s.curSlot = 14 → t.tm = true → a = 0 → x.vt = some v → v.straggler = none →
      (leastMsg v.unprocessed = none → Launched next s s { core := c, tm := true, sys := t.sys } false false .asleep) ∧
      (leastMsg v.unprocessed = some m → ∃ (s1 : State) (u : Pending) (v1 : VTime), exec next s = .next (s.onward next s1) ∧
        (s1.core c).lvt = m.key.vrt ∧ (s1.core c).vt = some v1 ∧ v1.cur = m.key ∧
        v1.inbox = v.inbox.map (fun y => if y.key = m.key then { y with taken := true } else y) ∧
        s1.me.pend.getLast? = some u ∧ u.phase = .done { x := [(d, m.key.vrt)], bs := some bsOK } ∧ SameMemory s s1)))

/-- R292, R293, R295 to R297: at a boundary of the timed thread a rollback undoes what its log holds beyond the key,
newest first, makes the messages beyond it unprocessed, drops the output beyond it, and restarts the thread with BS
RECONF. A logged doubleword is written back where its tenant address stands now (R143), for a token of the core's
bucket, and the rollback waits while the page is absent or the token is missing (R146, R335; assumption 24). An
anti-message removes its message, or, when that was taken, makes a rollback to it due; one that leaves its cluster
costs a token of the network bucket, and one for another package leaves this one.

R289, R298 to R301: a round flips the tenant's colour, which each port follows in a step of its own; its result is the
least of the contributions and least VRTs sent, over all the tenant's ports, once all have flipped and their counts of
the old colour add up to 0; GVT never falls; and a core's copy follows once every port has released what lies below
the value published before. That a round begins in a cycle that is a multiple of 4,096, at most one in a cycle, that
it waits for and counts what is in flight from cores that have left the tenant, and when exactly a copy follows, are
the model's choice (assumption 23). -/
def Obligations.RollbackAndHorizon : Prop :=
  (∀ (s : State) (c n : Nat) (v : VTime) (k : Key) (incl : Bool) (keep : List LogEntry) (ek : Key)
      (ta loc hbm pa : Nat) (lf : Word) (old : Word) (full poison : Bool) (e : Timed) (m : TMsg),
    let go := exec (.rollback c) s
    let anti := exec (.antiMessageArrive n) s
    let past := fun (x : Key) => k.lt x = true ∨ (incl = true ∧ k = x)
    ((s.core c).vt = some v → v.straggler = some (k, incl) →
      ((s.thr c 14).atBoundary = false → go = .next s) ∧
      (v.log = keep ++ [⟨ek, .word ta loc old full poison, []⟩] → past ek → loc < 2 ^ 56 → s.walkAt (clusterOf c) (s.owner c) ta = .absent →
        go = .next s) ∧
      (v.log = keep ++ [⟨ek, .word ta loc old full poison, []⟩] → past ek → loc < 2 ^ 56 →
        s.walkAt (clusterOf c) (s.owner c) ta = .leaf lf pa → paSpace pa = .hbm hbm → (s.core c).hasToken 0 = false → go = .next s) ∧
      ((s.thr c 14).atBoundary = true → v.antis = [] → v.log = keep ++ [⟨ek, .word ta loc old full poison, []⟩] → past ek →
        (∀ y ∈ keep, ¬past y.key) → loc < 2 ^ 56 → s.walkAt (clusterOf c) (s.owner c) ta = .leaf lf pa → paSpace pa = .hbm hbm →
        (s.core c).hasToken 0 = true →
        ∃ (s1 : State) (v1 : VTime), go = .next s1 ∧ s1.mem = (s.write pa 8 old.toNat).mem ∧ (s1.core c).vt = some v1 ∧ v1.log = keep ∧
          v1.straggler = none ∧ v1.inbox = v.inbox.map (fun y => if beyond k incl y.key then { y with taken := false } else y) ∧
          (∀ y ∈ v1.out, y ∈ v.out ∧ ¬past y.key) ∧ (s1.core c).lvt = v1.cur.vrt ∧ (s1.thr c 14).pc = v.restart ∧
          (s1.thr c 14).bs = bsRECONF ∧ (s1.thr c 14).pend = [])) ∧
    ((s.core c).vt = some v → v.straggler = none → go = .next s) ∧
    (s.timed[n]? = some e → e.anti = true → clusterOf e.dst ≠ clusterOf e.src → (s.core e.src).hasToken 1 = false → anti = .next s) ∧
    (s.timed[n]? = some e → e.anti = true → s.timedFirst n e = true → 65536 ≤ e.dst → (s.core e.src).hasToken 1 = true →
      clusterOf e.dst ≠ clusterOf e.src → ∃ s1 : State, anti = .next s1 ∧ s1.timed = s.timed.eraseIdx n ∧ s1.sent = s.sent ++
        [(BitVec.ofNat 64 (e.dst - 65536), Msg.ofWords e.key.vrt (e.key.seq.setWidth 64) 1 0)]) ∧
    (s.timed[n]? = some e → e.anti = true → s.timedFirst n e = true → s.owner e.dst = e.vf → (s.core e.dst).vt = some v → e.dst < 65536 →
      (clusterOf e.dst = clusterOf e.src ∨ (s.core e.src).hasToken 1 = true) →
      (v.inbox.find? (fun y => y.key == e.key) = none → ∃ s1 : State, anti = .next s1 ∧ s1.timed = s.timed.eraseIdx n ∧
        (s1.core e.dst).vt = some v) ∧
      (v.inbox.find? (fun y => y.key == e.key) = some m → m.taken = false → ∃ (s1 : State) (v1 : VTime), anti = .next s1 ∧
        s1.timed = s.timed.eraseIdx n ∧ (s1.core e.dst).vt = some v1 ∧ v1.inbox = v.inbox.filter (fun y => y.key != e.key)) ∧
      (v.inbox.find? (fun y => y.key == e.key) = some m → m.taken = true → ∃ (s1 : State) (v1 : VTime), anti = .next s1 ∧
        (s1.core e.dst).vt = some v1 ∧ v1.straggler ≠ none ∧ v1.inbox = v.inbox ∧ v1.antis = v.antis ++ [e]))) ∧
  (∀ (s : State) (f c : Nat) (w : Word),
    let v := s.vf f
    let ps := s.cores.filter (fun c => s.owner c.1 == f && c.2.vt.isSome)
    let ports := s.cores.filter (fun c => s.owner c.1 == f)
    let stray := fun (m : Timed) => (m ∈ s.timed ∨ ∃ x ∈ s.cores, ∃ t, x.2.vt = some t ∧ m ∈ t.antis) ∧ m.vf = f ∧ s.owner m.src ≠ f
    let old := (ports.map (fun c => if v.colour then c.2.count0 else c.2.count1)).sum
    let starts := exec (.horizonRoundStart f) s
    let reports := exec (.horizonReport f) s
    s.wide f = false →
    (v.round = true ∨ s.cycle % 4096 ≠ 0 ∨ v.roundAt = s.cycle → starts = .next s) ∧
    (v.round = false → s.cycle % 4096 = 0 → v.roundAt ≠ s.cycle →
      (ps = [] → starts = .next (s.putVf f { v with gvt := 0, gvtPrev := 0, roundAt := s.cycle })) ∧
      (ps ≠ [] → starts = .next (s.putVf f { v with round := true, roundAt := s.cycle, colour := !v.colour, roundResult := none }))) ∧
    (let x := s.core c
     let flipped := (s.vf (s.owner c)).colour
     (x.colour = flipped → s.flipPort c = s) ∧
     (x.colour ≠ flipped → s.flipPort c = s.putCore c { x with colour := flipped, leastSent := BitVec.allOnes 64 })) ∧
    (let settled := old = 0 ∧ (∀ x ∈ ports, x.2.colour = v.colour) ∧ ∀ m, stray m → m.colour = v.colour
     v.round = true → v.roundResult = none →
      (¬settled → reports = .next s) ∧
      (settled → ∃ g : Word, reports = .next (s.putVf f { v with roundResult := some g }) ∧
        (∀ x ∈ ports, g.toNat ≤ (s.contribution x.1 x.2).toNat ∧ g.toNat ≤ x.2.leastSent.toNat) ∧
        (∀ m, stray m → g.toNat ≤ m.key.vrt.toNat) ∧
        (g = BitVec.allOnes 64 ∨ (∃ x ∈ ports, g = s.contribution x.1 x.2 ∨ g = x.2.leastSent) ∨ ∃ m, stray m ∧ g = m.key.vrt))) ∧
    (∀ x : Core, let g := s.contribution c x
      let least := (BitVec.ofNat 64 (max (x.lvt.toNat / 2 ^ 16) (x.gvtCopy.toNat / 2 ^ 16))) <<< 16 + BitVec.ofNat 64 (s.coreId c)
      (x.vt = none → g = BitVec.allOnes 64) ∧
      (∀ t, x.vt = some t → (∀ m ∈ t.inbox, m.taken = false → g.toNat ≤ m.key.vrt.toNat) ∧
        ((x.slot 14).inTnext = false → g.toNat ≤ least.toNat) ∧
        (g = BitVec.allOnes 64 ∨ (∃ m ∈ t.inbox, m.taken = false ∧ g = m.key.vrt) ∨ ((x.slot 14).inTnext = false ∧ g = least)))) ∧
    (v.roundResult = none → exec (.gvtPublish f) s = .next s) ∧
    (v.roundResult = some w → ∃ s1 : State, exec (.gvtPublish f) s = .next s1 ∧ SameMemory s s1 ∧ s1.vf f =
      { v with round := false, roundResult := none, gvtPrev := v.gvt, gvt := if v.gvt.toNat < w.toNat then w else v.gvt }) ∧
    (let u := s.vf (s.owner c)
     let passed := fun (x : Core) (g : Word) => ∀ t, x.vt = some t → ∀ y ∈ t.out, g.toNat ≤ y.key.vrt.toNat
     let ready := (s.core c).gvtCopy ≠ u.gvt ∧ passed (s.core c) u.gvt ∧
       ∀ x ∈ s.cores, s.owner x.1 = s.owner c → passed x.2 u.gvtPrev
     (ready → exec (.gvtCopyUpdate c) s = .next (s.putCore c { s.core c with gvtCopy := u.gvt })) ∧
     (¬ready → exec (.gvtCopyUpdate c) s = .next s)))

/-! ## System instructions, tenancy and what stands outside the threads -/

/-- R311, R324, R326, R327, R329, R330: XEC gives a Trapped thread the word it executes first; ICINV and TLBINV drop
lines and entries of the tenant, all or those of one address, and every host store lands before ICINV ends (the
model's choice, assumption 56); SNAP raises the trigger and reads the cycle at which it latches; HALT returns the next
service, the lowest trap first, or sleeps. ICINV of an address makes the checks of rights, limit and view, and TLBINV
at user privilege raises PRIV, before any wait. A request whose slot is Trapped waits, and so does one whose transfer
has failed while TCCERR stands (the model's choice, assumption 22).

R313, R315, R316, R319: a debugger's stop traps a thread at its boundary with CAUSE BRK and TVAL 1, and is a double
trap in slot 15; one asked while another stop waits is kept (assumption 19). The detector looks at a tenant once every
1,024 cycles: what holds at one sample is noted, at the next it raises ASLEEP once, in slot 0 of the lowest core that
has a thread there. -/
def Obligations.SystemInstructionsAndStops : Prop :=
  (∀ (s : State) (d r a : Reg) (k : Nat) (q : SvcReq),
    let t := s.me
    let c := s.curCore
    let x := s.core c
    let vf := s.owner c
    let priv := fun (i : Instr) => exec i s = .next (s.trapped cPRIV (i.word.setWidth 64))
    let serves := fun (s1 : State) (w : Word) => exec (.halt d) s = .next (s.onward (.halt d) (s1.putMe (s1.me.wx d w)))
    let waits := fun (j : Nat) => (s.thr c j).st = .trapped ∧ (s.thr c j).returned = false
    (Issues (.xec r a) s →
      let u := s.thr c (t.rx r).toNat
      (s.curSlot ≠ 15 → priv (.xec r a)) ∧
      (s.curSlot = 15 → 15 ≤ (t.rx r).toNat → exec (.xec r a) s = .next (s.trapped cILLCFG (t.rx r))) ∧
      (s.curSlot = 15 → (t.rx r).toNat < 15 →
        (u.st ≠ .trapped → exec (.xec r a) s = .next (s.onward (.xec r a) (s.putMe { t with bs := bsABSENT }))) ∧
        (u.st = .trapped → ∃ s1 : State, exec (.xec r a) s = .next (s.onward (.xec r a) s1) ∧ s1.me = { t with bs := bsOK } ∧
          s1.thr c (t.rx r).toNat = { u with xw := if a = 0 then none else some ((t.rx a).setWidth 32) } ∧ SameMemory s s1))) ∧
    (Issues (.icinv a) s → ∃ s1 : State, exec (.icinv a) s = .next (s.onward (.icinv a) s1) ∧ s1.me = t ∧ s1.posted = [] ∧
      s1.mem = (s.posted.foldl State.land s).mem ∧ (s.posted = [] → SameMemory s s1) ∧
      ∀ n, (s1.core n).icache = (s.core n).icache.filter
        (fun y => !(y.vf == vf && (a == 0 || y.ta == t.taOf (t.rx a) / 128 * 128)))) ∧
    (a ≠ 0 →
      let g := t.segOf (t.rx a)
      let ta := segBase g + eaOffset (t.rx a)
      let system := taOnChip ta = true ∧ taKind ta = 4 ∧ ta < 2 ^ 52
      let right := segX g = true ∧ (segP g = true → t.sys = true) ∧ (system → segP g = true)
      let limit := eaOffset (t.rx a) < segLimit g ∧ ta < 2 ^ 52
      (¬right → Refuses (.icinv a) s cSEGRIGHT (t.rx a)) ∧ (right → ¬limit → Refuses (.icinv a) s cSEGLIM (t.rx a)) ∧
      (right → limit → taOnChip ta = true → isWindow (taView ta) = true → Refuses (.icinv a) s cALIGN (t.rx a))) ∧
    (t.sys = false → Refuses (.tlbinv a) s cPRIV ((Instr.tlbinv a).word.setWidth 64)) ∧
    (Issues (.tlbinv a) s → tlbinvFault a t = none → ∃ s1 : State, exec (.tlbinv a) s = .next (s.onward (.tlbinv a) s1) ∧
      s1.me = t ∧ SameMemory s s1 ∧
      ∀ n, (s1.cluster n).tlb = (s.cluster n).tlb.filter (fun y => !(y.vf == vf && (a == 0 || y.maps vf (t.taOf (t.rx a)))))) ∧
    (Issues (.snap d) s →
      (t.sys = false → priv (.snap d)) ∧
      (t.sys = true → s.snapAt = none →
        let n := s.cycle + Config.snapDelay
        exec (.snap d) s = .next (s.onward (.snap d) ({ s with snapAt := some n, snapPin := false }.putMe (t.wx d (BitVec.ofNat 64 n))))) ∧
      (∀ n, t.sys = true → s.snapAt = some n →
        exec (.snap d) s = .next (s.onward (.snap d) ({ s with snapPin := false }.putMe (t.wx d (BitVec.ofNat 64 n)))))) ∧
    (Issues (.halt d) s →
      (s.curSlot ≠ 15 → priv (.halt d)) ∧
      (s.curSlot = 15 →
        (k < 15 → waits k → (∀ j, j < k → ¬waits j) → serves (s.putThr c k { s.thr c k with returned := true }) (BitVec.ofNat 64 k)) ∧
        ((∀ j, j < 15 → ¬waits j) →
          (x.svc.find? (fun q => (x.slot q.slot).st != .trapped && !(q.failed && x.tccErr.getLsbD 63)) = some q →
            serves (s.putCore c { x with svc := x.svc.erase q, svcLast := aset x.svcLast q.slot q.entry })
              (BitVec.ofNat 64 (q.entry * 2 ^ 16 + q.kind * 2 ^ 8 + q.slot))) ∧
          ((∀ q ∈ x.svc, (x.slot q.slot).st = .trapped ∨ (q.failed = true ∧ x.tccErr.getLsbD 63 = true)) → Launched (.halt d) s s { core := c } false false .asleep))))) ∧
  (∀ (s : State) (c k f : Nat) (p : Pending),
    let t := s.thr c k
    let stop := exec (.debuggerStop c k) s
    let sample := exec (.asleepSample f) s
    let v := { s.vf f with sampledAt := some s.cycle }
    (k < 15 → t.st = .run → t.stop = none → t.pend = [] → ∃ s1 : State, stop = .next s1 ∧ (s1.thr c k).st = .trapped ∧ (s1.thr c k).epc = t.pc ∧
      (s1.thr c k).cause = 0x20 ∧ (s1.thr c k).tval = 1 ∧ (s1.thr c k).x = t.x ∧ SameMemory s s1) ∧
    (k < 15 → t.st ≠ .run → stop = .next s) ∧
    (k < 15 → t.st = .run → t.stop ≠ none → stop = .next (s.putThr c k { t with later := t.later ++ [(cBRK, 1)] })) ∧
    (k = 15 → t.st = .run → ∃ s1 : State, stop = .next s1 ∧ (s1.core c).stopped = true ∧ (s1.core c).depc = t.pc ∧ (s1.core c).dcause = 0x20 ∧
      s1.reports = s.reports ++ [⟨c, 15, 0x24, t.pc, 0x20⟩]) ∧
    (s.cycle % 1024 ≠ 0 → sample = .next s) ∧
    (s.cycle % 1024 = 0 → (s.vf f).sampledAt = some s.cycle → sample = .next s) ∧
    (s.cycle % 1024 = 0 → (s.vf f).sampledAt ≠ some s.cycle → s.wide f = false →
      (s.allAsleep f = false → sample = .next (s.putVf f { v with asleepHeld := false, asleepRaised := false })) ∧
      (s.allAsleep f = true → v.asleepHeld = false → sample = .next (s.putVf f { v with asleepHeld := true })) ∧
      (s.allAsleep f = true → v.asleepHeld = true → v.asleepRaised = true → sample = .next (s.putVf f v)) ∧
      (s.allAsleep f = true → v.asleepHeld = true → v.asleepRaised = false → s.lowestLive f = none → ∃ s1 : State, sample = .next s1 ∧
        s1.reports = s.reports ++ [⟨0, 0, cASLEEP.setWidth 64, 0, BitVec.ofNat 64 f⟩] ∧ (s1.vf f).asleepRaised = true) ∧
      (s.allAsleep f = true → v.asleepHeld = true → v.asleepRaised = false → s.lowestLive f = some c → (s.thr c 0).st = .run →
        (s.thr c 0).stop = none → (s.thr c 0).pend = [p] → p.phase = .asleep → counted p.ins = false → ∃ s1 : State, sample = .next s1 ∧
          (s1.thr c 0).st = .trapped ∧ (s1.thr c 0).cause = causeWord cASLEEP false p.issued ∧ (s1.thr c 0).epc = p.pc ∧ (s1.thr c 0).pend = [])))

/-- R254, R317, R328: SWAPCTX.out saves a slot's thread in a free entry and leaves the slot Idle; SWAPCTX.in puts a
saved thread into an Idle slot and frees its entry; SWAPCTX does both. A held slot is BUSY, an Idle one ABSENT, an
empty entry EMPTY and a full one FULL; a slot above 14 or an entry beyond the cache raises ILLCFG with TVAL the
operand, and when both are bad that is the slot, which is the model's choice (assumption 42). A fill waits, and
SWAPCTX with it, until the lines of the entry are paid for (R335; assumption 42). Outside slot 15 all three raise
PRIV. -/
def Obligations.ContextSwaps : Prop := ∀ (s : State) (e a : Reg) (ctx : Ctx),
  let t := s.me
  let c := s.curCore
  let x := s.core c
  let k := (t.rx a).toNat
  let n := (t.rx e).toNat
  let u := s.thr c k
  let limits := k < 15 ∧ n < tccN x.tccCtl ∧ x.dispatcherEntry n = false
  let gives := fun (i : Instr) (b : BitVec 3) => exec i s = .next (s.onward i (s.putMe { t with bs := b }))
  let saved := fun (s1 : State) => ∃ y, alook (s1.core c).tcc n = some y ∧ y.slot = k ∧ y.th.pc = u.pc ∧ y.th.x = u.x ∧ y.th.f = u.f ∧
    y.th.g = u.g ∧ y.th.fcsr = u.fcsr ∧ y.th.bs = u.bs ∧ y.th.st = u.st ∧ y.th.tag = u.tag
  let restored := fun (s1 : State) => (s1.thr c k).pc = ctx.th.pc ∧ (s1.thr c k).x = ctx.th.x ∧ (s1.thr c k).st = ctx.th.st ∧
    (s1.thr c k).tag = ctx.th.tag ∧ (s1.thr c k).returned = false
  let swaps := fun (i : Instr) (p : State → Prop) => ∃ s1 : State, exec i s = .next (s.onward i s1) ∧ s1.me.bs = bsOK ∧ p s1
  (∀ i, i ∈ [Instr.swapctx e a, .swapctxOut e a, .swapctxIn e a] → s.curSlot ≠ 15 → Refuses i s cPRIV (i.word.setWidth 64)) ∧
  (∀ i, i ∈ [Instr.swapctx e a, .swapctxOut e a, .swapctxIn e a] → Issues i s →
    (15 ≤ k → exec i s = .next (s.trapped cILLCFG (t.rx a))) ∧
    (k < 15 → tccN x.tccCtl ≤ n → exec i s = .next (s.trapped cILLCFG (t.rx e))) ∧
    (limits → u.held = true → gives i bsBUSY)) ∧
  (Issues (.swapctxOut e a) s → limits → u.held = false →
    (u.st = .idle → gives (.swapctxOut e a) bsABSENT) ∧
    (u.st ≠ .idle → alook x.tcc n ≠ none → gives (.swapctxOut e a) bsFULL) ∧
    (u.st ≠ .idle → alook x.tcc n = none → s.maySave c k = true → x.resident.length < 64 → u.pend = [] →
      swaps (.swapctxOut e a) (fun s1 => saved s1 ∧ (s1.thr c k).st = .idle))) ∧
  (Issues (.swapctxIn e a) s → limits → u.held = false →
    (alook x.tcc n = none → gives (.swapctxIn e a) bsEMPTY) ∧
    (alook x.tcc n ≠ none → u.st ≠ .idle → gives (.swapctxIn e a) bsBUSY) ∧
    (alook x.tcc n = some ctx → u.st = .idle → ctx.malformed k = false → n ∈ x.resident → ctx.th.pend = [] →
      swaps (.swapctxIn e a) (fun s1 => restored s1 ∧ alook (s1.core c).tcc n = none)) ∧
    (∀ s1, alook x.tcc n ≠ none → u.st = .idle → n ∉ x.resident → s.payBack c false n = (s1, false) →
      exec (.swapctxIn e a) s = .next s1)) ∧
  (Issues (.swapctx e a) s → limits → u.held = false →
    (u.st = .idle → gives (.swapctx e a) bsABSENT) ∧
    (u.st ≠ .idle → alook x.tcc n = none → gives (.swapctx e a) bsEMPTY) ∧
    (u.st ≠ .idle → alook x.tcc n = some ctx → ctx.malformed k = false → n ∈ x.resident → s.maySave c k = true → u.pend = [] →
      ctx.th.pend = [] → swaps (.swapctx e a) (fun s1 => restored s1 ∧ saved s1)))

/-- R346 to R348: CRED and CBCAST check their control word (ILLOP) and their scope (SCOPE) first. Those of no
participant or of one complete at once; with more participants than live threads BS is OVERCOUNT; the first arrival
opens an instance, and one that leaves its cluster costs a network token (R335). A later one joins it, at its place in
ascending order of core and slot; one that differs in count or operation raises ILLCFG late. When all have arrived,
each receives CRED's combination of the values in that order, or CBCAST's word and the root's bytes. That a CBCAST of
one participant without ROOT raises ILLCFG late is the model's choice (assumption 25). -/
def Obligations.CollectivesComplete : Prop := ∀ (s : State) (d a b : Reg) (l : BitVec 4) (p : Params) (r q : Ref) (u w : Pending) (c : Collective)
    (x y : Word) (src dst : Nat),
  let t := s.me
  let n := p.w1.toNat
  let op := p.w2.toNat % 4
  let int := p.w2.getLsbD 2
  let red := Instr.cred d a l p
  let cast := Instr.cbcast d a b l p
  let vf := s.owner s.curCore
  let scope := p.w2.toNat / 2 ^ 4 % 2 ^ 3
  let dom := domainOf scope s.curCore
  let own : Word := if int then t.rx a else BitVec.ofNat 64 ((t.rx a).toNat % 2 ^ 32)
  let unit : Word := if int then (if op = 0 then 0 else if op = 1 then 0x7FFF_FFFF_FFFF_FFFF else 0x8000_0000_0000_0000)
    else (if op = 0 then 0 else if op = 1 then 0x7F80_0000 else 0xFF80_0000)
  let s0 := if 2 ≤ scope then s.spend s.curCore 1 else s
  let gives := fun (i : Instr) (r : Result) => Launched i s s { core := s.curCore } false false (.done r)
  let full := fun (i : Instr) => Launched i s s0 { core := s.curCore } false false (.done { bs := some bsFULL })
  let done := fun (v : Word) => ({ x := [(d, v)], bs := some bsOK } : Result)
  let live := fun (z : State) => (z.liveIn vf scope dom).1
  let mine := fun (v : Word) => ((⟨s.curCore, s.curSlot, s.nextId⟩, v) : Ref × Word)
  let opens := fun (i : Instr) (z : State) (o : Operands) (bcast : Bool) => exec i s = .next (s.onward i
    { z.fly i o false false .queued with collectives := z.collectives ++
      [⟨vf, p.w0.toNat % 2 ^ 16, scope, dom, n, p.w2, bcast, [mine o.a]⟩] })
  let found := fun (z : State) => z.instanceOf vf (p.w0.toNat % 2 ^ 16) scope dom
  let inOrder := fun (l : List (Ref × Word)) => l.Pairwise (fun a b => a.1.core < b.1.core ∨ (a.1.core = b.1.core ∧ a.1.slot < b.1.slot))
  let joins := fun (z : List (Ref × Word)) (v : Word) => z.Perm (mine v :: c.arrived) ∧
    (inOrder c.arrived → (∀ a ∈ c.arrived, a.1.core ≠ s.curCore ∨ a.1.slot ≠ s.curSlot) → inOrder z)
  let combined := fun (ctl : Word32) (z : List (Ref × Word)) => credResult (ctl.toNat % 4) (ctl.toNat / 4 % 2 == 1) (z.map (·.2))
  let ends := exec (.longLatencyComplete r.core r.slot r.id) s
  let known := scope < 5 ∧ p.w2.toNat / 2 ^ 7 = 0
  let redOk := known ∧ op < 3 ∧ p.w2.getLsbD 3 = false
  let castOk := known ∧ p.w2.toNat % 8 = 0 ∧ p.w3.toNat % 8 = 0 ∧ p.w3.toNat ≤ 4096
  let allowed := scope < 2 ∨ (s.vf vf).scopepol.getLsbD scope = true
  (t.passed = none →
    (¬redOk → Refuses red s cILLOP (red.word.setWidth 64)) ∧ (redOk → ¬allowed → Refuses red s cSCOPE (red.word.setWidth 64)) ∧
    (¬castOk → Refuses cast s cILLOP (cast.word.setWidth 64)) ∧ (castOk → ¬allowed → Refuses cast s cSCOPE (cast.word.setWidth 64))) ∧
  (Issues red s →
    (n = 0 → gives red (done unit)) ∧ (n = 1 → gives red (done own)) ∧
    (2 ≤ n → scope < 3 →
      (live s < n → gives red { bs := some bsOVERCOUNT }) ∧
      (n ≤ live s → found s = none → s.instancesFull vf = true → full red) ∧
      (n ≤ live s → found s = none → s.instancesFull vf = false → opens red s0 { core := s.curCore, a := own } false) ∧
      (n ≤ live s → found s = some c →
        let flown := s0.fly red { core := s.curCore, a := own } false false .queued
        let same := c.bcast = false ∧ c.n = n ∧ c.ctl.toNat % 8 = p.w2.toNat % 8
        (¬same → ∃ (s1 : State) (v : Pending), exec red s = .next (s.onward red s1) ∧ s1.me.pend.getLast? = some v ∧
          v.phase = .fault cILLCFG (if c.bcast = false ∧ c.n ≠ n then BitVec.ofNat 64 n else red.word.setWidth 64)) ∧
        (same → c.arrived.length + 1 < n → ∃ l, joins l own ∧
          exec red s = .next (s.onward red (flown.putInstance { c with arrived := l }))) ∧
        (same → c.arrived.length + 1 = n → ∃ (s1 : State) (v : Pending) (l : List (Ref × Word)), joins l own ∧
          exec red s = .next (s.onward red s1) ∧ s1.me.pend.getLast? = some v ∧ v.phase = .done (done (combined c.ctl l)))))) ∧
  (Issues cast s →
    (n = 0 → gives cast (done 0)) ∧ (n = 1 → p.w2.getLsbD 3 = true → gives cast (done (t.rx a))) ∧
    (n = 1 → p.w2.getLsbD 3 = false → Launched cast s s { core := s.curCore } false false (.fault cILLCFG (cast.word.setWidth 64))) ∧
    (∀ o, 2 ≤ n → scope < 3 → s.readTarget t (needCbcast t b p) = .ok o →
      let z := if p.w2.getLsbD 3 then s.landAll t else s
      let z0 := if 2 ≤ scope then z.spend s.curCore 1 else z
      let ops : Operands := { core := s.curCore, a := t.rx a, ea := t.rx b, n := p.w3.toNat, ta := o.ta, tgt := o.tgt, here := o.here
                              sys := t.sys }
      let flown := z0.fly cast ops false false .queued
      (live z < n → Launched cast s z { core := s.curCore } false false (.done { bs := some bsOVERCOUNT })) ∧
      (n ≤ live z → found z = none → z.instancesFull vf = true →
        Launched cast s z0 { core := s.curCore } false false (.done { bs := some bsFULL })) ∧
      (n ≤ live z → found z = none → z.instancesFull vf = false → opens cast z0 ops true) ∧
      (n ≤ live z → found z = some c → c.bcast = true → c.n = n → c.arrived.length + 1 < n →
        (∀ a ∈ c.arrived, ((flown.pendingAny a.1).map isRoot).getD false = false) →
        ∃ l, joins l (t.rx a) ∧ exec cast s = .next (s.onward cast (flown.putInstance { c with arrived := l }))))) ∧
  (∀ vs : List Word, credResult 0 true vs = vs.sum) ∧
  (∀ x y z : Word, (credResult 0 false [x, y, z]).setWidth 32 =
    (fAdd 0 (fAdd 0 (x.setWidth 32) (y.setWidth 32)).v (z.setWidth 32)).v) ∧
  (s.pending r = some u → u.phase = .queued → s.collectives.find? (fun c => c.arrived.any (fun a => a.1.id == r.id)) = some c →
    (∃ y, (r, y) ∈ c.arrived) →
    (c.arrived.length < c.n → c.scope < 3 ∨ s.wide c.vf = false → u.ins = red ∨ u.ins = cast → ends = .next s) ∧
    (u.ins = red → c.bcast = false → c.n ≤ c.arrived.length → ∃ (s1 : State) (v : Pending), ends = .next s1 ∧ s1.pending r = some v ∧
      v.phase = .done (done (combined c.ctl c.arrived)) ∧ SameMemory s s1) ∧
    (∀ s2, u.ins = cast → c.bcast = true → c.n ≤ 2 → c.arrived = [(r, x), (q, y)] → r ≠ q → isRoot u = true → s.pending q = some w →
      s.bufferPlaces u { r := true } = .ok [src] → s.bufferPlaces w { w := true } = .ok [dst] →
      s.bcastPay c [(r, u), (q, w)] = (s2, true) → ∃ (s1 : State) (v : Pending), ends = .next s1 ∧ s1.mem = (s2.putEntry dst (s2.entryAt src)).mem ∧
        s1.pending r = some v ∧ v.phase = .done (done x)))

/-- R146, R276, R335: the pager's wake, sent to the memory port of a cluster, releases every instruction and fetch of its
tenant that waits there for the page. The oldest access that waits for a bucket leaves when there is one. That a page
number is the tenant address divided by 65,536, and that the wake releases what waits for the page of any size that
contains it, is the model's choice (assumption 38). -/
def Obligations.PagerAndLines : Prop := ∀ (s : State) (f cl page c k : Nat) (res : Nat) (r : Ref) (p : Pending),
  let sh := s.pageOf f (page * 2 ^ 16)
  let lo := page * 2 ^ 16 / 2 ^ sh * 2 ^ sh
  let hi := lo + 2 ^ sh
  let ready := (s.inFlight c).filter (fun x =>
    s.bucketFor c x.2 == some res && (s.portReady x.1 x.2 || s.bankReady x.1 x.2))
  (page < 2 ^ 40 → ∃ s1 : State, exec (.pagerWake f (cl * 2 ^ 40 + page)) s = .next s1 ∧ SameMemory s s1 ∧
    (s.owner c ≠ f ∨ clusterOf c ≠ cl → s1.thr c k = s.thr c k) ∧
    (s.owner c = f → clusterOf c = cl → (s1.thr c k).pend = (s.thr c k).pend.map (unpark lo hi) ∧ (s1.thr c k).x = (s.thr c k).x ∧
      (s1.thr c k).pc = (s.thr c k).pc ∧
      ∀ ta, (s.thr c k).fetchPark = some ta → (s1.thr c k).fetchPark = if lo ≤ ta ∧ ta < hi then none else some ta)) ∧
  (counted p.ins = false → p.phase = .parked → p.ops.ta < hi → lo < p.ops.ta + max p.span 1 → (unpark lo hi p).phase = .flight) ∧
  (ready = [] → exec (.lineSend c res) s = .next s) ∧
  (oldest ready = some (r, p) →
    (r, p) ∈ ready ∧ (∀ x ∈ ready, p.id ≤ x.2.id) ∧
    (p.atBank = true → exec (.lineSend c res) s = .next (s.bankStep r)) ∧
    (p.atBank = false → exec (.lineSend c res) s = exec (.portAccessPerformed r.core r.slot r.id) s))

/-- R201, R207, R259, R334, R349, R350, R355: a quad's reset ends the threads that are at home there, and its lease.
Guests go home; while an access of one is on its way the reset does not end. At its end the quad's slots, banks and
scratchpads hold their reset values; a reassigned quad belongs to the other tenant from then on, with its QoS
settings, and the bands of a tenant that has no quad of the cluster left are zeroed. An engine reset ends every post
and the lease and zeroes the bands; a cluster's reset takes its 16 quads and its engines, and a failed router leaves
it out of service; before the package has booted a router's failure does nothing (the model's choice, assumption 29).
That guests may delay the end of a reset, that the registers of a core as a whole and the messages held for its inbox
outlive a reset by which the quad keeps its owner, and which of them a new owner finds, is the model's choice
(assumptions 23 and 29). -/
def Obligations.ResetsAndReassignment : Prop := ∀ (s : State) (q f cl : Nat),
  let home := q / 16
  let k := s.cluster home
  let fresh := fun (c : Nat) => if s.booted then Core.released c else Core.fresh
  let gone := fun (s : State) => ∀ c, quadOf c = q → (s.core c).arrivals = [] ∧ (∀ e ∈ (s.core c).tcc, e.2.th.guestOf q = false) ∧
    ∀ j, j < 16 → (s.thr c j).guestOf q = false
  let zero := fun (s1 : State) (n m : Nat) => ∀ i o, i < 480 → o < 4096 → s1.mem.byte (anvilLoc n i (4096 * m) + o) = Config.unwritten
  let clean := fun (s1 : State) => ∀ c, quadOf c = q →
    (let x := s.core c
     s1.core c = { fresh c with lend := x.lend, depc := x.depc, dcause := x.dcause, tccBase := x.tccBase, tccCtl := x.tccCtl, tccErr := x.tccErr
                                snapCtl := x.snapCtl, snap := x.snap, qhbm := x.qhbm, qnet := x.qnet, qwgt := x.qwgt, qhbmNow := x.qhbmNow
                                qnetNow := x.qnetNow, hbmTok := x.hbmTok, netTok := x.netTok, lvt := x.lvt, gvtCopy := x.gvtCopy
                                sendCount := x.sendCount, count0 := x.count0, count1 := x.count1, leastSent := x.leastSent, colour := x.colour
                                icache := x.icache, hwHeld := x.hwHeld }) ∧
    ∀ o, o < scratchSize → s1.mem.byte (scratchLoc c o) = Config.unwritten
  let passed := fun (z s1 : State) => q ∉ (s1.cluster home).resetting ∧ (∀ n, s1.quadOwner n = if n = q then f else z.quadOwner n) ∧
    (∀ c, quadOf c = q → (s1.core c).qhbm = (z.vf f).qhbm ∧ (s1.core c).qnet = (z.vf f).qnet ∧ (s1.core c).qwgt = (z.vf f).qwgt) ∧
    (f ≠ z.quadOwner q →
      (z.unresolved = [] → ∀ c, quadOf c = q → s1.core c = { fresh c with
        gvtCopy := (z.vf f).gvt, colour := (z.vf f).colour, qhbm := (z.vf f).qhbm, qnet := (z.vf f).qnet, qwgt := (z.vf f).qwgt }) ∧
      ((∀ x, x / 16 = home → x ≠ q → z.quadOwner x ≠ z.quadOwner q) → ∀ b ∈ (z.cluster home).bands, b.2 = z.quadOwner q → zero s1 home b.1))
  (512 ≤ q ∨ q ∈ k.resetting → exec (.quadReset q) s = .next s) ∧
  (q < 512 → q ∉ k.resetting → ∃ s1 : State, exec (.quadReset q) s = .next s1 ∧ q ∈ (s1.cluster home).resetting ∧
    (∀ c j, quadOf c = q → j < 15 → (s1.thr c j).st = .idle ∨ quadOf (s1.thr c j).home ≠ q) ∧
    ∀ l, (s1.cluster home).lease = some l → quadOf l.core ≠ q) ∧
  (q ∉ k.resetting → exec (.quadResetDone q) s = .next s) ∧
  (q ∈ k.resetting → (∃ c j, quadOf c = q ∧ j < 16 ∧ (s.thr c j).guestOf q = true ∧ (s.thr c j).packable = false) →
    ∃ s1 : State, exec (.quadResetDone q) s = .next s1 ∧ q ∈ (s1.cluster home).resetting) ∧
  (q < 512 → q ∈ k.resetting → k.heldAcc = [] → gone s →
    (alook k.reassigning q = none →
      ∃ s1 : State, exec (.quadResetDone q) s = .next s1 ∧ q ∉ (s1.cluster home).resetting ∧ clean s1) ∧
    (alook k.reassigning q = some f → ∃ s1 : State, exec (.quadResetDone q) s = .next s1 ∧ passed s s1)) ∧
  (q < 512 → f < 512 → q ∉ k.resetting → ∃ s1 s2 : State, exec (.quadReassign q f) s = .next s1 ∧ exec (.quadResetDone q) s2 = .next s1 ∧
    q ∈ (s2.cluster home).resetting ∧ alook (s2.cluster home).reassigning q = some f ∧ (∀ n, s2.quadOwner n = s.quadOwner n) ∧
    (∀ c j, quadOf c = q → j < 15 → (s2.thr c j).st = .idle ∨ quadOf (s2.thr c j).home ≠ q) ∧
    ((s2.cluster home).heldAcc = [] → gone s2 → passed s2 s1)) ∧
  (32 ≤ cl ∨ (s.cluster cl).engineReset = true → exec (.engineReset cl) s = .next s) ∧
  (cl < 32 → (s.cluster cl).engineReset = false → ∃ s1 : State, exec (.engineReset cl) s = .next s1 ∧
    (s1.cluster cl).engineReset = true ∧ (s1.cluster cl).engineQ = [] ∧ (s1.cluster cl).engineRun = [] ∧
    (s1.cluster cl).lease = none ∧ (s1.cluster cl).bands = [] ∧
    ((s.cluster cl).lease = none → ∀ b ∈ (s.cluster cl).bands, zero s1 cl b.1)) ∧
  exec (.engineResetDone cl) s = .next (s.putCluster cl { s.cluster cl with engineReset := false }) ∧
  (cl < 32 → ∃ s1 : State, exec (.clusterReset cl) s = .next s1 ∧ (s1.cluster cl).engineReset = true ∧
    ∀ i, i < 16 → 16 * cl + i ∈ (s1.cluster cl).resetting) ∧
  (s.booted = false → exec (.routerFailure cl) s = .next s) ∧
  (s.booted = true → cl < 32 → ∃ s1 : State, exec (.routerFailure cl) s = .next s1 ∧ (s1.cluster cl).out = true ∧
    ∀ i, i < 16 → 16 * cl + i ∈ (s1.cluster cl).resetting)

/-- R138, R344, R345, R349: a corrected error is counted; an uncorrectable one poisons its doubleword and is logged; a
page that leaves a failing channel takes its bytes and its entry to the spare frame. The 16 links train while down;
the eighth replay within 2^20 cycles makes one retrain, and after three failures one more takes it down.

R336, R351 to R354: in cycles that are multiples of 1,024 a cluster's buckets take their registers and are refilled up
to their caps, and the controller chooses the rotations it gates, which THR counts by interval. At the stamp of a
trigger every enabled core that holds no snapshot latches. A start runs the boot steps, the second of which needs a
good fuse record; the cores are released when all that are required have succeeded. A quote signs the nonce and the
measurements. The model's choices here: that a start after one that went well begins from reset and what it keeps
(assumption 26), that the controller chooses its gating only in cycles that are multiples of 1,024 and that THR counts by
interval (28), that this end of a link supports version 1.0 and when it retrains (31), and that a channel is logged as
unit 0 (32). -/
def Obligations.ErrorsPowerBoot : Prop :=
  (∀ (s : State) (n loc lo hi minor : Nat) (f ta frame root pte sh : Nat),
    let x := s.link n
    let becomes := fun (i : Instr) (y : Link) => exec i s = .next { s with links := aset s.links n y }
    let recent := x.replays.filter (fun c => decide (s.cycle < c + 2 ^ 20)) ++ [s.cycle]
    let gone := (.next { s with links := aset s.links n {}, errors := s.errors ++ [(.link, n)] } : Out)
    let e := s.readW pte
    let spare := frame / 2 ^ sh * 2 ^ sh % 2 ^ 56
    exec (.eccCorrected n) s = .next { s with corrected := aset s.corrected n ((alook s.corrected n).getD 0 + 1) } ∧
    (loc < 2 ^ 56 ∨ 2 ^ 57 ≤ loc → ∃ s1 : State, exec (.poisonSet loc) s = .next s1 ∧ s1.mem = s.mem ∧ s1.empties = s.empties ∧
      s1.errors = s.errors ++ [(.data, loc)] ∧ ∀ p, s1.poisoned p = (s.poisoned p || dword p == dword loc)) ∧
    (s.mem.wf = true → (s.vf f).root = some root → leafPlace s ta [(30, 21), (21, 9), (16, 5)] root = some (pte, sh) →
      ∃ s1 : State, exec (.hbmChannelOffline [(f, ta, frame)]) s = .next s1 ∧
        s1.errors = s.errors ++ [(.channel, 0)] ∧ s1.readW pte = BitVec.ofNat 64 (e.toNat - pteFrame e + spare) ∧
        ∀ i, i < 2 ^ sh → (spare + i < pte ∨ pte + 8 ≤ spare + i) → s1.mem.byte (spare + i) = s.mem.byte (pteFrame e + i)) ∧
    (16 ≤ n ∨ x.up = true → exec (.linkTrain n lo hi minor) s = .next s) ∧
    (n < 16 → x.up = false →
      (lo ≤ 1 ∧ 1 ≤ hi → becomes (.linkTrain n lo hi minor) { up := true, version := 0x0100 }) ∧
      (¬(lo ≤ 1 ∧ 1 ≤ hi) → becomes (.linkTrain n lo hi minor) {}) ∧
      (∀ i ∈ [Instr.linkReplay n, .linkRetrain n true, .linkRetrain n false, .linkDown n], exec i s = .next s)) ∧
    (n < 16 → x.up = true →
      (recent.length < 8 → becomes (.linkReplay n) { x with replays := recent }) ∧
      (8 ≤ recent.length → becomes (.linkReplay n) { x with replays := [], training := true }) ∧
      becomes (.linkRetrain n true) { x with replays := [], failed := 0, training := false } ∧
      (x.failed < 3 → becomes (.linkRetrain n false) { x with replays := [], failed := x.failed + 1, training := true }) ∧
      (3 ≤ x.failed → exec (.linkRetrain n false) s = gone) ∧ exec (.linkDown n) s = gone)) ∧
  (∀ (s : State) (cl c n gated watts : Nat) (x : Core) (digests : List Word) (nonce : Word),
    let refill := exec (.bucketRefill cl) s
    let latch := exec .snapshotLatch s
    let on := x.snapCtl.getLsbD 0 = true ∧ x.snapCtl.getLsbD 2 = false ∧ (s.snapPin = true → x.snapCtl.getLsbD 1 = true)
    let thr := s.pwrstat.toNat / 2 ^ 32
    let steps := fun (r : List Bool) => exec (.boot r digests) s
    (s.cycle % 1024 ≠ 0 ∨ (s.cluster cl).refilled = s.cycle → refill = .next s) ∧
    (s.cycle % 1024 = 0 → (s.cluster cl).refilled ≠ s.cycle → (∀ k, (s.takeBuckets cl).lineWaits k 0 = false) → ∃ s1 : State, refill = .next s1 ∧
      SameMemory s s1 ∧ (s1.cluster cl).refilled = s.cycle ∧
      (alook s.cores c = some x → clusterOf c = cl → unlimited x.qhbm = false →
        let cap := x.qhbm.toNat / 2 ^ 32
        (s1.core c).qhbmNow = x.qhbm ∧ (s1.core c).hbmTok = min (min x.hbmTok cap + x.qhbm.toNat % 2 ^ 32) cap)) ∧
    (s.cycle % 1024 ≠ 0 ∨ s.gatedAt = s.cycle ∨ 15 < gated → exec (.gatingInterval gated watts) s = .next s) ∧
    (s.cycle % 1024 = 0 → s.gatedAt ≠ s.cycle → gated ≤ 15 → ∃ s1 : State, exec (.gatingInterval gated watts) s = .next s1 ∧
      s1.gates.headD 0 = gated ∧ s1.gatedAt = s.cycle ∧ s1.pwrstat.toNat % 2 ^ 16 = watts % 2 ^ 16 ∧ s1.pwrstat.toNat / 2 ^ 32 = thr) ∧
    s.nextInterval.pwrstat.toNat / 2 ^ 32 = (if s.gates.headD 0 = 0 then thr else min (thr + 1) (2 ^ 32 - 1)) ∧
    (s.snapAt = none → exec .snapshotPin s = .next { s with snapAt := some (s.cycle + Config.snapDelay), snapPin := true } ∧ latch = .next s) ∧
    (s.snapAt = some n →
      exec .snapshotPin s = .next s ∧ (s.cycle ≠ n → latch = .next s) ∧
      (s.cycle = n → alook s.cores c = some x → ∃ s1 : State, latch = .next s1 ∧ s1.snapAt = none ∧ (¬on → s1.core c = x) ∧
        (on → ∃ y, (s1.core c).snap = some y ∧ y.stamp = n ∧ y.pcs = x.slots.toList.map (·.pc) ∧
          (s1.core c).snapCtl.toNat = n % 2 ^ 48 * 2 ^ 16 + 4 + x.snapCtl.toNat % 4 ∧ (s1.core c).slots = x.slots))) ∧
    (s.booted = true → (∀ r, steps r = exec (.boot r digests) s.powerUp) ∧ s.powerUp.booted = false ∧ s.powerUp.bootNow = s.bootNow ∧
      s.powerUp.measured = s.measured ∧ s.powerUp.clusters = [] ∧ s.powerUp.cycle = 0) ∧
    (s.booted = false → s.bootNow = List.replicate 8 0 →
      (fusesGood s.fuses = true → ∃ s1 : State, steps (List.replicate 8 true) = .next s1 ∧ s1.booted = true ∧ s1.bootNow = List.replicate 8 2 ∧
        s1.bootPrev = s.bootNow ∧ s1.measured = s.measured ++ digests ∧ (s1.thr c 15).st = .run) ∧
      (fusesGood s.fuses = false → ∃ s1 : State, steps (List.replicate 8 true) = .next s1 ∧ s1.booted = false ∧
        s1.bootNow = 2 :: 0x0103 :: List.replicate 6 0) ∧
      (∃ s1 : State, steps [] = .next s1 ∧ s1.booted = false ∧ s1.bootNow = 0x0101 :: List.replicate 7 0) ∧
      (∃ s1 : State, steps [false] = .next s1 ∧ s1.booted = false ∧ s1.bootNow = 0x0103 :: List.replicate 7 0)) ∧
    exec (.attestationSign nonce) s = .next { s with signed := s.signed ++ [Config.signature (nonce :: s.measured)] })

/-- R340 to R343, R354: what the host's writes do to a function's mailbox, and what the control die does with the request
at REQHEAD: a MESSAGE reaches its inbox or is held for it, a QUERY gets the tenant's packages and quads, a register is
read or written within its ranges, a LAUNCH gets the handle of its entry, and anything else is refused with BADRQ set. A
refused register request is answered with the register's value, and a refused QUERY as one that is carried out. A
completion is written to the ring while there is room. That the control die agrees on version 1.0 with every major from 1
up, that reserved bits of PWRLIM are refused, and that a held MESSAGE whose target has left the tenant is refused, is the
model's choice (assumption 27). -/
def Obligations.MailboxWork : Prop := ∀ (s : State) (fn off : Nat) (v : Word) (e : MbEntry) (c : Nat) (l : List Entry) (i n : Nat),
  let m := s.mailbox fn
  let put := fun (m : Mailbox) => (.next { s with mailboxes := aset s.mailboxes fn m } : Out)
  let legal := fn ≤ 512 ∧ v.toNat / 2 ^ 17 = 0
  let head := { m with reqHead := m.reqHead + 1 }
  let up1 : Mailbox :=
    { m with mbopen := v, badrq := false, version := 0x0100, opened := true, down := false, reqTail := 0, reqHead := 0
             cplHead := 0, cplTail := 0 }
  let up0 : Mailbox := { m with mbopen := v, badrq := false, version := 0, opened := false, down := true }
  let tag := (e.at_ 0).toNat / 2 ^ 16 % 2 ^ 16
  let reply := fun (kind status low : Nat) (d2 : Word) => ([BitVec.ofNat 64 (status * 2 ^ 32 + kind), BitVec.ofNat 64 (tag * 2 ^ 32 + low), d2,
    BitVec.ofNat 64 s.cycle] : MbEntry)
  let answered := fun (i : Instr) (kind low : Nat) (d2 : Word) (p : State → Prop) => ∃ s1 : State, exec i s = .next s1 ∧
    s1.mailbox fn = { head with waiting := m.waiting ++ [reply kind 0 low d2] } ∧ p s1
  let refused := fun (i : Instr) (kind : Nat) (code : Byte) (d2 : Word) =>
    exec i s = put { head with badrq := true, waiting := m.waiting ++ [reply kind code.toNat 0 d2] }
  let takes := fun (k : Nat) => s.nextRequest fn = some e ∧ e.kind = k ∧ e.reservedOk = true ∧ kindAllowed fn k = true
  let target := BitVec.ofNat 64 (s.pkg.toNat * 2048 + c)
  (legal → v.getLsbD 16 = true →
    (1 ≤ v.toNat / 256 % 256 → exec (.mailboxOpen fn v) s = put up1) ∧
    (v.toNat / 256 % 256 = 0 → exec (.mailboxOpen fn v) s = put up0)) ∧
  (legal → v.getLsbD 16 = false → exec (.mailboxClose fn v) s = put { m with mbopen := v, opened := false, version := 0 }) ∧
  (¬legal → exec (.mailboxOpen fn v) s = .next s ∧ exec (.mailboxClose fn v) s = .next s) ∧
  (fn ≤ 512 → v.toNat % 4096 = 0 → m.opened = false →
    exec (.mailboxRegisterWrite fn 0x010 v) s = put { m with reqBase := v } ∧
    exec (.mailboxRegisterWrite fn 0x018 v) s = put { m with cplBase := v }) ∧
  (v.toNat % 4096 ≠ 0 ∨ m.opened = true → exec (.mailboxRegisterWrite fn off v) s = .next s) ∧
  (fn ≤ 512 → v.toNat < 256 → exec (.reqtailWrite fn v) s = put { m with reqTail := v.setWidth 8 } ∧
    exec (.cplheadWrite fn v) s = put { m with cplHead := v.setWidth 8 }) ∧
  (m.held = [] → takes 2 → c < 2048 → e.at_ 1 = target → s.owner c = fn - 1 → s.coreOut c = false → s.quadDown c = false →
    (s.core c).inbox.length < 1024 → (s.core c).dqWaiters = [] → answered (.reqMessage fn) 0x22 0 0 (fun s1 =>
      (s1.core c).inbox = (s.core c).inbox ++ [.ofWords (e.at_ 4) (e.at_ 5) (e.at_ 6) (e.at_ 7)])) ∧
  (∀ rest msg t, m.held = (c, msg, t) :: rest →
    let back := fun (status : Nat) => ([BitVec.ofNat 64 (status * 2 ^ 32 + 0x22), BitVec.ofNat 64 (t.toNat * 2 ^ 32), 0,
      BitVec.ofNat 64 s.cycle] : MbEntry)
    let theirs := s.isCoreOf c (fn - 1) = false ∨ s.coreOut c = true
    let room := (s.core c).inbox.length < 1024 ∧ s.quadDown c = false
    (theirs → exec (.reqMessage fn) s = put { m with held := rest, badrq := true, waiting := m.waiting ++ [back cBADWIN.toNat] }) ∧
    (¬theirs → ¬room → exec (.reqMessage fn) s = .next s) ∧
    (¬theirs → room → (s.core c).dqWaiters = [] → ∃ s1 : State, exec (.reqMessage fn) s = .next s1 ∧
      s1.mailbox fn = { m with held := rest, waiting := m.waiting ++ [back 0] } ∧ (s1.core c).inbox = (s.core c).inbox ++ [msg])) ∧
  (let holds := BitVec.ofNat 64 ((s.vf (fn - 1)).scopepol.toNat / 2 ^ 32 * 2 ^ 32 +
     ((List.range 512).filter (fun q => s.quadOwner q == fn - 1)).length)
   (takes 3 → 1 ≤ fn → answered (.reqQuery fn) 0x23 0 holds (fun s1 => SameMemory s s1)) ∧
   (s.nextRequest fn = some e → e.kind = 3 → e.reservedOk = false → 1 ≤ fn → refused (.reqQuery fn) 0x23 cILLOP holds)) ∧
  (takes 4 → e.cregWrite = false →
    (e.creg = 1 → answered (.reqCregRead fn) 0x24 0 s.pwrlim (fun s1 => s1.pwrlim = s.pwrlim)) ∧
    (e.creg = 2 → answered (.reqCregRead fn) 0x24 0 s.pwrstatNow (fun s1 => s1.pwrlim = s.pwrlim))) ∧
  (takes 4 → e.cregWrite = true → e.creg = 1 →
    let amps := (e.at_ 2).toNat / 2 ^ 32
    let watts := (e.at_ 2).toNat % 2 ^ 32
    (2000 ≤ amps ∧ amps ≤ 7500 ∧ 1000 ≤ watts ∧ watts ≤ 3600 →
      answered (.reqCregWrite fn) 0x24 0 (e.at_ 2) (fun s1 => s1.pwrlim = e.at_ 2)) ∧
    (¬(2000 ≤ amps ∧ amps ≤ 7500 ∧ 1000 ≤ watts ∧ watts ≤ 3600) → refused (.reqCregWrite fn) 0x24 cILLCFG s.pwrlim)) ∧
  (takes 4 → e.cregWrite = true → e.creg = 2 → refused (.reqCregWrite fn) 0x24 cILLCFG s.pwrstatNow) ∧
  (s.nextRequest fn = some e → e.kind = 0 ∨ 4 < e.kind → refused (.reqUnlistedKind fn) 0x25 cILLOP 0) ∧
  (takes 1 → (e.at_ 2).toNat ≠ 0 → (e.at_ 2).toNat % 16 = 0 → taOnChip (e.at_ 2).toNat = false → lwLaunchOk e.params = true →
    lwTrace e.params = false → e.params.w3 = 0 → s.readTable (fn - 1) (e.at_ 2).toNat 16 = .ok l → tableCause l = none →
    let die := lwDieField e.params
    (∀ k, (s.die die).freeEntry = some k → ∃ x : Launch, alook (s.die die).launches k = none ∧
      answered (.reqLaunch fn) 0x21 x.handle.toNat 0 (fun s1 => alook (s1.die die).launches k = some x ∧ x.vf = fn - 1 ∧
        x.p = e.params ∧ x.arg = e.at_ 1 ∧ x.inbox = .mailbox fn e.tag ∧ x.next = 0)) ∧
    ((s.die die).freeEntry = none → exec (.reqLaunch fn) s = put { head with waiting := m.waiting ++ [reply 0x21 0x200 0 0] })) ∧
  (∀ rest, m.waiting = e :: rest →
    (m.opened = false ∨ m.cplTail + 1 = m.cplHead → exec (.mailboxCompletion fn) s = .next s) ∧
    (m.opened = true → m.cplTail + 1 ≠ m.cplHead → i < 4 → e[i]? = some v → e.length = 4 →
      n = 2 ^ 45 + (m.cplBase.toNat + 32 * m.cplTail.toNat) % 2 ^ 45 + 8 * i →
      ∃ s1 : State, exec (.mailboxCompletion fn) s = .next s1 ∧ s1.mem.read n 8 = v.toNat ∧
        s1.mailbox fn = { m with waiting := rest, cplTail := m.cplTail + 1, msix := m.msix + 1 }))

/-! ## What may not run, and what is left alone -/

/-- R76, R290: an ill-formed word raises ILLOP with TVAL the word. A thread with TM set may execute no instruction of
those listed here: PRIV, with TVAL the word. Both come before anything else the instruction does. -/
def Obligations.BarredInstructions : Prop := ∀ (s : State) (i : Instr) (d a b : Reg) (l : BitVec 4) (p : Params) (k : BitVec 1)
    (u v w : BitVec 3) (m : BitVec 2), blocked i s = false →
  (i.isStep = false → i.wf = false → exec i s = .next (s.trapped cILLOP (i.word.setWidth 64))) ∧
  (i.wf = true → s.me.tm = true → i ∈ [
    .bankcfg d a b l k, .bankjoin d l, .send d a l, .dq d a l k, .migrate d, .scfg d a b l p, .scfg2 d a b l p, .srel d l p,
    .vadd u v w d m, .vsub u v w d m, .vmul u v w d m, .vfma u v w d m, .vmin u v w d m, .vmax u v w d m, .vabs u v m, .vneg
    u v m, .vcvt u v m, .vsel u v w d, .vcmp u v w d a m, .vred u v d m, .vscan u v d m, .vdot u v w d m, .vexp u v, .vlog u
    v, .vrcp u v, .vrsq u v, .vtanh u v, .vsigm u v, .vfence, .mlease l p, .mfree p, .mwait p, .mloadb d a l p, .mcb d l p,
    .mzero d a l p, .mma d a b l k p, .mmas d a b l k p, .mepi d a b l p, .mprog l p, .mrec d a b l p, .mocmp d a b l p,
    .btld d a l, .btst d a l, .btand d a b l, .btor d a b l, .btxor d a b l, .btnot d a l, .bttrn d a l, .btcomp d a b l,
    .btclo d a l k, .btrc d a b l, .launch d a b l p, .start d a, .reap d, .bar d u, .spawn d a l, .copy d a l p, .gath d a
    l p, .scat d a l p, .tblset d a l p, .tblsw d a l p, .shstat d l p, .rmig d a b l p, .trregCreate d a b l p,
    .trregRegion d a b l p, .trregArm d a b l p, .trregFree d a b l p, .relaunch d a l k p, .trinfo d l p, .tmodeOn d,
    .tmodeOff, .eret d, .eretSys d, .eretUser d, .xec d a, .icinv d, .tlbinv d, .swapctx d a, .swapctxOut d a, .swapctxIn d
    a, .snap d, .halt d, .cred d a l p, .cbcast d a b l p] →
    exec i s = .next (s.trapped cPRIV (i.word.setWidth 64)))

/-- R59, R62, R99 to R107, R151, R309: what the integer, branch and register-reading instructions leave alone when they do
not trap: all memory, every other thread, every x register but x[rd], every f and g register, flag and special
register of the thread, and all else of the machine. Only x[rd], the pc, and the progress of the thread (occupancy,
XW, the windows of instructions in flight) may change. x0 reads 0 and discards writes.

R38, R108 to R113: what the scalar floating-point instructions leave alone when they do not trap and none of their f
registers is a view of a configured stream: as above, with one f or x register written; of FCSR, RM stays and no flag
is cleared. -/
def Obligations.ScalarFrames : Prop :=
  (∀ (s : State) (d a b c : Reg) (i8 : BitVec 16) (n p : BitVec 6) (j : BitVec 21) (u : BitVec 3)
      (k : BitVec 12) (i : Instr) (dest : Option Reg), (i, dest) ∈ [
      (.add d a b, some d), (.sub d a b, some d), (.and d a b, some d), (.or d a b, some d), (.xor d a b, some d), (.sll d a b, some d),
      (.srl d a b, some d), (.sra d a b, some d), (.slt d a b, some d), (.sltu d a b, some d), (.min d a b, some d), (.max d a b, some d),
      (.minu d a b, some d), (.maxu d a b, some d), (.mul d a b, some d), (.mulh d a b, some d), (.mulhu d a b, some d),
      (.div d a b, some d), (.divu d a b, some d), (.rem d a b, some d), (.remu d a b, some d), (.clz d a, some d), (.ctz d a, some d),
      (.popc d a, some d), (.sel d a b c, some d), (.addi d a i8, some d), (.andi d a i8, some d), (.ori d a i8, some d),
      (.xori d a i8, some d), (.slti d a i8, some d), (.sltiu d a i8, some d), (.slli d a n, some d), (.srli d a n, some d),
      (.srai d a n, some d), (.extr d a n p, some d), (.insr d a n p, some d), (.lui d i8, some d), (.addpc d i8, some d),
      (.jal d j, some d), (.jalr d a i8, some d), (.segrd d a b, some d), (.sysrd d k, some d), (.gvtrd d, some d),
      (.beq a b i8, none), (.bne a b i8, none), (.blt a b i8, none), (.bge a b i8, none), (.bltu a b i8, none), (.bgeu a b i8, none),
      (.bst u i8, none), (.bstN u i8, none)] →
    Issues i s → (∀ code v, exec i s ≠ .next (s.trapped code v)) →
    ∃ t : State, exec i s = .next t ∧ SameMemory s t ∧ SameOthers s t ∧ (∀ q, some q ≠ dest → t.me.rx q = s.me.rx q) ∧ t.me.rx 0 = 0 ∧
      t.me = { s.me with x := t.me.x, pc := t.me.pc, busy := t.me.busy, xw := t.me.xw, pend := t.me.pend,
                          passed := t.me.passed } ∧
      t = { s with cores := t.cores } ∧ ∀ c, t.core c = { s.core c with slots := (t.core c).slots }) ∧
  (∀ (s : State) (d a b c : Reg) (m u : BitVec 3) (i : Instr) (dx df : Option Reg), (i, dx, df) ∈ [
      (.fadd d a b m, none, some d), (.fsub d a b m, none, some d), (.fmul d a b m, none, some d), (.fdiv d a b m, none, some d),
      (.fsqrt d a m, none, some d), (.fma d a b c m, none, some d), (.fms d a b c m, none, some d), (.fnma d a b c m, none, some d),
      (.fnms d a b c m, none, some d), (.fmin d a b, none, some d), (.fmax d a b, none, some d), (.fsgn d a b u, none, some d),
      (.fmvfx d a, none, some d), (.fcvt d a m 0, none, some d), (.fcvt d a m 1, none, some d), (.fcvt d a m 4, none, some d),
      (.fcvt d a m 5, none, some d), (.fcvt d a m 6, none, some d), (.fcvt d a m 7, none, some d), (.fcvt d a m 2, some d, none),
      (.fcvt d a m 3, some d, none), (.feq d a b, some d, none), (.flt d a b, some d, none), (.fle d a b, some d, none),
      (.fclass d a, some d, none), (.fmvxf d a, some d, none)] →
    Issues i s → (∀ q ∈ [d, a, b, c], s.me.viewOf q = none) → (∀ code v, exec i s ≠ .next (s.trapped code v)) →
    ∃ t : State, exec i s = .next t ∧ SameMemory s t ∧ SameOthers s t ∧ (∀ q, some q ≠ dx → t.me.rx q = s.me.rx q) ∧
      (∀ q, some q ≠ df → t.me.rf q = s.me.rf q) ∧ t.me.fcsr.toNat / 2 ^ 5 = s.me.fcsr.toNat / 2 ^ 5 ∧
      (∀ n, s.me.fcsr.getLsbD n = true → t.me.fcsr.getLsbD n = true) ∧
      t.me = { s.me with x := t.me.x, f := t.me.f, fcsr := t.me.fcsr, pc := t.me.pc, busy := t.me.busy, xw := t.me.xw,
                          pend := t.me.pend, passed := t.me.passed } ∧
      t = { s with cores := t.cores } ∧ ∀ c, t.core c = { s.core c with slots := (t.core c).slots })

/-- R59, R120, R147 to R154: a memory instruction changes at issue no memory, no register of its thread and no other
thread; performed at PLAIN storage, a load changes no memory, and a store or an atomic no byte but those it covers,
from its place on; registers are written when it completes. -/
def Obligations.AccessFrames : Prop := ∀ (s t : State) (d a b : Reg) (l : BitVec 4) (x : BitVec 1) (z : BitVec 3) (j : BitVec 8) (i : Instr)
    (r : Ref) (p : Pending) (c off n : Nat),
  (i ∈ [.ld d a l x z j, .st d a l x z j, .ldf d a l x z j, .stf d a l x z j, .ldfe d a l j, .ldff d a l j, .stef d a l j, .stff d a l j,
      .sete d a l j, .setf d a l j, .amoadd d a b l x, .amoand d a b l x, .amoor d a b l x, .amoxor d a b l x, .amomin d a b l x,
      .amomax d a b l x, .amoswap d a b l x, .cas d a b l x, .segld d a l, .bankcfg d a b l x, .bankq d a l, .bankjoin a l, .send d a l,
      .dq d a l x, .spawn d a l, .tsend d a b l] → exec i s = .next t →
    SameMemory s t ∧ SameOthers s t ∧ t.me.x = s.me.x ∧ t.me.f = s.me.f ∧ t.me.g = s.me.g ∧ t.me.fcsr = s.me.fcsr ∧ t.me.ovfc = s.me.ovfc ∧
      t.me.live = s.me.live ∧ t.me.cbk = s.me.cbk ∧ t.me.mxsb = s.me.mxsb ∧ t.me.bs = s.me.bs) ∧
  (AtPlainBank s r p c off → (p.ins, n) ∈ [(.ld d a l x z j, 0), (.ldf d a l x z j, 0), (.st d a l x z j, 2 ^ z.toNat),
      (.stf d a l x z j, 2 ^ z.toNat), (.amoadd d a b l x, if x = 1 then 8 else 4), (.amoand d a b l x, if x = 1 then 8 else 4),
      (.amoor d a b l x, if x = 1 then 8 else 4), (.amoxor d a b l x, if x = 1 then 8 else 4), (.amomin d a b l x, if x = 1 then 8 else 4),
      (.amomax d a b l x, if x = 1 then 8 else 4), (.amoswap d a b l x, if x = 1 then 8 else 4), (.cas d a b l x, if x = 1 then 8 else 4)] →
    atBank s r = .next t →
    (∀ y, y < scratchLoc c off ∨ scratchLoc c off + n ≤ y → t.mem.byte y = s.mem.byte y) ∧
    ∀ q k, (t.thr q k).x = (s.thr q k).x ∧ (t.thr q k).f = (s.thr q k).f ∧ (t.thr q k).g = (s.thr q k).g ∧
      (t.thr q k).fcsr = (s.thr q k).fcsr ∧ (t.thr q k).pc = (s.thr q k).pc)

/-! ## Reset, steps, encodings, and the whole machine -/

/-- What State.reset holds: memory lists nothing, every slot is Idle with its registers 0, LIVE all ones but bit 0 and SYS
set in slot 15 only; QHBM, QNET and QWGT unlimited, PWRLIM at its default, and an empty boot record. The values that
the manual gives are those of R23, R37, R46, R63, R66, R69, R93, R163, R254, R287, R333, R337 and R354; that registers
without a reset value, and the boot record, hold 0 is the model's choice (assumption 4), and so is the byte that
unwritten memory reads as (assumption 2). -/
def Obligations.ResetState : Prop := ∀ (c k f : Nat) (q : Reg) (a : Nat),
  let s := State.reset
  let t := s.thr c k
  let x := s.core c
  s.mem.wf = true ∧ s.mem.byte a = Config.unwritten ∧ s.poisons = [] ∧ s.empties = [] ∧
  t.st = .idle ∧ t.held = false ∧ t.rx q = 0 ∧ t.rf q = 0 ∧ t.pc = 0 ∧ t.fcsr = 0 ∧ t.ovfc = 0 ∧ t.bs = bsOK ∧ t.tm = false ∧
  t.live = ~~~(1 : Word) ∧ (t.sys = true ↔ k = 15) ∧ t.pend = [] ∧ (∀ n, t.rg n = 0) ∧ t.mxsb = 0 ∧ (∀ n : Fin 16, t.cbk[n] = 0) ∧
  t.epc = 0 ∧ t.cause = 0 ∧ t.tval = 0 ∧
  x.stopped = false ∧ x.qhbm = BitVec.allOnes 64 ∧ x.qnet = BitVec.allOnes 64 ∧ x.qwgt = 0x0101 ∧ x.tccCtl = 0 ∧ x.vt = none ∧ x.inbox = [] ∧
  (c < coreCount → s.owner c = 0) ∧ (s.vf f).scopepol = 0 ∧ (s.vf f).gvt = 0 ∧ s.pwrlim.toNat = 7500 * 2 ^ 32 + 3600 ∧
  s.booted = false ∧ s.bootNow = List.replicate 8 0 ∧ s.cycle = 0

/-- R54, R58, R96, R98, R325: when the wheel turns to a thread, a step runs the instruction that the bytes at its pc
decode to, in the state in which that core has had its turn. The word at the pc is read where its tenant address
stands; an L-format word takes the four after it; a word that XEC left is executed instead. A fetch of memory that no
line of the cache serves needs a token of the core's bucket and spends it, once a line (R335), and a thread does not
issue while its fetch cannot be paid for. That a fetch is counted so, and what one from root-port space gives, is the
model's choice (assumption 20).

R163: a FENCE, CRED or CBCAST that passes the check of its scope and has to wait only takes note of that, and is
executed in a later turn, without another fetch (assumption 54). -/
def Obligations.StepRunsDecodedInstruction : Prop := ∀ (s s0 : State) (rest : List Pick) (c k : Nat) (lent : Bool) (i : Instr)
    (w w0 w1 w2 w3 : Word32) (pc : Word) (loc j b b2 : Nat),
  (s.schedule = .wheel :: rest ∧ s0 = { s with schedule := rest }) ∨ (s.schedule = [] ∧ s.hardware = none ∧ s0 = s) →
  s0.nextIssue = some (c, k, lent) →
  let s1 := s0.spent c k lent
  let t := s1.thr c k
  let g := t.rg (pc.toNat / 2 ^ 61)
  let off := pc.toNat % 2 ^ 61
  let ta := g.toNat % 2 ^ 52 + off
  let uncached := (s1.core c).lineFor (s1.owner c) ta t.sys = none
  let passes := checksScope i = true ∧ t.passed = none ∧ blocked i s1 = false ∧ held i s1 = true
  let runs := fun (paid : State) => (¬passes → step s = exec i paid) ∧
    (passes → step s = .next (paid.modThr c k (fun t => { t with passed := some i })))
  (pc.toNat % 4 = 0 → g.getLsbD 118 = true → (g.getLsbD 120 = true → t.sys = true) → off < g.toNat / 2 ^ 64 % 2 ^ 52 → ta < 2 ^ 52 →
    uncached → s1.codePlace c ta 4 t.sys = .at loc → isRootPort loc = false →
    (taOnChip ta = true ∨ (s1.core c).hasToken (bucketOf loc) = true → s1.poisonIn loc 4 = none → loc % 4 = 0 →
      s1.fetchWord c t pc = .ok (BitVec.ofNat 32 (s1.mem.read loc 4))) ∧
    (taOnChip ta = false → (s1.core c).hasToken (bucketOf loc) = false → s1.fetchWord c t pc = .wait)) ∧
  (t.xw = none → pc = t.pc →
    (taOnChip ta = true ∨ ¬uncached → s1.payFetch c t 1 = s1) ∧
    (taOnChip ta = false → uncached → s1.codePlace c ta 4 t.sys = .at loc → s1.payFetch c t 1 = s1.spend c (bucketOf loc))) ∧
  (t.xw = none → pc = t.pc → off + 20 ≤ 2 ^ 61 → 0 < j → j < 5 → (ta + 4 * j) % 128 = 0 → s1.fetchBucket c t pc = some b →
    s1.fetchBucket c t (pc + BitVec.ofNat 64 (4 * j)) = some b2 → s1.payFetch c t 5 = (s1.spend c b).spend c b2) ∧
  (s1.fetchPaid c t = false → s1.issues c k = false) ∧
  (∀ n, SameMemory s1 (s1.payFetch c t n) ∧ ∀ q j, (s1.payFetch c t n).thr q j = s1.thr q j) ∧
  (t.passed = none → t.xw = none → s1.fetchWord c t t.pc = .ok w → decode (bytesOfWord w) = .ok (i, 1) → runs (s1.payFetch c t 1)) ∧
  (t.passed = none → t.xw = none → s1.fetchWord c t t.pc = .ok w → s1.fetchWord c t (t.pc + 4) = .ok w0 → s1.fetchWord c t (t.pc + 8) = .ok w1 →
    s1.fetchWord c t (t.pc + 12) = .ok w2 → s1.fetchWord c t (t.pc + 16) = .ok w3 → (∀ p ∈ [w0, w1, w2, w3], p.toNat / 2 ^ 27 ≠ 31) →
    decode ([w, w0, w1, w2, w3].flatMap bytesOfWord) = .ok (i, 5) → runs (s1.payFetch c t 5)) ∧
  (t.passed = none → t.xw = some w → s1.fetchWord c t (t.pc + 4) = .ok w0 → s1.fetchWord c t (t.pc + 8) = .ok w1 →
    s1.fetchWord c t (t.pc + 12) = .ok w2 → s1.fetchWord c t (t.pc + 16) = .ok w3 → (∀ p ∈ [w0, w1, w2, w3], p.toNat / 2 ^ 27 ≠ 31) →
    decode ([w, w0, w1, w2, w3].flatMap bytesOfWord) = .ok (i, 5) → runs (s1.payFetch c t 5)) ∧
  (t.passed = none → t.xw = some w → decode (bytesOfWord w) = .ok (i, 1) → runs s1) ∧
  (t.passed = some i → step s = exec i s1)

/-- R54 to R57, R71 to R76: words written out from the encodings of the manual decode to their instructions; 0 and all
ones, and every word of an unassigned major, decode to none. -/
def Obligations.WrittenWordsDecode : Prop :=
  decodeTableWord 32 0x04611000 = some (.add 3 1 2) ∧ decodeTableWord 32 0x80C93E02 = some (.ld 6 9 3 1 6 2) ∧
  decodeTableWord 32 0xA4221938 = some (.fma 1 2 3 4 7) ∧ decodeTableWord 32 0xF0A02010 = some (.sysrd 5 0x010) ∧
  decodeTableWord 32 0xF4000000 = some .brk ∧ decodeTableWord 32 0x98000010 = some (.fence 1) ∧
  decodeTableWord 32 0xD0063800 = some (.start 6 7) ∧ decodeTableWord 32 0xDCE00004 = some (.gvtrd 7) ∧
  decodeTableWord 160 0xD80A5800 = some (.copy 10 11 0 ⟨0, 0, 0, 0⟩) ∧ decodeTableWord 160 0xE0A60000 = some (.cred 5 6 0 ⟨0, 0, 0, 0⟩) ∧
  decodeTableWord 32 0 = none ∧ decodeTableWord 32 0xFFFFFFFF = none ∧
  ∀ w : Word32, w.toNat / 2 ^ 26 ∈ [0x00, 0x0D, 0x0E, 0x0F, 0x19, 0x1A, 0x1B, 0x1C, 0x1D, 0x1E, 0x1F, 0x27, 0x2A, 0x2B, 0x2F, 0x32, 0x33, 0x39,
    0x3A, 0x3B, 0x3E, 0x3F] → decode (bytesOfWord w) = .error .unassignedMajor

/-- R54 to R76: decoding the bytes of a well-formed instruction, laid out as R2 says, gives the instruction, with every
operand, and all its words. -/
def Obligations.DecodeEncodeAgree : Prop := ∀ i : Instr, i.wf = true → i.isStep = false →
  decode ((encode i).flatMap bytesOfWord) = .ok (i, (encode i).length)

/-- No instruction and no step of the package is refused or faults, whatever its state. That nothing stops it is the
model's own: the manual gives each instruction an effect or a trap (R310), and where it gives a value or a device no
more than a name the model goes on with a free value (NOTES.md, Stops; assumption 20). -/
def Obligations.NothingStops : Prop := ∀ (s : State),
  (∀ i r, exec i s ≠ .refused r) ∧ (∀ r, step s ≠ .refused r) ∧ (∀ i f, exec i s ≠ .fault f) ∧ ∀ f, step s ≠ .fault f

/-- R2: the byte memory is kept in one form, its places rising and nothing listed that an unlisted place would read as
(the form is the model's own), by every instruction, every step of the hardware and every turn of the machine. -/
def Obligations.MemoryStaysCanonical : Prop := ∀ (s s' : State) (i : Instr), s.mem.wf = true →
  (exec i s = .next s' → s'.mem.wf = true) ∧ (step s = .next s' → s'.mem.wf = true)

end Statements
end

