-- ==== Sys2Proof/Laws/Exec.lean ====
section
/-!
SUPPORT. Laws/Exec.lean: each arm of exec by name, and what an issue comes to once nothing holds the instruction back.
-/
namespace Sys2Proof.Machine

/-- An instruction that issues comes to the outcome of its own meaning. -/
theorem issue_of_issues {i : Instr} {s : State} (h : Issues i s) (body : Thread → State → Act) :
    issue i s body = settle i s (body s.me s) := by
  obtain ⟨h1, h2, h3, h4⟩ := h
  simp only [issue, h1, h2, h3, h4, Bool.false_eq_true, if_false, Bool.not_true]

theorem settle_ok (i : Instr) (s s' : State) : settle i s (.ok s') = .next (s.onward i s') := rfl
theorem settle_jump (i : Instr) (s s' : State) (v : Word) : settle i s (.jump s' v) = .next (s.jumped i s' v) := rfl
theorem settle_gone (i : Instr) (s s' : State) : settle i s (.gone s') = .next s' := rfl
theorem settle_trap (i : Instr) (s : State) (f : Fail) : settle i s (.trap f) = .next (s.failNow f) := rfl
theorem settle_fail (i : Instr) (s : State) (c : Byte) (v : Word) : settle i s (.fail c v) = .next (s.trapped c v) := rfl
theorem writeX_eq (d : Reg) (v : Word) (t : Thread) (s : State) : writeX d v t s = .ok (s.putMe (t.wx d v)) := rfl

theorem exec_add (d : BitVec 5) (a : BitVec 5) (b : BitVec 5) (st : State) : exec (.add d a b) st = execAdd d a b st := rfl
theorem exec_sub (d : BitVec 5) (a : BitVec 5) (b : BitVec 5) (st : State) : exec (.sub d a b) st = execSub d a b st := rfl
theorem exec_and (d : BitVec 5) (a : BitVec 5) (b : BitVec 5) (st : State) : exec (.and d a b) st = execAnd d a b st := rfl
theorem exec_or (d : BitVec 5) (a : BitVec 5) (b : BitVec 5) (st : State) : exec (.or d a b) st = execOr d a b st := rfl
theorem exec_xor (d : BitVec 5) (a : BitVec 5) (b : BitVec 5) (st : State) : exec (.xor d a b) st = execXor d a b st := rfl
theorem exec_sll (d : BitVec 5) (a : BitVec 5) (b : BitVec 5) (st : State) : exec (.sll d a b) st = execSll d a b st := rfl
theorem exec_srl (d : BitVec 5) (a : BitVec 5) (b : BitVec 5) (st : State) : exec (.srl d a b) st = execSrl d a b st := rfl
theorem exec_sra (d : BitVec 5) (a : BitVec 5) (b : BitVec 5) (st : State) : exec (.sra d a b) st = execSra d a b st := rfl
theorem exec_slt (d : BitVec 5) (a : BitVec 5) (b : BitVec 5) (st : State) : exec (.slt d a b) st = execSlt d a b st := rfl
theorem exec_sltu (d : BitVec 5) (a : BitVec 5) (b : BitVec 5) (st : State) : exec (.sltu d a b) st = execSltu d a b st := rfl
theorem exec_min (d : BitVec 5) (a : BitVec 5) (b : BitVec 5) (st : State) : exec (.min d a b) st = execMin d a b st := rfl
theorem exec_max (d : BitVec 5) (a : BitVec 5) (b : BitVec 5) (st : State) : exec (.max d a b) st = execMax d a b st := rfl
theorem exec_minu (d : BitVec 5) (a : BitVec 5) (b : BitVec 5) (st : State) : exec (.minu d a b) st = execMinu d a b st := rfl
theorem exec_maxu (d : BitVec 5) (a : BitVec 5) (b : BitVec 5) (st : State) : exec (.maxu d a b) st = execMaxu d a b st := rfl
theorem exec_mul (d : BitVec 5) (a : BitVec 5) (b : BitVec 5) (st : State) : exec (.mul d a b) st = execMul d a b st := rfl
theorem exec_mulh (d : BitVec 5) (a : BitVec 5) (b : BitVec 5) (st : State) : exec (.mulh d a b) st = execMulh d a b st := rfl
theorem exec_mulhu (d : BitVec 5) (a : BitVec 5) (b : BitVec 5) (st : State) : exec (.mulhu d a b) st = execMulhu d a b st := rfl
theorem exec_div (d : BitVec 5) (a : BitVec 5) (b : BitVec 5) (st : State) : exec (.div d a b) st = execDiv d a b st := rfl
theorem exec_divu (d : BitVec 5) (a : BitVec 5) (b : BitVec 5) (st : State) : exec (.divu d a b) st = execDivu d a b st := rfl
theorem exec_rem (d : BitVec 5) (a : BitVec 5) (b : BitVec 5) (st : State) : exec (.rem d a b) st = execRem d a b st := rfl
theorem exec_remu (d : BitVec 5) (a : BitVec 5) (b : BitVec 5) (st : State) : exec (.remu d a b) st = execRemu d a b st := rfl
theorem exec_clz (d : BitVec 5) (a : BitVec 5) (st : State) : exec (.clz d a) st = execClz d a st := rfl
theorem exec_ctz (d : BitVec 5) (a : BitVec 5) (st : State) : exec (.ctz d a) st = execCtz d a st := rfl
theorem exec_popc (d : BitVec 5) (a : BitVec 5) (st : State) : exec (.popc d a) st = execPopc d a st := rfl
theorem exec_sel (d : BitVec 5) (a : BitVec 5) (b : BitVec 5) (c : BitVec 5) (st : State) : exec (.sel d a b c) st = execSel d a b c st := rfl
theorem exec_addi (d : BitVec 5) (a : BitVec 5) (i : BitVec 16) (st : State) : exec (.addi d a i) st = execAddi d a i st := rfl
theorem exec_andi (d : BitVec 5) (a : BitVec 5) (i : BitVec 16) (st : State) : exec (.andi d a i) st = execAndi d a i st := rfl
theorem exec_ori (d : BitVec 5) (a : BitVec 5) (i : BitVec 16) (st : State) : exec (.ori d a i) st = execOri d a i st := rfl
theorem exec_xori (d : BitVec 5) (a : BitVec 5) (i : BitVec 16) (st : State) : exec (.xori d a i) st = execXori d a i st := rfl
theorem exec_slti (d : BitVec 5) (a : BitVec 5) (i : BitVec 16) (st : State) : exec (.slti d a i) st = execSlti d a i st := rfl
theorem exec_sltiu (d : BitVec 5) (a : BitVec 5) (i : BitVec 16) (st : State) : exec (.sltiu d a i) st = execSltiu d a i st := rfl
theorem exec_slli (d : BitVec 5) (a : BitVec 5) (n : BitVec 6) (st : State) : exec (.slli d a n) st = execSlli d a n st := rfl
theorem exec_srli (d : BitVec 5) (a : BitVec 5) (n : BitVec 6) (st : State) : exec (.srli d a n) st = execSrli d a n st := rfl
theorem exec_srai (d : BitVec 5) (a : BitVec 5) (n : BitVec 6) (st : State) : exec (.srai d a n) st = execSrai d a n st := rfl
theorem exec_extr (d : BitVec 5) (a : BitVec 5) (w : BitVec 6) (p : BitVec 6) (st : State) : exec (.extr d a w p) st = execExtr d a w p st := rfl
theorem exec_insr (d : BitVec 5) (a : BitVec 5) (w : BitVec 6) (p : BitVec 6) (st : State) : exec (.insr d a w p) st = execInsr d a w p st := rfl
theorem exec_lui (d : BitVec 5) (i : BitVec 16) (st : State) : exec (.lui d i) st = execLui d i st := rfl
theorem exec_addpc (d : BitVec 5) (i : BitVec 16) (st : State) : exec (.addpc d i) st = execAddpc d i st := rfl
theorem exec_beq (a : BitVec 5) (b : BitVec 5) (i : BitVec 16) (st : State) : exec (.beq a b i) st = execBeq a b i st := rfl
theorem exec_bne (a : BitVec 5) (b : BitVec 5) (i : BitVec 16) (st : State) : exec (.bne a b i) st = execBne a b i st := rfl
theorem exec_blt (a : BitVec 5) (b : BitVec 5) (i : BitVec 16) (st : State) : exec (.blt a b i) st = execBlt a b i st := rfl
theorem exec_bge (a : BitVec 5) (b : BitVec 5) (i : BitVec 16) (st : State) : exec (.bge a b i) st = execBge a b i st := rfl
theorem exec_bltu (a : BitVec 5) (b : BitVec 5) (i : BitVec 16) (st : State) : exec (.bltu a b i) st = execBltu a b i st := rfl
theorem exec_bgeu (a : BitVec 5) (b : BitVec 5) (i : BitVec 16) (st : State) : exec (.bgeu a b i) st = execBgeu a b i st := rfl
theorem exec_jal (d : BitVec 5) (i : BitVec 21) (st : State) : exec (.jal d i) st = execJal d i st := rfl
theorem exec_jalr (d : BitVec 5) (a : BitVec 5) (i : BitVec 16) (st : State) : exec (.jalr d a i) st = execJalr d a i st := rfl
theorem exec_bst (c : BitVec 3) (i : BitVec 16) (st : State) : exec (.bst c i) st = execBst c i st := rfl
theorem exec_bstN (c : BitVec 3) (i : BitVec 16) (st : State) : exec (.bstN c i) st = execBstN c i st := rfl
theorem exec_fadd (d : BitVec 5) (a : BitVec 5) (b : BitVec 5) (m : BitVec 3) (st : State) : exec (.fadd d a b m) st = execFadd d a b m st := rfl
theorem exec_fsub (d : BitVec 5) (a : BitVec 5) (b : BitVec 5) (m : BitVec 3) (st : State) : exec (.fsub d a b m) st = execFsub d a b m st := rfl
theorem exec_fmul (d : BitVec 5) (a : BitVec 5) (b : BitVec 5) (m : BitVec 3) (st : State) : exec (.fmul d a b m) st = execFmul d a b m st := rfl
theorem exec_fdiv (d : BitVec 5) (a : BitVec 5) (b : BitVec 5) (m : BitVec 3) (st : State) : exec (.fdiv d a b m) st = execFdiv d a b m st := rfl
theorem exec_fsqrt (d : BitVec 5) (a : BitVec 5) (m : BitVec 3) (st : State) : exec (.fsqrt d a m) st = execFsqrt d a m st := rfl
theorem exec_fmin (d : BitVec 5) (a : BitVec 5) (b : BitVec 5) (st : State) : exec (.fmin d a b) st = execFmin d a b st := rfl
theorem exec_fmax (d : BitVec 5) (a : BitVec 5) (b : BitVec 5) (st : State) : exec (.fmax d a b) st = execFmax d a b st := rfl
theorem exec_feq (d : BitVec 5) (a : BitVec 5) (b : BitVec 5) (st : State) : exec (.feq d a b) st = execFeq d a b st := rfl
theorem exec_flt (d : BitVec 5) (a : BitVec 5) (b : BitVec 5) (st : State) : exec (.flt d a b) st = execFlt d a b st := rfl
theorem exec_fle (d : BitVec 5) (a : BitVec 5) (b : BitVec 5) (st : State) : exec (.fle d a b) st = execFle d a b st := rfl
theorem exec_fclass (d : BitVec 5) (a : BitVec 5) (st : State) : exec (.fclass d a) st = execFclass d a st := rfl
theorem exec_fsgn (d : BitVec 5) (a : BitVec 5) (b : BitVec 5) (s : BitVec 3) (st : State) : exec (.fsgn d a b s) st = execFsgn d a b s st := rfl
theorem exec_fcvt (d : BitVec 5) (a : BitVec 5) (m : BitVec 3) (s : BitVec 3) (st : State) : exec (.fcvt d a m s) st = execFcvt d a m s st := rfl
theorem exec_fmvxf (d : BitVec 5) (a : BitVec 5) (st : State) : exec (.fmvxf d a) st = execFmvxf d a st := rfl
theorem exec_fmvfx (d : BitVec 5) (a : BitVec 5) (st : State) : exec (.fmvfx d a) st = execFmvfx d a st := rfl
theorem exec_fma (d : BitVec 5) (a : BitVec 5) (b : BitVec 5) (c : BitVec 5) (m : BitVec 3) (st : State) : exec (.fma d a b c m) st = execFma d a b c m st := rfl
theorem exec_fms (d : BitVec 5) (a : BitVec 5) (b : BitVec 5) (c : BitVec 5) (m : BitVec 3) (st : State) : exec (.fms d a b c m) st = execFms d a b c m st := rfl
theorem exec_fnma (d : BitVec 5) (a : BitVec 5) (b : BitVec 5) (c : BitVec 5) (m : BitVec 3) (st : State) : exec (.fnma d a b c m) st = execFnma d a b c m st := rfl
theorem exec_fnms (d : BitVec 5) (a : BitVec 5) (b : BitVec 5) (c : BitVec 5) (m : BitVec 3) (st : State) : exec (.fnms d a b c m) st = execFnms d a b c m st := rfl
theorem exec_fexp (d : BitVec 5) (a : BitVec 5) (l : BitVec 4) (m : BitVec 3) (st : State) : exec (.fexp d a l m) st = execFexp d a l m st := rfl
theorem exec_flog (d : BitVec 5) (a : BitVec 5) (l : BitVec 4) (m : BitVec 3) (st : State) : exec (.flog d a l m) st = execFlog d a l m st := rfl
theorem exec_frcp (d : BitVec 5) (a : BitVec 5) (l : BitVec 4) (m : BitVec 3) (st : State) : exec (.frcp d a l m) st = execFrcp d a l m st := rfl
theorem exec_frsq (d : BitVec 5) (a : BitVec 5) (l : BitVec 4) (m : BitVec 3) (st : State) : exec (.frsq d a l m) st = execFrsq d a l m st := rfl
theorem exec_ftanh (d : BitVec 5) (a : BitVec 5) (l : BitVec 4) (m : BitVec 3) (st : State) : exec (.ftanh d a l m) st = execFtanh d a l m st := rfl
theorem exec_fsigm (d : BitVec 5) (a : BitVec 5) (l : BitVec 4) (m : BitVec 3) (st : State) : exec (.fsigm d a l m) st = execFsigm d a l m st := rfl
theorem exec_ld (d : BitVec 5) (a : BitVec 5) (l : BitVec 4) (x : BitVec 1) (s : BitVec 3) (i : BitVec 8) (st : State) : exec (.ld d a l x s i) st = execLd d a l x s i st := rfl
theorem exec_st (t : BitVec 5) (a : BitVec 5) (l : BitVec 4) (x : BitVec 1) (s : BitVec 3) (i : BitVec 8) (st : State) : exec (.st t a l x s i) st = execSt t a l x s i st := rfl
theorem exec_ldf (d : BitVec 5) (a : BitVec 5) (l : BitVec 4) (x : BitVec 1) (s : BitVec 3) (i : BitVec 8) (st : State) : exec (.ldf d a l x s i) st = execLdf d a l x s i st := rfl
theorem exec_stf (t : BitVec 5) (a : BitVec 5) (l : BitVec 4) (x : BitVec 1) (s : BitVec 3) (i : BitVec 8) (st : State) : exec (.stf t a l x s i) st = execStf t a l x s i st := rfl
theorem exec_ldfe (d : BitVec 5) (a : BitVec 5) (l : BitVec 4) (i : BitVec 8) (st : State) : exec (.ldfe d a l i) st = execLdfe d a l i st := rfl
theorem exec_ldff (d : BitVec 5) (a : BitVec 5) (l : BitVec 4) (i : BitVec 8) (st : State) : exec (.ldff d a l i) st = execLdff d a l i st := rfl
theorem exec_stef (t : BitVec 5) (a : BitVec 5) (l : BitVec 4) (i : BitVec 8) (st : State) : exec (.stef t a l i) st = execStef t a l i st := rfl
theorem exec_stff (t : BitVec 5) (a : BitVec 5) (l : BitVec 4) (i : BitVec 8) (st : State) : exec (.stff t a l i) st = execStff t a l i st := rfl
theorem exec_sete (c : BitVec 5) (a : BitVec 5) (l : BitVec 4) (i : BitVec 8) (st : State) : exec (.sete c a l i) st = execSete c a l i st := rfl
theorem exec_setf (c : BitVec 5) (a : BitVec 5) (l : BitVec 4) (i : BitVec 8) (st : State) : exec (.setf c a l i) st = execSetf c a l i st := rfl
theorem exec_amoadd (d : BitVec 5) (a : BitVec 5) (b : BitVec 5) (l : BitVec 4) (z : BitVec 1) (st : State) : exec (.amoadd d a b l z) st = execAmoadd d a b l z st := rfl
theorem exec_amoand (d : BitVec 5) (a : BitVec 5) (b : BitVec 5) (l : BitVec 4) (z : BitVec 1) (st : State) : exec (.amoand d a b l z) st = execAmoand d a b l z st := rfl
theorem exec_amoor (d : BitVec 5) (a : BitVec 5) (b : BitVec 5) (l : BitVec 4) (z : BitVec 1) (st : State) : exec (.amoor d a b l z) st = execAmoor d a b l z st := rfl
theorem exec_amoxor (d : BitVec 5) (a : BitVec 5) (b : BitVec 5) (l : BitVec 4) (z : BitVec 1) (st : State) : exec (.amoxor d a b l z) st = execAmoxor d a b l z st := rfl
theorem exec_amomin (d : BitVec 5) (a : BitVec 5) (b : BitVec 5) (l : BitVec 4) (z : BitVec 1) (st : State) : exec (.amomin d a b l z) st = execAmomin d a b l z st := rfl
theorem exec_amomax (d : BitVec 5) (a : BitVec 5) (b : BitVec 5) (l : BitVec 4) (z : BitVec 1) (st : State) : exec (.amomax d a b l z) st = execAmomax d a b l z st := rfl
theorem exec_amoswap (d : BitVec 5) (a : BitVec 5) (b : BitVec 5) (l : BitVec 4) (z : BitVec 1) (st : State) : exec (.amoswap d a b l z) st = execAmoswap d a b l z st := rfl
theorem exec_cas (d : BitVec 5) (a : BitVec 5) (b : BitVec 5) (l : BitVec 4) (z : BitVec 1) (st : State) : exec (.cas d a b l z) st = execCas d a b l z st := rfl
theorem exec_fence (s : BitVec 3) (st : State) : exec (.fence s) st = execFence s st := rfl
theorem exec_segld (g : BitVec 5) (a : BitVec 5) (l : BitVec 4) (st : State) : exec (.segld g a l) st = execSegld g a l st := rfl
theorem exec_segrd (d : BitVec 5) (g : BitVec 5) (h : BitVec 5) (st : State) : exec (.segrd d g h) st = execSegrd d g h st := rfl
theorem exec_bankcfg (d : BitVec 5) (a : BitVec 5) (b : BitVec 5) (l : BitVec 4) (k : BitVec 1) (st : State) : exec (.bankcfg d a b l k) st = execBankcfg d a b l k st := rfl
theorem exec_bankConversionDone (core : Nat) (bank : Nat) (st : State) : exec (.bankConversionDone core bank) st = execBankConversionDone core bank st := rfl
theorem exec_bankq (d : BitVec 5) (a : BitVec 5) (l : BitVec 4) (st : State) : exec (.bankq d a l) st = execBankq d a l st := rfl
theorem exec_bankjoin (a : BitVec 5) (l : BitVec 4) (st : State) : exec (.bankjoin a l) st = execBankjoin a l st := rfl
theorem exec_send (t : BitVec 5) (a : BitVec 5) (l : BitVec 4) (st : State) : exec (.send t a l) st = execSend t a l st := rfl
theorem exec_dq (d : BitVec 5) (a : BitVec 5) (l : BitVec 4) (w : BitVec 1) (st : State) : exec (.dq d a l w) st = execDq d a l w st := rfl
theorem exec_migrate (a : BitVec 5) (st : State) : exec (.migrate a) st = execMigrate a st := rfl
theorem exec_migrationArrival (n : Nat) (st : State) : exec (.migrationArrival n) st = execMigrationArrival n st := rfl
theorem exec_arrivalQueueAdmit (core : Nat) (st : State) : exec (.arrivalQueueAdmit core) st = execArrivalQueueAdmit core st := rfl
theorem exec_migrationReoffer (core : Nat) (st : State) : exec (.migrationReoffer core) st = execMigrationReoffer core st := rfl
theorem exec_bankAccessPerformed (core : Nat) (slot : Nat) (id : Nat) (st : State) : exec (.bankAccessPerformed core slot id) st = execBankAccessPerformed core slot id st := rfl
theorem exec_waiterRetry (core : Nat) (bank : Nat) (st : State) : exec (.waiterRetry core bank) st = execWaiterRetry core bank st := rfl
theorem exec_portAccessPerformed (core : Nat) (slot : Nat) (id : Nat) (st : State) : exec (.portAccessPerformed core slot id) st = execPortAccessPerformed core slot id st := rfl
theorem exec_pagerWake (vf : Nat) (page : Nat) (st : State) : exec (.pagerWake vf page) st = execPagerWake vf page st := rfl
theorem exec_longLatencyComplete (core : Nat) (slot : Nat) (id : Nat) (st : State) : exec (.longLatencyComplete core slot id) st = execLongLatencyComplete core slot id st := rfl
theorem exec_lateFault (core : Nat) (slot : Nat) (st : State) : exec (.lateFault core slot) st = execLateFault core slot st := rfl
theorem exec_hwMessageDeliver (core : Nat) (st : State) : exec (.hwMessageDeliver core) st = execHwMessageDeliver core st := rfl
theorem exec_scfg (n : BitVec 5) (a : BitVec 5) (b : BitVec 5) (l : BitVec 4) (p : Params) (st : State) : exec (.scfg n a b l p) st = execScfg n a b l p st := rfl
theorem exec_scfg2 (n : BitVec 5) (a : BitVec 5) (b : BitVec 5) (l : BitVec 4) (p : Params) (st : State) : exec (.scfg2 n a b l p) st = execScfg2 n a b l p st := rfl
theorem exec_srel (n : BitVec 5) (l : BitVec 4) (p : Params) (st : State) : exec (.srel n l p) st = execSrel n l p st := rfl
theorem exec_streamElementRead (core : Nat) (slot : Nat) (stream : Nat) (elem : Nat) (st : State) : exec (.streamElementRead core slot stream elem) st = execStreamElementRead core slot stream elem st := rfl
theorem exec_streamElementWrite (core : Nat) (slot : Nat) (stream : Nat) (elem : Nat) (st : State) : exec (.streamElementWrite core slot stream elem) st = execStreamElementWrite core slot stream elem st := rfl
theorem exec_vadd (d : BitVec 3) (a : BitVec 3) (b : BitVec 3) (y : BitVec 5) (s : BitVec 2) (st : State) : exec (.vadd d a b y s) st = execVadd d a b y s st := rfl
theorem exec_vsub (d : BitVec 3) (a : BitVec 3) (b : BitVec 3) (y : BitVec 5) (s : BitVec 2) (st : State) : exec (.vsub d a b y s) st = execVsub d a b y s st := rfl
theorem exec_vmul (d : BitVec 3) (a : BitVec 3) (b : BitVec 3) (y : BitVec 5) (s : BitVec 2) (st : State) : exec (.vmul d a b y s) st = execVmul d a b y s st := rfl
theorem exec_vfma (d : BitVec 3) (a : BitVec 3) (b : BitVec 3) (x : BitVec 5) (s : BitVec 2) (st : State) : exec (.vfma d a b x s) st = execVfma d a b x s st := rfl
theorem exec_vmin (d : BitVec 3) (a : BitVec 3) (b : BitVec 3) (y : BitVec 5) (s : BitVec 2) (st : State) : exec (.vmin d a b y s) st = execVmin d a b y s st := rfl
theorem exec_vmax (d : BitVec 3) (a : BitVec 3) (b : BitVec 3) (y : BitVec 5) (s : BitVec 2) (st : State) : exec (.vmax d a b y s) st = execVmax d a b y s st := rfl
theorem exec_vabs (d : BitVec 3) (a : BitVec 3) (s : BitVec 2) (st : State) : exec (.vabs d a s) st = execVabs d a s st := rfl
theorem exec_vneg (d : BitVec 3) (a : BitVec 3) (s : BitVec 2) (st : State) : exec (.vneg d a s) st = execVneg d a s st := rfl
theorem exec_vcvt (d : BitVec 3) (a : BitVec 3) (s : BitVec 2) (st : State) : exec (.vcvt d a s) st = execVcvt d a s st := rfl
theorem exec_vsel (d : BitVec 3) (a : BitVec 3) (b : BitVec 3) (x : BitVec 5) (st : State) : exec (.vsel d a b x) st = execVsel d a b x st := rfl
theorem exec_vcmp (d : BitVec 3) (a : BitVec 3) (b : BitVec 3) (x : BitVec 5) (y : BitVec 5) (s : BitVec 2) (st : State) : exec (.vcmp d a b x y s) st = execVcmp d a b x y s st := rfl
theorem exec_vred (d : BitVec 3) (a : BitVec 3) (y : BitVec 5) (s : BitVec 2) (st : State) : exec (.vred d a y s) st = execVred d a y s st := rfl
theorem exec_vscan (d : BitVec 3) (a : BitVec 3) (y : BitVec 5) (s : BitVec 2) (st : State) : exec (.vscan d a y s) st = execVscan d a y s st := rfl
theorem exec_vdot (d : BitVec 3) (a : BitVec 3) (b : BitVec 3) (y : BitVec 5) (s : BitVec 2) (st : State) : exec (.vdot d a b y s) st = execVdot d a b y s st := rfl
theorem exec_vexp (d : BitVec 3) (a : BitVec 3) (st : State) : exec (.vexp d a) st = execVexp d a st := rfl
theorem exec_vlog (d : BitVec 3) (a : BitVec 3) (st : State) : exec (.vlog d a) st = execVlog d a st := rfl
theorem exec_vrcp (d : BitVec 3) (a : BitVec 3) (st : State) : exec (.vrcp d a) st = execVrcp d a st := rfl
theorem exec_vrsq (d : BitVec 3) (a : BitVec 3) (st : State) : exec (.vrsq d a) st = execVrsq d a st := rfl
theorem exec_vtanh (d : BitVec 3) (a : BitVec 3) (st : State) : exec (.vtanh d a) st = execVtanh d a st := rfl
theorem exec_vsigm (d : BitVec 3) (a : BitVec 3) (st : State) : exec (.vsigm d a) st = execVsigm d a st := rfl
theorem exec_vfence (st : State) : exec (.vfence) st = execVfence st := rfl
theorem exec_vectorBeat (core : Nat) (slot : Nat) (st : State) : exec (.vectorBeat core slot) st = execVectorBeat core slot st := rfl
theorem exec_sfuResult (core : Nat) (st : State) : exec (.sfuResult core) st = execSfuResult core st := rfl
theorem exec_mlease (l : BitVec 4) (p : Params) (st : State) : exec (.mlease l p) st = execMlease l p st := rfl
theorem exec_arrayLeaseGrant (cluster : Nat) (st : State) : exec (.arrayLeaseGrant cluster) st = execArrayLeaseGrant cluster st := rfl
theorem exec_leaseTimeLimit (cluster : Nat) (st : State) : exec (.leaseTimeLimit cluster) st = execLeaseTimeLimit cluster st := rfl
theorem exec_mfree (p : Params) (st : State) : exec (.mfree p) st = execMfree p st := rfl
theorem exec_mwait (p : Params) (st : State) : exec (.mwait p) st = execMwait p st := rfl
theorem exec_mloadb (a : BitVec 5) (b : BitVec 5) (l : BitVec 4) (p : Params) (st : State) : exec (.mloadb a b l p) st = execMloadb a b l p st := rfl
theorem exec_mloadbTransferDone (cluster : Nat) (id : Nat) (st : State) : exec (.mloadbTransferDone cluster id) st = execMloadbTransferDone cluster id st := rfl
theorem exec_mcb (a : BitVec 5) (l : BitVec 4) (p : Params) (st : State) : exec (.mcb a l p) st = execMcb a l p st := rfl
theorem exec_mzero (d : BitVec 5) (a : BitVec 5) (l : BitVec 4) (p : Params) (st : State) : exec (.mzero d a l p) st = execMzero d a l p st := rfl
theorem exec_mma (d : BitVec 5) (a : BitVec 5) (b : BitVec 5) (l : BitVec 4) (c : BitVec 1) (p : Params) (st : State) : exec (.mma d a b l c p) st = execMma d a b l c p st := rfl
theorem exec_mmas (d : BitVec 5) (a : BitVec 5) (b : BitVec 5) (l : BitVec 4) (c : BitVec 1) (p : Params) (st : State) : exec (.mmas d a b l c p) st = execMmas d a b l c p st := rfl
theorem exec_mepi (d : BitVec 5) (a : BitVec 5) (b : BitVec 5) (l : BitVec 4) (p : Params) (st : State) : exec (.mepi d a b l p) st = execMepi d a b l p st := rfl
theorem exec_mepiWritesDone (cluster : Nat) (id : Nat) (st : State) : exec (.mepiWritesDone cluster id) st = execMepiWritesDone cluster id st := rfl
theorem exec_mprog (l : BitVec 4) (p : Params) (st : State) : exec (.mprog l p) st = execMprog l p st := rfl
theorem exec_mrec (d : BitVec 5) (a : BitVec 5) (b : BitVec 5) (l : BitVec 4) (p : Params) (st : State) : exec (.mrec d a b l p) st = execMrec d a b l p st := rfl
theorem exec_mocmp (d : BitVec 5) (a : BitVec 5) (b : BitVec 5) (l : BitVec 4) (p : Params) (st : State) : exec (.mocmp d a b l p) st = execMocmp d a b l p st := rfl
theorem exec_arrayCommandComplete (cluster : Nat) (st : State) : exec (.arrayCommandComplete cluster) st = execArrayCommandComplete cluster st := rfl
theorem exec_arrayOperandsConsumed (cluster : Nat) (st : State) : exec (.arrayOperandsConsumed cluster) st = execArrayOperandsConsumed cluster st := rfl
theorem exec_btld (d : BitVec 5) (a : BitVec 5) (l : BitVec 4) (st : State) : exec (.btld d a l) st = execBtld d a l st := rfl
theorem exec_btst (s : BitVec 5) (a : BitVec 5) (l : BitVec 4) (st : State) : exec (.btst s a l) st = execBtst s a l st := rfl
theorem exec_btand (d : BitVec 5) (a : BitVec 5) (b : BitVec 5) (l : BitVec 4) (st : State) : exec (.btand d a b l) st = execBtand d a b l st := rfl
theorem exec_btor (d : BitVec 5) (a : BitVec 5) (b : BitVec 5) (l : BitVec 4) (st : State) : exec (.btor d a b l) st = execBtor d a b l st := rfl
theorem exec_btxor (d : BitVec 5) (a : BitVec 5) (b : BitVec 5) (l : BitVec 4) (st : State) : exec (.btxor d a b l) st = execBtxor d a b l st := rfl
theorem exec_btnot (d : BitVec 5) (a : BitVec 5) (l : BitVec 4) (st : State) : exec (.btnot d a l) st = execBtnot d a l st := rfl
theorem exec_bttrn (d : BitVec 5) (a : BitVec 5) (l : BitVec 4) (st : State) : exec (.bttrn d a l) st = execBttrn d a l st := rfl
theorem exec_btcomp (d : BitVec 5) (a : BitVec 5) (b : BitVec 5) (l : BitVec 4) (st : State) : exec (.btcomp d a b l) st = execBtcomp d a b l st := rfl
theorem exec_btclo (d : BitVec 5) (a : BitVec 5) (l : BitVec 4) (r : BitVec 1) (st : State) : exec (.btclo d a l r) st = execBtclo d a l r st := rfl
theorem exec_btrc (d : BitVec 5) (a : BitVec 5) (b : BitVec 5) (l : BitVec 4) (st : State) : exec (.btrc d a b l) st = execBtrc d a b l st := rfl
theorem exec_launch (d : BitVec 5) (a : BitVec 5) (b : BitVec 5) (l : BitVec 4) (p : Params) (st : State) : exec (.launch d a b l p) st = execLaunch d a b l p st := rfl
theorem exec_dispatchBlockPlace (die : Nat) (st : State) : exec (.dispatchBlockPlace die) st = execDispatchBlockPlace die st := rfl
theorem exec_launchPromotion (die : Nat) (entry : Nat) (st : State) : exec (.launchPromotion die entry) st = execLaunchPromotion die entry st := rfl
theorem exec_launchReserve (die : Nat) (entry : Nat) (st : State) : exec (.launchReserve die entry) st = execLaunchReserve die entry st := rfl
theorem exec_blockComplete (handle : Nat) (block : Nat) (st : State) : exec (.blockComplete handle block) st = execBlockComplete handle block st := rfl
theorem exec_launchComplete (die : Nat) (entry : Nat) (st : State) : exec (.launchComplete die entry) st = execLaunchComplete die entry st := rfl
theorem exec_start (a : BitVec 5) (b : BitVec 5) (st : State) : exec (.start a b) st = execStart a b st := rfl
theorem exec_reap (a : BitVec 5) (st : State) : exec (.reap a) st = execReap a st := rfl
theorem exec_yield (st : State) : exec (.yield) st = execYield st := rfl
theorem exec_yieldWake (core : Nat) (slot : Nat) (st : State) : exec (.yieldWake core slot) st = execYieldWake core slot st := rfl
theorem exec_exit (st : State) : exec (.exit) st = execExit st := rfl
theorem exec_bar (a : BitVec 5) (n : BitVec 3) (st : State) : exec (.bar a n) st = execBar a n st := rfl
theorem exec_spawn (t : BitVec 5) (a : BitVec 5) (l : BitVec 4) (st : State) : exec (.spawn t a l) st = execSpawn t a l st := rfl
theorem exec_preempt (die : Nat) (st : State) : exec (.preempt die) st = execPreempt die st := rfl
theorem exec_victimRestore (victim : Nat) (st : State) : exec (.victimRestore victim) st = execVictimRestore victim st := rfl
theorem exec_restoreDeadline (victim : Nat) (st : State) : exec (.restoreDeadline victim) st = execRestoreDeadline victim st := rfl
theorem exec_tccTransferFail (core : Nat) (code : Byte) (ta : Word) (st : State) : exec (.tccTransferFail core code ta) st = execTccTransferFail core code ta st := rfl
theorem exec_copy (a : BitVec 5) (b : BitVec 5) (l : BitVec 4) (p : Params) (st : State) : exec (.copy a b l p) st = execCopy a b l p st := rfl
theorem exec_gath (a : BitVec 5) (b : BitVec 5) (l : BitVec 4) (p : Params) (st : State) : exec (.gath a b l p) st = execGath a b l p st := rfl
theorem exec_scat (a : BitVec 5) (b : BitVec 5) (l : BitVec 4) (p : Params) (st : State) : exec (.scat a b l p) st = execScat a b l p st := rfl
theorem exec_enginePostAccept (core : Nat) (slot : Nat) (id : Nat) (st : State) : exec (.enginePostAccept core slot id) st = execEnginePostAccept core slot id st := rfl
theorem exec_enginePostStart (cluster : Nat) (st : State) : exec (.enginePostStart cluster) st = execEnginePostStart cluster st := rfl
theorem exec_enginePostComplete (cluster : Nat) (id : Nat) (st : State) : exec (.enginePostComplete cluster id) st = execEnginePostComplete cluster id st := rfl
theorem exec_tblset (d : BitVec 5) (a : BitVec 5) (l : BitVec 4) (p : Params) (st : State) : exec (.tblset d a l p) st = execTblset d a l p st := rfl
theorem exec_tblsw (d : BitVec 5) (a : BitVec 5) (l : BitVec 4) (p : Params) (st : State) : exec (.tblsw d a l p) st = execTblsw d a l p st := rfl
theorem exec_shstat (d : BitVec 5) (l : BitVec 4) (p : Params) (st : State) : exec (.shstat d l p) st = execShstat d l p st := rfl
theorem exec_rmig (d : BitVec 5) (a : BitVec 5) (b : BitVec 5) (l : BitVec 4) (p : Params) (st : State) : exec (.rmig d a b l p) st = execRmig d a b l p st := rfl
theorem exec_rowCacheAge (die : Nat) (st : State) : exec (.rowCacheAge die) st = execRowCacheAge die st := rfl
theorem exec_mcgroupLoad (group : Nat) (entry : Word) (st : State) : exec (.mcgroupLoad group entry) st = execMcgroupLoad group entry st := rfl
theorem exec_trregCreate (d : BitVec 5) (a : BitVec 5) (b : BitVec 5) (l : BitVec 4) (p : Params) (st : State) : exec (.trregCreate d a b l p) st = execTrregCreate d a b l p st := rfl
theorem exec_trregRegion (d : BitVec 5) (a : BitVec 5) (b : BitVec 5) (l : BitVec 4) (p : Params) (st : State) : exec (.trregRegion d a b l p) st = execTrregRegion d a b l p st := rfl
theorem exec_trregArm (d : BitVec 5) (a : BitVec 5) (b : BitVec 5) (l : BitVec 4) (p : Params) (st : State) : exec (.trregArm d a b l p) st = execTrregArm d a b l p st := rfl
theorem exec_trregFree (d : BitVec 5) (a : BitVec 5) (b : BitVec 5) (l : BitVec 4) (p : Params) (st : State) : exec (.trregFree d a b l p) st = execTrregFree d a b l p st := rfl
theorem exec_relaunch (d : BitVec 5) (a : BitVec 5) (l : BitVec 4) (q : BitVec 1) (p : Params) (st : State) : exec (.relaunch d a l q p) st = execRelaunch d a l q p st := rfl
theorem exec_relaunchRunStart (obj : Nat) (st : State) : exec (.relaunchRunStart obj) st = execRelaunchRunStart obj st := rfl
theorem exec_relaunchComplete (obj : Nat) (st : State) : exec (.relaunchComplete obj) st = execRelaunchComplete obj st := rfl
theorem exec_trinfo (d : BitVec 5) (l : BitVec 4) (p : Params) (st : State) : exec (.trinfo d l p) st = execTrinfo d l p st := rfl
theorem exec_tmodeOn (a : BitVec 5) (st : State) : exec (.tmodeOn a) st = execTmodeOn a st := rfl
theorem exec_tmodeOff (st : State) : exec (.tmodeOff) st = execTmodeOff st := rfl
theorem exec_tsend (t : BitVec 5) (a : BitVec 5) (b : BitVec 5) (l : BitVec 4) (st : State) : exec (.tsend t a b l) st = execTsend t a b l st := rfl
theorem exec_tnext (d : BitVec 5) (a : BitVec 5) (st : State) : exec (.tnext d a) st = execTnext d a st := rfl
theorem exec_tout (s : BitVec 5) (a : BitVec 5) (st : State) : exec (.tout s a) st = execTout s a st := rfl
theorem exec_gvtrd (d : BitVec 5) (st : State) : exec (.gvtrd d) st = execGvtrd d st := rfl
theorem exec_gvtrdW (d : BitVec 5) (a : BitVec 5) (st : State) : exec (.gvtrdW d a) st = execGvtrdW d a st := rfl
theorem exec_timedMessageAccept (n : Nat) (st : State) : exec (.timedMessageAccept n) st = execTimedMessageAccept n st := rfl
theorem exec_rollback (core : Nat) (st : State) : exec (.rollback core) st = execRollback core st := rfl
theorem exec_antiMessageArrive (n : Nat) (st : State) : exec (.antiMessageArrive n) st = execAntiMessageArrive n st := rfl
theorem exec_horizonRoundStart (vf : Nat) (st : State) : exec (.horizonRoundStart vf) st = execHorizonRoundStart vf st := rfl
theorem exec_horizonReport (vf : Nat) (st : State) : exec (.horizonReport vf) st = execHorizonReport vf st := rfl
theorem exec_gvtPublish (vf : Nat) (st : State) : exec (.gvtPublish vf) st = execGvtPublish vf st := rfl
theorem exec_outputRelease (core : Nat) (st : State) : exec (.outputRelease core) st = execOutputRelease core st := rfl
theorem exec_gvtCopyUpdate (core : Nat) (st : State) : exec (.gvtCopyUpdate core) st = execGvtCopyUpdate core st := rfl
theorem exec_trap (n : BitVec 12) (st : State) : exec (.trap n) st = execTrap n st := rfl
theorem exec_eret (a : BitVec 5) (st : State) : exec (.eret a) st = execEret a st := rfl
theorem exec_eretSys (a : BitVec 5) (st : State) : exec (.eretSys a) st = execEretSys a st := rfl
theorem exec_eretUser (a : BitVec 5) (st : State) : exec (.eretUser a) st = execEretUser a st := rfl
theorem exec_sysrd (d : BitVec 5) (r : BitVec 12) (st : State) : exec (.sysrd d r) st = execSysrd d r st := rfl
theorem exec_syswr (a : BitVec 5) (r : BitVec 12) (st : State) : exec (.syswr a r) st = execSyswr a r st := rfl
theorem exec_tswWrite (core : Nat) (slot : Nat) (v : Word) (st : State) : exec (.tswWrite core slot v) st = execTswWrite core slot v st := rfl
theorem exec_tccctlWrite (core : Nat) (reg : Nat) (v : Word) (st : State) : exec (.tccctlWrite core reg v) st = execTccctlWrite core reg v st := rfl
theorem exec_qosWrite (core : Nat) (reg : Nat) (v : Word) (st : State) : exec (.qosWrite core reg v) st = execQosWrite core reg v st := rfl
theorem exec_snapctlWrite (core : Nat) (v : Word) (st : State) : exec (.snapctlWrite core v) st = execSnapctlWrite core v st := rfl
theorem exec_scopepolWrite (vf : Nat) (v : Word) (st : State) : exec (.scopepolWrite vf v) st = execScopepolWrite vf v st := rfl
theorem exec_xec (s : BitVec 5) (a : BitVec 5) (st : State) : exec (.xec s a) st = execXec s a st := rfl
theorem exec_icinv (a : BitVec 5) (st : State) : exec (.icinv a) st = execIcinv a st := rfl
theorem exec_tlbinv (a : BitVec 5) (st : State) : exec (.tlbinv a) st = execTlbinv a st := rfl
theorem exec_swapctx (e : BitVec 5) (a : BitVec 5) (st : State) : exec (.swapctx e a) st = execSwapctx e a st := rfl
theorem exec_swapctxOut (e : BitVec 5) (a : BitVec 5) (st : State) : exec (.swapctxOut e a) st = execSwapctxOut e a st := rfl
theorem exec_swapctxIn (e : BitVec 5) (a : BitVec 5) (st : State) : exec (.swapctxIn e a) st = execSwapctxIn e a st := rfl
theorem exec_snap (d : BitVec 5) (st : State) : exec (.snap d) st = execSnap d st := rfl
theorem exec_halt (d : BitVec 5) (st : State) : exec (.halt d) st = execHalt d st := rfl
theorem exec_brk (st : State) : exec (.brk) st = execBrk st := rfl
theorem exec_debuggerStop (core : Nat) (slot : Nat) (st : State) : exec (.debuggerStop core slot) st = execDebuggerStop core slot st := rfl
theorem exec_asleepSample (vf : Nat) (st : State) : exec (.asleepSample vf) st = execAsleepSample vf st := rfl
theorem exec_cred (d : BitVec 5) (a : BitVec 5) (l : BitVec 4) (p : Params) (st : State) : exec (.cred d a l p) st = execCred d a l p st := rfl
theorem exec_cbcast (d : BitVec 5) (a : BitVec 5) (b : BitVec 5) (l : BitVec 4) (p : Params) (st : State) : exec (.cbcast d a b l p) st = execCbcast d a b l p st := rfl
theorem exec_quadReassign (quad : Nat) (vf : Nat) (st : State) : exec (.quadReassign quad vf) st = execQuadReassign quad vf st := rfl
theorem exec_quadReset (quad : Nat) (st : State) : exec (.quadReset quad) st = execQuadReset quad st := rfl
theorem exec_engineReset (cluster : Nat) (st : State) : exec (.engineReset cluster) st = execEngineReset cluster st := rfl
theorem exec_clusterReset (cluster : Nat) (st : State) : exec (.clusterReset cluster) st = execClusterReset cluster st := rfl
theorem exec_routerFailure (cluster : Nat) (st : State) : exec (.routerFailure cluster) st = execRouterFailure cluster st := rfl
theorem exec_hbmChannelOffline (moves : List (Nat × Nat × Nat)) (st : State) : exec (.hbmChannelOffline moves) st = execHbmChannelOffline moves st := rfl
theorem exec_eccCorrected (block : Nat) (st : State) : exec (.eccCorrected block) st = execEccCorrected block st := rfl
theorem exec_poisonSet (loc : Nat) (st : State) : exec (.poisonSet loc) st = execPoisonSet loc st := rfl
theorem exec_linkTrain (link : Nat) (lo : Nat) (hi : Nat) (minor : Nat) (st : State) : exec (.linkTrain link lo hi minor) st = execLinkTrain link lo hi minor st := rfl
theorem exec_linkReplay (link : Nat) (st : State) : exec (.linkReplay link) st = execLinkReplay link st := rfl
theorem exec_linkRetrain (link : Nat) (ok : Bool) (st : State) : exec (.linkRetrain link ok) st = execLinkRetrain link ok st := rfl
theorem exec_linkDown (link : Nat) (st : State) : exec (.linkDown link) st = execLinkDown link st := rfl
theorem exec_bucketRefill (cluster : Nat) (st : State) : exec (.bucketRefill cluster) st = execBucketRefill cluster st := rfl
theorem exec_lineSend (core : Nat) (res : Nat) (st : State) : exec (.lineSend core res) st = execLineSend core res st := rfl
theorem exec_gatingInterval (gated : Nat) (watts : Nat) (st : State) : exec (.gatingInterval gated watts) st = execGatingInterval gated watts st := rfl
theorem exec_snapshotPin (st : State) : exec (.snapshotPin) st = execSnapshotPin st := rfl
theorem exec_snapshotLatch (st : State) : exec (.snapshotLatch) st = execSnapshotLatch st := rfl
theorem exec_boot (results : List Bool) (digests : List Word) (st : State) : exec (.boot results digests) st = execBoot results digests st := rfl
theorem exec_attestationSign (nonce : Word) (st : State) : exec (.attestationSign nonce) st = execAttestationSign nonce st := rfl
theorem exec_mailboxOpen (fn : Nat) (v : Word) (st : State) : exec (.mailboxOpen fn v) st = execMailboxOpen fn v st := rfl
theorem exec_mailboxClose (fn : Nat) (v : Word) (st : State) : exec (.mailboxClose fn v) st = execMailboxClose fn v st := rfl
theorem exec_mailboxRegisterWrite (fn : Nat) (off : Nat) (v : Word) (st : State) : exec (.mailboxRegisterWrite fn off v) st = execMailboxRegisterWrite fn off v st := rfl
theorem exec_reqtailWrite (fn : Nat) (v : Word) (st : State) : exec (.reqtailWrite fn v) st = execReqtailWrite fn v st := rfl
theorem exec_cplheadWrite (fn : Nat) (v : Word) (st : State) : exec (.cplheadWrite fn v) st = execCplheadWrite fn v st := rfl
theorem exec_reqLaunch (fn : Nat) (st : State) : exec (.reqLaunch fn) st = execReqLaunch fn st := rfl
theorem exec_reqMessage (fn : Nat) (st : State) : exec (.reqMessage fn) st = execReqMessage fn st := rfl
theorem exec_reqQuery (fn : Nat) (st : State) : exec (.reqQuery fn) st = execReqQuery fn st := rfl
theorem exec_reqCregRead (fn : Nat) (st : State) : exec (.reqCregRead fn) st = execReqCregRead fn st := rfl
theorem exec_reqCregWrite (fn : Nat) (st : State) : exec (.reqCregWrite fn) st = execReqCregWrite fn st := rfl
theorem exec_reqUnlistedKind (fn : Nat) (st : State) : exec (.reqUnlistedKind fn) st = execReqUnlistedKind fn st := rfl
theorem exec_mailboxCompletion (fn : Nat) (st : State) : exec (.mailboxCompletion fn) st = execMailboxCompletion fn st := rfl
theorem exec_quadResetDone (quad : Nat) (st : State) : exec (.quadResetDone quad) st = execQuadResetDone quad st := rfl
theorem exec_engineResetDone (cluster : Nat) (st : State) : exec (.engineResetDone cluster) st = execEngineResetDone cluster st := rfl

end Sys2Proof.Machine
end

