-- ==== Sys2Proof/Laws/State.lean ====
section
/-!
SUPPORT. Laws/State.lean: what each update of the state, of a core and of a thread leaves as it was, one lemma for each
field, and what reading a unit gives after one has been written.
-/
namespace Sys2Proof.Machine

/-! ## Lists by number -/

theorem alook_aset {α : Type} (l : Assoc α) (a b : Nat) (v : α) : alook (aset l a v) b = if b = a then some v else alook l b := by
  induction l with
  | nil => simp only [aset, alook, eq_comm]
  | cons p r ih =>
    obtain ⟨k, w⟩ := p
    simp only [aset]
    split
    · subst k; simp only [alook]; by_cases h : a = b <;> simp [h, eq_comm]
    · split
      · simp only [alook]; by_cases h : a = b <;> simp [h, eq_comm]
      · simp only [alook, ih]
        by_cases h : k = b
        · have : b ≠ a := by omega
          simp [h, this]
        · simp [h]

theorem alook_adel {α : Type} (l : Assoc α) (a b : Nat) : alook (adel l a) b = if b = a then none else alook l b := by
  induction l with
  | nil => simp [adel, alook]
  | cons p r ih =>
    obtain ⟨k, w⟩ := p
    simp only [adel, List.filter] at ih ⊢
    by_cases h : k = a
    · subst h; simp only [bne_self_eq_false, ih, alook]
      by_cases hb : b = k
      · simp [hb]
      · simp [hb, eq_comm]
    · have hk : (k != a) = true := by simpa using h
      simp only [hk, alook, ih]
      by_cases hb : k = b
      · have : b ≠ a := by omega
        simp [hb, this]
      · simp [hb]

/-! ## Units -/

@[simp] theorem State.core_putCore (s : State) (c d : Nat) (x : Core) : (s.putCore c x).core d = if d = c then x else s.core d := by
  simp only [State.core, State.putCore, alook_aset]; split <;> rfl
@[simp] theorem State.cluster_putCluster (s : State) (c d : Nat) (x : Cluster) :
    (s.putCluster c x).cluster d = if d = c then x else s.cluster d := by
  simp only [State.cluster, State.putCluster, alook_aset]; split <;> rfl
@[simp] theorem State.die_putDie (s : State) (c d : Nat) (x : Die) : (s.putDie c x).die d = if d = c then x else s.die d := by
  simp only [State.die, State.putDie, alook_aset]; split <;> rfl
@[simp] theorem State.vf_putVf (s : State) (c d : Nat) (x : VF) : (s.putVf c x).vf d = if d = c then x else s.vf d := by
  simp only [State.vf, State.putVf, alook_aset]; split <;> rfl
@[simp] theorem Core.slot_putSlot (x : Core) (k n : Nat) (t : Thread) :
    (x.putSlot k t).slot n = if n = k ∧ k < 16 then t else x.slot n := by
  simp only [Core.slot, Core.putSlot, Vector.getElem?_setIfInBounds]
  by_cases h : k = n
  · subst h; by_cases hk : k < 16 <;> simp [hk]
  · have : n ≠ k := fun e => h e.symm
    simp [h, this]
theorem State.thr_putThr (s : State) (c k d n : Nat) (t : Thread) :
    (s.putThr c k t).thr d n = if d = c ∧ n = k ∧ k < 16 then t else s.thr d n := by
  simp only [State.thr, State.putThr, State.core_putCore]
  by_cases h : d = c
  · subst h; simp
  · simp [h]
theorem State.me_putMe (s : State) (t : Thread) (h : s.curSlot < 16) : (s.putMe t).me = t := by
  simp only [State.me, State.putMe, show ∀ u, (s.putThr s.curCore s.curSlot u).curCore = s.curCore from fun _ => rfl,
    show ∀ u, (s.putThr s.curCore s.curSlot u).curSlot = s.curSlot from fun _ => rfl, State.thr_putThr, h, and_self, if_true]

/-! ## Fields of the state -/

@[simp] theorem State.putCore_cycle (s : State) (c : Nat) (x : Core) : (s.putCore c x).cycle = s.cycle := rfl
@[simp] theorem State.putCore_ungated (s : State) (c : Nat) (x : Core) : (s.putCore c x).ungated = s.ungated := rfl
@[simp] theorem State.putCore_turn (s : State) (c : Nat) (x : Core) : (s.putCore c x).turn = s.turn := rfl
@[simp] theorem State.putCore_curCore (s : State) (c : Nat) (x : Core) : (s.putCore c x).curCore = s.curCore := rfl
@[simp] theorem State.putCore_curSlot (s : State) (c : Nat) (x : Core) : (s.putCore c x).curSlot = s.curSlot := rfl
@[simp] theorem State.putCore_schedule (s : State) (c : Nat) (x : Core) : (s.putCore c x).schedule = s.schedule := rfl
@[simp] theorem State.putCore_free (s : State) (c : Nat) (x : Core) : (s.putCore c x).free = s.free := rfl
@[simp] theorem State.putCore_nextId (s : State) (c : Nat) (x : Core) : (s.putCore c x).nextId = s.nextId := rfl
@[simp] theorem State.putCore_mem (s : State) (c : Nat) (x : Core) : (s.putCore c x).mem = s.mem := rfl
@[simp] theorem State.putCore_empties (s : State) (c : Nat) (x : Core) : (s.putCore c x).empties = s.empties := rfl
@[simp] theorem State.putCore_poisons (s : State) (c : Nat) (x : Core) : (s.putCore c x).poisons = s.poisons := rfl
@[simp] theorem State.putCore_clusters (s : State) (c : Nat) (x : Core) : (s.putCore c x).clusters = s.clusters := rfl
@[simp] theorem State.putCore_dies (s : State) (c : Nat) (x : Core) : (s.putCore c x).dies = s.dies := rfl
@[simp] theorem State.putCore_vfs (s : State) (c : Nat) (x : Core) : (s.putCore c x).vfs = s.vfs := rfl
@[simp] theorem State.putCore_quads (s : State) (c : Nat) (x : Core) : (s.putCore c x).quads = s.quads := rfl
@[simp] theorem State.putCore_pkg (s : State) (c : Nat) (x : Core) : (s.putCore c x).pkg = s.pkg := rfl
@[simp] theorem State.putCore_packets (s : State) (c : Nat) (x : Core) : (s.putCore c x).packets = s.packets := rfl
@[simp] theorem State.putCore_timed (s : State) (c : Nat) (x : Core) : (s.putCore c x).timed = s.timed := rfl
@[simp] theorem State.putCore_sent (s : State) (c : Nat) (x : Core) : (s.putCore c x).sent = s.sent := rfl
@[simp] theorem State.putCore_tables (s : State) (c : Nat) (x : Core) : (s.putCore c x).tables = s.tables := rfl
@[simp] theorem State.putCore_traces (s : State) (c : Nat) (x : Core) : (s.putCore c x).traces = s.traces := rfl
@[simp] theorem State.putCore_posted (s : State) (c : Nat) (x : Core) : (s.putCore c x).posted = s.posted := rfl
@[simp] theorem State.putCore_stamps (s : State) (c : Nat) (x : Core) : (s.putCore c x).stamps = s.stamps := rfl
@[simp] theorem State.putCore_collectives (s : State) (c : Nat) (x : Core) : (s.putCore c x).collectives = s.collectives := rfl
@[simp] theorem State.putCore_mcgroups (s : State) (c : Nat) (x : Core) : (s.putCore c x).mcgroups = s.mcgroups := rfl
@[simp] theorem State.putCore_mailboxes (s : State) (c : Nat) (x : Core) : (s.putCore c x).mailboxes = s.mailboxes := rfl
@[simp] theorem State.putCore_links (s : State) (c : Nat) (x : Core) : (s.putCore c x).links = s.links := rfl
@[simp] theorem State.putCore_wiring (s : State) (c : Nat) (x : Core) : (s.putCore c x).wiring = s.wiring := rfl
@[simp] theorem State.putCore_fuses (s : State) (c : Nat) (x : Core) : (s.putCore c x).fuses = s.fuses := rfl
@[simp] theorem State.putCore_errors (s : State) (c : Nat) (x : Core) : (s.putCore c x).errors = s.errors := rfl
@[simp] theorem State.putCore_reports (s : State) (c : Nat) (x : Core) : (s.putCore c x).reports = s.reports := rfl
@[simp] theorem State.putCore_pwrlim (s : State) (c : Nat) (x : Core) : (s.putCore c x).pwrlim = s.pwrlim := rfl
@[simp] theorem State.putCore_pwrstat (s : State) (c : Nat) (x : Core) : (s.putCore c x).pwrstat = s.pwrstat := rfl
@[simp] theorem State.putCore_gates (s : State) (c : Nat) (x : Core) : (s.putCore c x).gates = s.gates := rfl
@[simp] theorem State.putCore_gatedAt (s : State) (c : Nat) (x : Core) : (s.putCore c x).gatedAt = s.gatedAt := rfl
@[simp] theorem State.putCore_snapAt (s : State) (c : Nat) (x : Core) : (s.putCore c x).snapAt = s.snapAt := rfl
@[simp] theorem State.putCore_snapPin (s : State) (c : Nat) (x : Core) : (s.putCore c x).snapPin = s.snapPin := rfl
@[simp] theorem State.putCore_bootPrev (s : State) (c : Nat) (x : Core) : (s.putCore c x).bootPrev = s.bootPrev := rfl
@[simp] theorem State.putCore_bootNow (s : State) (c : Nat) (x : Core) : (s.putCore c x).bootNow = s.bootNow := rfl
@[simp] theorem State.putCore_booted (s : State) (c : Nat) (x : Core) : (s.putCore c x).booted = s.booted := rfl
@[simp] theorem State.putCore_measured (s : State) (c : Nat) (x : Core) : (s.putCore c x).measured = s.measured := rfl
@[simp] theorem State.putCore_signed (s : State) (c : Nat) (x : Core) : (s.putCore c x).signed = s.signed := rfl
@[simp] theorem State.putCore_corrected (s : State) (c : Nat) (x : Core) : (s.putCore c x).corrected = s.corrected := rfl

@[simp] theorem State.modCore_cycle (s : State) (c : Nat) (f : Core → Core) : (s.modCore c f).cycle = s.cycle := rfl
@[simp] theorem State.modCore_ungated (s : State) (c : Nat) (f : Core → Core) : (s.modCore c f).ungated = s.ungated := rfl
@[simp] theorem State.modCore_turn (s : State) (c : Nat) (f : Core → Core) : (s.modCore c f).turn = s.turn := rfl
@[simp] theorem State.modCore_curCore (s : State) (c : Nat) (f : Core → Core) : (s.modCore c f).curCore = s.curCore := rfl
@[simp] theorem State.modCore_curSlot (s : State) (c : Nat) (f : Core → Core) : (s.modCore c f).curSlot = s.curSlot := rfl
@[simp] theorem State.modCore_schedule (s : State) (c : Nat) (f : Core → Core) : (s.modCore c f).schedule = s.schedule := rfl
@[simp] theorem State.modCore_free (s : State) (c : Nat) (f : Core → Core) : (s.modCore c f).free = s.free := rfl
@[simp] theorem State.modCore_nextId (s : State) (c : Nat) (f : Core → Core) : (s.modCore c f).nextId = s.nextId := rfl
@[simp] theorem State.modCore_mem (s : State) (c : Nat) (f : Core → Core) : (s.modCore c f).mem = s.mem := rfl
@[simp] theorem State.modCore_empties (s : State) (c : Nat) (f : Core → Core) : (s.modCore c f).empties = s.empties := rfl
@[simp] theorem State.modCore_poisons (s : State) (c : Nat) (f : Core → Core) : (s.modCore c f).poisons = s.poisons := rfl
@[simp] theorem State.modCore_clusters (s : State) (c : Nat) (f : Core → Core) : (s.modCore c f).clusters = s.clusters := rfl
@[simp] theorem State.modCore_dies (s : State) (c : Nat) (f : Core → Core) : (s.modCore c f).dies = s.dies := rfl
@[simp] theorem State.modCore_vfs (s : State) (c : Nat) (f : Core → Core) : (s.modCore c f).vfs = s.vfs := rfl
@[simp] theorem State.modCore_quads (s : State) (c : Nat) (f : Core → Core) : (s.modCore c f).quads = s.quads := rfl
@[simp] theorem State.modCore_pkg (s : State) (c : Nat) (f : Core → Core) : (s.modCore c f).pkg = s.pkg := rfl
@[simp] theorem State.modCore_packets (s : State) (c : Nat) (f : Core → Core) : (s.modCore c f).packets = s.packets := rfl
@[simp] theorem State.modCore_timed (s : State) (c : Nat) (f : Core → Core) : (s.modCore c f).timed = s.timed := rfl
@[simp] theorem State.modCore_sent (s : State) (c : Nat) (f : Core → Core) : (s.modCore c f).sent = s.sent := rfl
@[simp] theorem State.modCore_tables (s : State) (c : Nat) (f : Core → Core) : (s.modCore c f).tables = s.tables := rfl
@[simp] theorem State.modCore_traces (s : State) (c : Nat) (f : Core → Core) : (s.modCore c f).traces = s.traces := rfl
@[simp] theorem State.modCore_posted (s : State) (c : Nat) (f : Core → Core) : (s.modCore c f).posted = s.posted := rfl
@[simp] theorem State.modCore_stamps (s : State) (c : Nat) (f : Core → Core) : (s.modCore c f).stamps = s.stamps := rfl
@[simp] theorem State.modCore_collectives (s : State) (c : Nat) (f : Core → Core) : (s.modCore c f).collectives = s.collectives := rfl
@[simp] theorem State.modCore_mcgroups (s : State) (c : Nat) (f : Core → Core) : (s.modCore c f).mcgroups = s.mcgroups := rfl
@[simp] theorem State.modCore_mailboxes (s : State) (c : Nat) (f : Core → Core) : (s.modCore c f).mailboxes = s.mailboxes := rfl
@[simp] theorem State.modCore_links (s : State) (c : Nat) (f : Core → Core) : (s.modCore c f).links = s.links := rfl
@[simp] theorem State.modCore_wiring (s : State) (c : Nat) (f : Core → Core) : (s.modCore c f).wiring = s.wiring := rfl
@[simp] theorem State.modCore_fuses (s : State) (c : Nat) (f : Core → Core) : (s.modCore c f).fuses = s.fuses := rfl
@[simp] theorem State.modCore_errors (s : State) (c : Nat) (f : Core → Core) : (s.modCore c f).errors = s.errors := rfl
@[simp] theorem State.modCore_reports (s : State) (c : Nat) (f : Core → Core) : (s.modCore c f).reports = s.reports := rfl
@[simp] theorem State.modCore_pwrlim (s : State) (c : Nat) (f : Core → Core) : (s.modCore c f).pwrlim = s.pwrlim := rfl
@[simp] theorem State.modCore_pwrstat (s : State) (c : Nat) (f : Core → Core) : (s.modCore c f).pwrstat = s.pwrstat := rfl
@[simp] theorem State.modCore_gates (s : State) (c : Nat) (f : Core → Core) : (s.modCore c f).gates = s.gates := rfl
@[simp] theorem State.modCore_gatedAt (s : State) (c : Nat) (f : Core → Core) : (s.modCore c f).gatedAt = s.gatedAt := rfl
@[simp] theorem State.modCore_snapAt (s : State) (c : Nat) (f : Core → Core) : (s.modCore c f).snapAt = s.snapAt := rfl
@[simp] theorem State.modCore_snapPin (s : State) (c : Nat) (f : Core → Core) : (s.modCore c f).snapPin = s.snapPin := rfl
@[simp] theorem State.modCore_bootPrev (s : State) (c : Nat) (f : Core → Core) : (s.modCore c f).bootPrev = s.bootPrev := rfl
@[simp] theorem State.modCore_bootNow (s : State) (c : Nat) (f : Core → Core) : (s.modCore c f).bootNow = s.bootNow := rfl
@[simp] theorem State.modCore_booted (s : State) (c : Nat) (f : Core → Core) : (s.modCore c f).booted = s.booted := rfl
@[simp] theorem State.modCore_measured (s : State) (c : Nat) (f : Core → Core) : (s.modCore c f).measured = s.measured := rfl
@[simp] theorem State.modCore_signed (s : State) (c : Nat) (f : Core → Core) : (s.modCore c f).signed = s.signed := rfl
@[simp] theorem State.modCore_corrected (s : State) (c : Nat) (f : Core → Core) : (s.modCore c f).corrected = s.corrected := rfl

@[simp] theorem State.putThr_cycle (s : State) (c k : Nat) (t : Thread) : (s.putThr c k t).cycle = s.cycle := rfl
@[simp] theorem State.putThr_ungated (s : State) (c k : Nat) (t : Thread) : (s.putThr c k t).ungated = s.ungated := rfl
@[simp] theorem State.putThr_turn (s : State) (c k : Nat) (t : Thread) : (s.putThr c k t).turn = s.turn := rfl
@[simp] theorem State.putThr_curCore (s : State) (c k : Nat) (t : Thread) : (s.putThr c k t).curCore = s.curCore := rfl
@[simp] theorem State.putThr_curSlot (s : State) (c k : Nat) (t : Thread) : (s.putThr c k t).curSlot = s.curSlot := rfl
@[simp] theorem State.putThr_schedule (s : State) (c k : Nat) (t : Thread) : (s.putThr c k t).schedule = s.schedule := rfl
@[simp] theorem State.putThr_free (s : State) (c k : Nat) (t : Thread) : (s.putThr c k t).free = s.free := rfl
@[simp] theorem State.putThr_nextId (s : State) (c k : Nat) (t : Thread) : (s.putThr c k t).nextId = s.nextId := rfl
@[simp] theorem State.putThr_mem (s : State) (c k : Nat) (t : Thread) : (s.putThr c k t).mem = s.mem := rfl
@[simp] theorem State.putThr_empties (s : State) (c k : Nat) (t : Thread) : (s.putThr c k t).empties = s.empties := rfl
@[simp] theorem State.putThr_poisons (s : State) (c k : Nat) (t : Thread) : (s.putThr c k t).poisons = s.poisons := rfl
@[simp] theorem State.putThr_clusters (s : State) (c k : Nat) (t : Thread) : (s.putThr c k t).clusters = s.clusters := rfl
@[simp] theorem State.putThr_dies (s : State) (c k : Nat) (t : Thread) : (s.putThr c k t).dies = s.dies := rfl
@[simp] theorem State.putThr_vfs (s : State) (c k : Nat) (t : Thread) : (s.putThr c k t).vfs = s.vfs := rfl
@[simp] theorem State.putThr_quads (s : State) (c k : Nat) (t : Thread) : (s.putThr c k t).quads = s.quads := rfl
@[simp] theorem State.putThr_pkg (s : State) (c k : Nat) (t : Thread) : (s.putThr c k t).pkg = s.pkg := rfl
@[simp] theorem State.putThr_packets (s : State) (c k : Nat) (t : Thread) : (s.putThr c k t).packets = s.packets := rfl
@[simp] theorem State.putThr_timed (s : State) (c k : Nat) (t : Thread) : (s.putThr c k t).timed = s.timed := rfl
@[simp] theorem State.putThr_sent (s : State) (c k : Nat) (t : Thread) : (s.putThr c k t).sent = s.sent := rfl
@[simp] theorem State.putThr_tables (s : State) (c k : Nat) (t : Thread) : (s.putThr c k t).tables = s.tables := rfl
@[simp] theorem State.putThr_traces (s : State) (c k : Nat) (t : Thread) : (s.putThr c k t).traces = s.traces := rfl
@[simp] theorem State.putThr_posted (s : State) (c k : Nat) (t : Thread) : (s.putThr c k t).posted = s.posted := rfl
@[simp] theorem State.putThr_stamps (s : State) (c k : Nat) (t : Thread) : (s.putThr c k t).stamps = s.stamps := rfl
@[simp] theorem State.putThr_collectives (s : State) (c k : Nat) (t : Thread) : (s.putThr c k t).collectives = s.collectives := rfl
@[simp] theorem State.putThr_mcgroups (s : State) (c k : Nat) (t : Thread) : (s.putThr c k t).mcgroups = s.mcgroups := rfl
@[simp] theorem State.putThr_mailboxes (s : State) (c k : Nat) (t : Thread) : (s.putThr c k t).mailboxes = s.mailboxes := rfl
@[simp] theorem State.putThr_links (s : State) (c k : Nat) (t : Thread) : (s.putThr c k t).links = s.links := rfl
@[simp] theorem State.putThr_wiring (s : State) (c k : Nat) (t : Thread) : (s.putThr c k t).wiring = s.wiring := rfl
@[simp] theorem State.putThr_fuses (s : State) (c k : Nat) (t : Thread) : (s.putThr c k t).fuses = s.fuses := rfl
@[simp] theorem State.putThr_errors (s : State) (c k : Nat) (t : Thread) : (s.putThr c k t).errors = s.errors := rfl
@[simp] theorem State.putThr_reports (s : State) (c k : Nat) (t : Thread) : (s.putThr c k t).reports = s.reports := rfl
@[simp] theorem State.putThr_pwrlim (s : State) (c k : Nat) (t : Thread) : (s.putThr c k t).pwrlim = s.pwrlim := rfl
@[simp] theorem State.putThr_pwrstat (s : State) (c k : Nat) (t : Thread) : (s.putThr c k t).pwrstat = s.pwrstat := rfl
@[simp] theorem State.putThr_gates (s : State) (c k : Nat) (t : Thread) : (s.putThr c k t).gates = s.gates := rfl
@[simp] theorem State.putThr_gatedAt (s : State) (c k : Nat) (t : Thread) : (s.putThr c k t).gatedAt = s.gatedAt := rfl
@[simp] theorem State.putThr_snapAt (s : State) (c k : Nat) (t : Thread) : (s.putThr c k t).snapAt = s.snapAt := rfl
@[simp] theorem State.putThr_snapPin (s : State) (c k : Nat) (t : Thread) : (s.putThr c k t).snapPin = s.snapPin := rfl
@[simp] theorem State.putThr_bootPrev (s : State) (c k : Nat) (t : Thread) : (s.putThr c k t).bootPrev = s.bootPrev := rfl
@[simp] theorem State.putThr_bootNow (s : State) (c k : Nat) (t : Thread) : (s.putThr c k t).bootNow = s.bootNow := rfl
@[simp] theorem State.putThr_booted (s : State) (c k : Nat) (t : Thread) : (s.putThr c k t).booted = s.booted := rfl
@[simp] theorem State.putThr_measured (s : State) (c k : Nat) (t : Thread) : (s.putThr c k t).measured = s.measured := rfl
@[simp] theorem State.putThr_signed (s : State) (c k : Nat) (t : Thread) : (s.putThr c k t).signed = s.signed := rfl
@[simp] theorem State.putThr_corrected (s : State) (c k : Nat) (t : Thread) : (s.putThr c k t).corrected = s.corrected := rfl

@[simp] theorem State.modThr_cycle (s : State) (c k : Nat) (f : Thread → Thread) : (s.modThr c k f).cycle = s.cycle := rfl
@[simp] theorem State.modThr_ungated (s : State) (c k : Nat) (f : Thread → Thread) : (s.modThr c k f).ungated = s.ungated := rfl
@[simp] theorem State.modThr_turn (s : State) (c k : Nat) (f : Thread → Thread) : (s.modThr c k f).turn = s.turn := rfl
@[simp] theorem State.modThr_curCore (s : State) (c k : Nat) (f : Thread → Thread) : (s.modThr c k f).curCore = s.curCore := rfl
@[simp] theorem State.modThr_curSlot (s : State) (c k : Nat) (f : Thread → Thread) : (s.modThr c k f).curSlot = s.curSlot := rfl
@[simp] theorem State.modThr_schedule (s : State) (c k : Nat) (f : Thread → Thread) : (s.modThr c k f).schedule = s.schedule := rfl
@[simp] theorem State.modThr_free (s : State) (c k : Nat) (f : Thread → Thread) : (s.modThr c k f).free = s.free := rfl
@[simp] theorem State.modThr_nextId (s : State) (c k : Nat) (f : Thread → Thread) : (s.modThr c k f).nextId = s.nextId := rfl
@[simp] theorem State.modThr_mem (s : State) (c k : Nat) (f : Thread → Thread) : (s.modThr c k f).mem = s.mem := rfl
@[simp] theorem State.modThr_empties (s : State) (c k : Nat) (f : Thread → Thread) : (s.modThr c k f).empties = s.empties := rfl
@[simp] theorem State.modThr_poisons (s : State) (c k : Nat) (f : Thread → Thread) : (s.modThr c k f).poisons = s.poisons := rfl
@[simp] theorem State.modThr_clusters (s : State) (c k : Nat) (f : Thread → Thread) : (s.modThr c k f).clusters = s.clusters := rfl
@[simp] theorem State.modThr_dies (s : State) (c k : Nat) (f : Thread → Thread) : (s.modThr c k f).dies = s.dies := rfl
@[simp] theorem State.modThr_vfs (s : State) (c k : Nat) (f : Thread → Thread) : (s.modThr c k f).vfs = s.vfs := rfl
@[simp] theorem State.modThr_quads (s : State) (c k : Nat) (f : Thread → Thread) : (s.modThr c k f).quads = s.quads := rfl
@[simp] theorem State.modThr_pkg (s : State) (c k : Nat) (f : Thread → Thread) : (s.modThr c k f).pkg = s.pkg := rfl
@[simp] theorem State.modThr_packets (s : State) (c k : Nat) (f : Thread → Thread) : (s.modThr c k f).packets = s.packets := rfl
@[simp] theorem State.modThr_timed (s : State) (c k : Nat) (f : Thread → Thread) : (s.modThr c k f).timed = s.timed := rfl
@[simp] theorem State.modThr_sent (s : State) (c k : Nat) (f : Thread → Thread) : (s.modThr c k f).sent = s.sent := rfl
@[simp] theorem State.modThr_tables (s : State) (c k : Nat) (f : Thread → Thread) : (s.modThr c k f).tables = s.tables := rfl
@[simp] theorem State.modThr_traces (s : State) (c k : Nat) (f : Thread → Thread) : (s.modThr c k f).traces = s.traces := rfl
@[simp] theorem State.modThr_posted (s : State) (c k : Nat) (f : Thread → Thread) : (s.modThr c k f).posted = s.posted := rfl
@[simp] theorem State.modThr_stamps (s : State) (c k : Nat) (f : Thread → Thread) : (s.modThr c k f).stamps = s.stamps := rfl
@[simp] theorem State.modThr_collectives (s : State) (c k : Nat) (f : Thread → Thread) : (s.modThr c k f).collectives = s.collectives := rfl
@[simp] theorem State.modThr_mcgroups (s : State) (c k : Nat) (f : Thread → Thread) : (s.modThr c k f).mcgroups = s.mcgroups := rfl
@[simp] theorem State.modThr_mailboxes (s : State) (c k : Nat) (f : Thread → Thread) : (s.modThr c k f).mailboxes = s.mailboxes := rfl
@[simp] theorem State.modThr_links (s : State) (c k : Nat) (f : Thread → Thread) : (s.modThr c k f).links = s.links := rfl
@[simp] theorem State.modThr_wiring (s : State) (c k : Nat) (f : Thread → Thread) : (s.modThr c k f).wiring = s.wiring := rfl
@[simp] theorem State.modThr_fuses (s : State) (c k : Nat) (f : Thread → Thread) : (s.modThr c k f).fuses = s.fuses := rfl
@[simp] theorem State.modThr_errors (s : State) (c k : Nat) (f : Thread → Thread) : (s.modThr c k f).errors = s.errors := rfl
@[simp] theorem State.modThr_reports (s : State) (c k : Nat) (f : Thread → Thread) : (s.modThr c k f).reports = s.reports := rfl
@[simp] theorem State.modThr_pwrlim (s : State) (c k : Nat) (f : Thread → Thread) : (s.modThr c k f).pwrlim = s.pwrlim := rfl
@[simp] theorem State.modThr_pwrstat (s : State) (c k : Nat) (f : Thread → Thread) : (s.modThr c k f).pwrstat = s.pwrstat := rfl
@[simp] theorem State.modThr_gates (s : State) (c k : Nat) (f : Thread → Thread) : (s.modThr c k f).gates = s.gates := rfl
@[simp] theorem State.modThr_gatedAt (s : State) (c k : Nat) (f : Thread → Thread) : (s.modThr c k f).gatedAt = s.gatedAt := rfl
@[simp] theorem State.modThr_snapAt (s : State) (c k : Nat) (f : Thread → Thread) : (s.modThr c k f).snapAt = s.snapAt := rfl
@[simp] theorem State.modThr_snapPin (s : State) (c k : Nat) (f : Thread → Thread) : (s.modThr c k f).snapPin = s.snapPin := rfl
@[simp] theorem State.modThr_bootPrev (s : State) (c k : Nat) (f : Thread → Thread) : (s.modThr c k f).bootPrev = s.bootPrev := rfl
@[simp] theorem State.modThr_bootNow (s : State) (c k : Nat) (f : Thread → Thread) : (s.modThr c k f).bootNow = s.bootNow := rfl
@[simp] theorem State.modThr_booted (s : State) (c k : Nat) (f : Thread → Thread) : (s.modThr c k f).booted = s.booted := rfl
@[simp] theorem State.modThr_measured (s : State) (c k : Nat) (f : Thread → Thread) : (s.modThr c k f).measured = s.measured := rfl
@[simp] theorem State.modThr_signed (s : State) (c k : Nat) (f : Thread → Thread) : (s.modThr c k f).signed = s.signed := rfl
@[simp] theorem State.modThr_corrected (s : State) (c k : Nat) (f : Thread → Thread) : (s.modThr c k f).corrected = s.corrected := rfl

@[simp] theorem State.putMe_cycle (s : State) (t : Thread) : (s.putMe t).cycle = s.cycle := rfl
@[simp] theorem State.putMe_ungated (s : State) (t : Thread) : (s.putMe t).ungated = s.ungated := rfl
@[simp] theorem State.putMe_turn (s : State) (t : Thread) : (s.putMe t).turn = s.turn := rfl
@[simp] theorem State.putMe_curCore (s : State) (t : Thread) : (s.putMe t).curCore = s.curCore := rfl
@[simp] theorem State.putMe_curSlot (s : State) (t : Thread) : (s.putMe t).curSlot = s.curSlot := rfl
@[simp] theorem State.putMe_schedule (s : State) (t : Thread) : (s.putMe t).schedule = s.schedule := rfl
@[simp] theorem State.putMe_free (s : State) (t : Thread) : (s.putMe t).free = s.free := rfl
@[simp] theorem State.putMe_nextId (s : State) (t : Thread) : (s.putMe t).nextId = s.nextId := rfl
@[simp] theorem State.putMe_mem (s : State) (t : Thread) : (s.putMe t).mem = s.mem := rfl
@[simp] theorem State.putMe_empties (s : State) (t : Thread) : (s.putMe t).empties = s.empties := rfl
@[simp] theorem State.putMe_poisons (s : State) (t : Thread) : (s.putMe t).poisons = s.poisons := rfl
@[simp] theorem State.putMe_clusters (s : State) (t : Thread) : (s.putMe t).clusters = s.clusters := rfl
@[simp] theorem State.putMe_dies (s : State) (t : Thread) : (s.putMe t).dies = s.dies := rfl
@[simp] theorem State.putMe_vfs (s : State) (t : Thread) : (s.putMe t).vfs = s.vfs := rfl
@[simp] theorem State.putMe_quads (s : State) (t : Thread) : (s.putMe t).quads = s.quads := rfl
@[simp] theorem State.putMe_pkg (s : State) (t : Thread) : (s.putMe t).pkg = s.pkg := rfl
@[simp] theorem State.putMe_packets (s : State) (t : Thread) : (s.putMe t).packets = s.packets := rfl
@[simp] theorem State.putMe_timed (s : State) (t : Thread) : (s.putMe t).timed = s.timed := rfl
@[simp] theorem State.putMe_sent (s : State) (t : Thread) : (s.putMe t).sent = s.sent := rfl
@[simp] theorem State.putMe_tables (s : State) (t : Thread) : (s.putMe t).tables = s.tables := rfl
@[simp] theorem State.putMe_traces (s : State) (t : Thread) : (s.putMe t).traces = s.traces := rfl
@[simp] theorem State.putMe_posted (s : State) (t : Thread) : (s.putMe t).posted = s.posted := rfl
@[simp] theorem State.putMe_stamps (s : State) (t : Thread) : (s.putMe t).stamps = s.stamps := rfl
@[simp] theorem State.putMe_collectives (s : State) (t : Thread) : (s.putMe t).collectives = s.collectives := rfl
@[simp] theorem State.putMe_mcgroups (s : State) (t : Thread) : (s.putMe t).mcgroups = s.mcgroups := rfl
@[simp] theorem State.putMe_mailboxes (s : State) (t : Thread) : (s.putMe t).mailboxes = s.mailboxes := rfl
@[simp] theorem State.putMe_links (s : State) (t : Thread) : (s.putMe t).links = s.links := rfl
@[simp] theorem State.putMe_wiring (s : State) (t : Thread) : (s.putMe t).wiring = s.wiring := rfl
@[simp] theorem State.putMe_fuses (s : State) (t : Thread) : (s.putMe t).fuses = s.fuses := rfl
@[simp] theorem State.putMe_errors (s : State) (t : Thread) : (s.putMe t).errors = s.errors := rfl
@[simp] theorem State.putMe_reports (s : State) (t : Thread) : (s.putMe t).reports = s.reports := rfl
@[simp] theorem State.putMe_pwrlim (s : State) (t : Thread) : (s.putMe t).pwrlim = s.pwrlim := rfl
@[simp] theorem State.putMe_pwrstat (s : State) (t : Thread) : (s.putMe t).pwrstat = s.pwrstat := rfl
@[simp] theorem State.putMe_gates (s : State) (t : Thread) : (s.putMe t).gates = s.gates := rfl
@[simp] theorem State.putMe_gatedAt (s : State) (t : Thread) : (s.putMe t).gatedAt = s.gatedAt := rfl
@[simp] theorem State.putMe_snapAt (s : State) (t : Thread) : (s.putMe t).snapAt = s.snapAt := rfl
@[simp] theorem State.putMe_snapPin (s : State) (t : Thread) : (s.putMe t).snapPin = s.snapPin := rfl
@[simp] theorem State.putMe_bootPrev (s : State) (t : Thread) : (s.putMe t).bootPrev = s.bootPrev := rfl
@[simp] theorem State.putMe_bootNow (s : State) (t : Thread) : (s.putMe t).bootNow = s.bootNow := rfl
@[simp] theorem State.putMe_booted (s : State) (t : Thread) : (s.putMe t).booted = s.booted := rfl
@[simp] theorem State.putMe_measured (s : State) (t : Thread) : (s.putMe t).measured = s.measured := rfl
@[simp] theorem State.putMe_signed (s : State) (t : Thread) : (s.putMe t).signed = s.signed := rfl
@[simp] theorem State.putMe_corrected (s : State) (t : Thread) : (s.putMe t).corrected = s.corrected := rfl

@[simp] theorem State.modBank_cycle (s : State) (c b : Nat) (f : Bank → Bank) : (s.modBank c b f).cycle = s.cycle := rfl
@[simp] theorem State.modBank_ungated (s : State) (c b : Nat) (f : Bank → Bank) : (s.modBank c b f).ungated = s.ungated := rfl
@[simp] theorem State.modBank_turn (s : State) (c b : Nat) (f : Bank → Bank) : (s.modBank c b f).turn = s.turn := rfl
@[simp] theorem State.modBank_curCore (s : State) (c b : Nat) (f : Bank → Bank) : (s.modBank c b f).curCore = s.curCore := rfl
@[simp] theorem State.modBank_curSlot (s : State) (c b : Nat) (f : Bank → Bank) : (s.modBank c b f).curSlot = s.curSlot := rfl
@[simp] theorem State.modBank_schedule (s : State) (c b : Nat) (f : Bank → Bank) : (s.modBank c b f).schedule = s.schedule := rfl
@[simp] theorem State.modBank_free (s : State) (c b : Nat) (f : Bank → Bank) : (s.modBank c b f).free = s.free := rfl
@[simp] theorem State.modBank_nextId (s : State) (c b : Nat) (f : Bank → Bank) : (s.modBank c b f).nextId = s.nextId := rfl
@[simp] theorem State.modBank_mem (s : State) (c b : Nat) (f : Bank → Bank) : (s.modBank c b f).mem = s.mem := rfl
@[simp] theorem State.modBank_empties (s : State) (c b : Nat) (f : Bank → Bank) : (s.modBank c b f).empties = s.empties := rfl
@[simp] theorem State.modBank_poisons (s : State) (c b : Nat) (f : Bank → Bank) : (s.modBank c b f).poisons = s.poisons := rfl
@[simp] theorem State.modBank_clusters (s : State) (c b : Nat) (f : Bank → Bank) : (s.modBank c b f).clusters = s.clusters := rfl
@[simp] theorem State.modBank_dies (s : State) (c b : Nat) (f : Bank → Bank) : (s.modBank c b f).dies = s.dies := rfl
@[simp] theorem State.modBank_vfs (s : State) (c b : Nat) (f : Bank → Bank) : (s.modBank c b f).vfs = s.vfs := rfl
@[simp] theorem State.modBank_quads (s : State) (c b : Nat) (f : Bank → Bank) : (s.modBank c b f).quads = s.quads := rfl
@[simp] theorem State.modBank_pkg (s : State) (c b : Nat) (f : Bank → Bank) : (s.modBank c b f).pkg = s.pkg := rfl
@[simp] theorem State.modBank_packets (s : State) (c b : Nat) (f : Bank → Bank) : (s.modBank c b f).packets = s.packets := rfl
@[simp] theorem State.modBank_timed (s : State) (c b : Nat) (f : Bank → Bank) : (s.modBank c b f).timed = s.timed := rfl
@[simp] theorem State.modBank_sent (s : State) (c b : Nat) (f : Bank → Bank) : (s.modBank c b f).sent = s.sent := rfl
@[simp] theorem State.modBank_tables (s : State) (c b : Nat) (f : Bank → Bank) : (s.modBank c b f).tables = s.tables := rfl
@[simp] theorem State.modBank_traces (s : State) (c b : Nat) (f : Bank → Bank) : (s.modBank c b f).traces = s.traces := rfl
@[simp] theorem State.modBank_posted (s : State) (c b : Nat) (f : Bank → Bank) : (s.modBank c b f).posted = s.posted := rfl
@[simp] theorem State.modBank_stamps (s : State) (c b : Nat) (f : Bank → Bank) : (s.modBank c b f).stamps = s.stamps := rfl
@[simp] theorem State.modBank_collectives (s : State) (c b : Nat) (f : Bank → Bank) : (s.modBank c b f).collectives = s.collectives := rfl
@[simp] theorem State.modBank_mcgroups (s : State) (c b : Nat) (f : Bank → Bank) : (s.modBank c b f).mcgroups = s.mcgroups := rfl
@[simp] theorem State.modBank_mailboxes (s : State) (c b : Nat) (f : Bank → Bank) : (s.modBank c b f).mailboxes = s.mailboxes := rfl
@[simp] theorem State.modBank_links (s : State) (c b : Nat) (f : Bank → Bank) : (s.modBank c b f).links = s.links := rfl
@[simp] theorem State.modBank_wiring (s : State) (c b : Nat) (f : Bank → Bank) : (s.modBank c b f).wiring = s.wiring := rfl
@[simp] theorem State.modBank_fuses (s : State) (c b : Nat) (f : Bank → Bank) : (s.modBank c b f).fuses = s.fuses := rfl
@[simp] theorem State.modBank_errors (s : State) (c b : Nat) (f : Bank → Bank) : (s.modBank c b f).errors = s.errors := rfl
@[simp] theorem State.modBank_reports (s : State) (c b : Nat) (f : Bank → Bank) : (s.modBank c b f).reports = s.reports := rfl
@[simp] theorem State.modBank_pwrlim (s : State) (c b : Nat) (f : Bank → Bank) : (s.modBank c b f).pwrlim = s.pwrlim := rfl
@[simp] theorem State.modBank_pwrstat (s : State) (c b : Nat) (f : Bank → Bank) : (s.modBank c b f).pwrstat = s.pwrstat := rfl
@[simp] theorem State.modBank_gates (s : State) (c b : Nat) (f : Bank → Bank) : (s.modBank c b f).gates = s.gates := rfl
@[simp] theorem State.modBank_gatedAt (s : State) (c b : Nat) (f : Bank → Bank) : (s.modBank c b f).gatedAt = s.gatedAt := rfl
@[simp] theorem State.modBank_snapAt (s : State) (c b : Nat) (f : Bank → Bank) : (s.modBank c b f).snapAt = s.snapAt := rfl
@[simp] theorem State.modBank_snapPin (s : State) (c b : Nat) (f : Bank → Bank) : (s.modBank c b f).snapPin = s.snapPin := rfl
@[simp] theorem State.modBank_bootPrev (s : State) (c b : Nat) (f : Bank → Bank) : (s.modBank c b f).bootPrev = s.bootPrev := rfl
@[simp] theorem State.modBank_bootNow (s : State) (c b : Nat) (f : Bank → Bank) : (s.modBank c b f).bootNow = s.bootNow := rfl
@[simp] theorem State.modBank_booted (s : State) (c b : Nat) (f : Bank → Bank) : (s.modBank c b f).booted = s.booted := rfl
@[simp] theorem State.modBank_measured (s : State) (c b : Nat) (f : Bank → Bank) : (s.modBank c b f).measured = s.measured := rfl
@[simp] theorem State.modBank_signed (s : State) (c b : Nat) (f : Bank → Bank) : (s.modBank c b f).signed = s.signed := rfl
@[simp] theorem State.modBank_corrected (s : State) (c b : Nat) (f : Bank → Bank) : (s.modBank c b f).corrected = s.corrected := rfl

@[simp] theorem State.modPend_cycle (s : State) (r : Ref) (f : Pending → Pending) : (s.modPend r f).cycle = s.cycle := rfl
@[simp] theorem State.modPend_ungated (s : State) (r : Ref) (f : Pending → Pending) : (s.modPend r f).ungated = s.ungated := rfl
@[simp] theorem State.modPend_turn (s : State) (r : Ref) (f : Pending → Pending) : (s.modPend r f).turn = s.turn := rfl
@[simp] theorem State.modPend_curCore (s : State) (r : Ref) (f : Pending → Pending) : (s.modPend r f).curCore = s.curCore := rfl
@[simp] theorem State.modPend_curSlot (s : State) (r : Ref) (f : Pending → Pending) : (s.modPend r f).curSlot = s.curSlot := rfl
@[simp] theorem State.modPend_schedule (s : State) (r : Ref) (f : Pending → Pending) : (s.modPend r f).schedule = s.schedule := rfl
@[simp] theorem State.modPend_free (s : State) (r : Ref) (f : Pending → Pending) : (s.modPend r f).free = s.free := rfl
@[simp] theorem State.modPend_nextId (s : State) (r : Ref) (f : Pending → Pending) : (s.modPend r f).nextId = s.nextId := rfl
@[simp] theorem State.modPend_mem (s : State) (r : Ref) (f : Pending → Pending) : (s.modPend r f).mem = s.mem := rfl
@[simp] theorem State.modPend_empties (s : State) (r : Ref) (f : Pending → Pending) : (s.modPend r f).empties = s.empties := rfl
@[simp] theorem State.modPend_poisons (s : State) (r : Ref) (f : Pending → Pending) : (s.modPend r f).poisons = s.poisons := rfl
@[simp] theorem State.modPend_clusters (s : State) (r : Ref) (f : Pending → Pending) : (s.modPend r f).clusters = s.clusters := rfl
@[simp] theorem State.modPend_dies (s : State) (r : Ref) (f : Pending → Pending) : (s.modPend r f).dies = s.dies := rfl
@[simp] theorem State.modPend_vfs (s : State) (r : Ref) (f : Pending → Pending) : (s.modPend r f).vfs = s.vfs := rfl
@[simp] theorem State.modPend_quads (s : State) (r : Ref) (f : Pending → Pending) : (s.modPend r f).quads = s.quads := rfl
@[simp] theorem State.modPend_pkg (s : State) (r : Ref) (f : Pending → Pending) : (s.modPend r f).pkg = s.pkg := rfl
@[simp] theorem State.modPend_packets (s : State) (r : Ref) (f : Pending → Pending) : (s.modPend r f).packets = s.packets := rfl
@[simp] theorem State.modPend_timed (s : State) (r : Ref) (f : Pending → Pending) : (s.modPend r f).timed = s.timed := rfl
@[simp] theorem State.modPend_sent (s : State) (r : Ref) (f : Pending → Pending) : (s.modPend r f).sent = s.sent := rfl
@[simp] theorem State.modPend_tables (s : State) (r : Ref) (f : Pending → Pending) : (s.modPend r f).tables = s.tables := rfl
@[simp] theorem State.modPend_traces (s : State) (r : Ref) (f : Pending → Pending) : (s.modPend r f).traces = s.traces := rfl
@[simp] theorem State.modPend_posted (s : State) (r : Ref) (f : Pending → Pending) : (s.modPend r f).posted = s.posted := rfl
@[simp] theorem State.modPend_stamps (s : State) (r : Ref) (f : Pending → Pending) : (s.modPend r f).stamps = s.stamps := rfl
@[simp] theorem State.modPend_collectives (s : State) (r : Ref) (f : Pending → Pending) : (s.modPend r f).collectives = s.collectives := rfl
@[simp] theorem State.modPend_mcgroups (s : State) (r : Ref) (f : Pending → Pending) : (s.modPend r f).mcgroups = s.mcgroups := rfl
@[simp] theorem State.modPend_mailboxes (s : State) (r : Ref) (f : Pending → Pending) : (s.modPend r f).mailboxes = s.mailboxes := rfl
@[simp] theorem State.modPend_links (s : State) (r : Ref) (f : Pending → Pending) : (s.modPend r f).links = s.links := rfl
@[simp] theorem State.modPend_wiring (s : State) (r : Ref) (f : Pending → Pending) : (s.modPend r f).wiring = s.wiring := rfl
@[simp] theorem State.modPend_fuses (s : State) (r : Ref) (f : Pending → Pending) : (s.modPend r f).fuses = s.fuses := rfl
@[simp] theorem State.modPend_errors (s : State) (r : Ref) (f : Pending → Pending) : (s.modPend r f).errors = s.errors := rfl
@[simp] theorem State.modPend_reports (s : State) (r : Ref) (f : Pending → Pending) : (s.modPend r f).reports = s.reports := rfl
@[simp] theorem State.modPend_pwrlim (s : State) (r : Ref) (f : Pending → Pending) : (s.modPend r f).pwrlim = s.pwrlim := rfl
@[simp] theorem State.modPend_pwrstat (s : State) (r : Ref) (f : Pending → Pending) : (s.modPend r f).pwrstat = s.pwrstat := rfl
@[simp] theorem State.modPend_gates (s : State) (r : Ref) (f : Pending → Pending) : (s.modPend r f).gates = s.gates := rfl
@[simp] theorem State.modPend_gatedAt (s : State) (r : Ref) (f : Pending → Pending) : (s.modPend r f).gatedAt = s.gatedAt := rfl
@[simp] theorem State.modPend_snapAt (s : State) (r : Ref) (f : Pending → Pending) : (s.modPend r f).snapAt = s.snapAt := rfl
@[simp] theorem State.modPend_snapPin (s : State) (r : Ref) (f : Pending → Pending) : (s.modPend r f).snapPin = s.snapPin := rfl
@[simp] theorem State.modPend_bootPrev (s : State) (r : Ref) (f : Pending → Pending) : (s.modPend r f).bootPrev = s.bootPrev := rfl
@[simp] theorem State.modPend_bootNow (s : State) (r : Ref) (f : Pending → Pending) : (s.modPend r f).bootNow = s.bootNow := rfl
@[simp] theorem State.modPend_booted (s : State) (r : Ref) (f : Pending → Pending) : (s.modPend r f).booted = s.booted := rfl
@[simp] theorem State.modPend_measured (s : State) (r : Ref) (f : Pending → Pending) : (s.modPend r f).measured = s.measured := rfl
@[simp] theorem State.modPend_signed (s : State) (r : Ref) (f : Pending → Pending) : (s.modPend r f).signed = s.signed := rfl
@[simp] theorem State.modPend_corrected (s : State) (r : Ref) (f : Pending → Pending) : (s.modPend r f).corrected = s.corrected := rfl

@[simp] theorem State.setPhase_cycle (s : State) (r : Ref) (ph : Phase) : (s.setPhase r ph).cycle = s.cycle := rfl
@[simp] theorem State.setPhase_ungated (s : State) (r : Ref) (ph : Phase) : (s.setPhase r ph).ungated = s.ungated := rfl
@[simp] theorem State.setPhase_turn (s : State) (r : Ref) (ph : Phase) : (s.setPhase r ph).turn = s.turn := rfl
@[simp] theorem State.setPhase_curCore (s : State) (r : Ref) (ph : Phase) : (s.setPhase r ph).curCore = s.curCore := rfl
@[simp] theorem State.setPhase_curSlot (s : State) (r : Ref) (ph : Phase) : (s.setPhase r ph).curSlot = s.curSlot := rfl
@[simp] theorem State.setPhase_schedule (s : State) (r : Ref) (ph : Phase) : (s.setPhase r ph).schedule = s.schedule := rfl
@[simp] theorem State.setPhase_free (s : State) (r : Ref) (ph : Phase) : (s.setPhase r ph).free = s.free := rfl
@[simp] theorem State.setPhase_nextId (s : State) (r : Ref) (ph : Phase) : (s.setPhase r ph).nextId = s.nextId := rfl
@[simp] theorem State.setPhase_mem (s : State) (r : Ref) (ph : Phase) : (s.setPhase r ph).mem = s.mem := rfl
@[simp] theorem State.setPhase_empties (s : State) (r : Ref) (ph : Phase) : (s.setPhase r ph).empties = s.empties := rfl
@[simp] theorem State.setPhase_poisons (s : State) (r : Ref) (ph : Phase) : (s.setPhase r ph).poisons = s.poisons := rfl
@[simp] theorem State.setPhase_clusters (s : State) (r : Ref) (ph : Phase) : (s.setPhase r ph).clusters = s.clusters := rfl
@[simp] theorem State.setPhase_dies (s : State) (r : Ref) (ph : Phase) : (s.setPhase r ph).dies = s.dies := rfl
@[simp] theorem State.setPhase_vfs (s : State) (r : Ref) (ph : Phase) : (s.setPhase r ph).vfs = s.vfs := rfl
@[simp] theorem State.setPhase_quads (s : State) (r : Ref) (ph : Phase) : (s.setPhase r ph).quads = s.quads := rfl
@[simp] theorem State.setPhase_pkg (s : State) (r : Ref) (ph : Phase) : (s.setPhase r ph).pkg = s.pkg := rfl
@[simp] theorem State.setPhase_packets (s : State) (r : Ref) (ph : Phase) : (s.setPhase r ph).packets = s.packets := rfl
@[simp] theorem State.setPhase_timed (s : State) (r : Ref) (ph : Phase) : (s.setPhase r ph).timed = s.timed := rfl
@[simp] theorem State.setPhase_sent (s : State) (r : Ref) (ph : Phase) : (s.setPhase r ph).sent = s.sent := rfl
@[simp] theorem State.setPhase_tables (s : State) (r : Ref) (ph : Phase) : (s.setPhase r ph).tables = s.tables := rfl
@[simp] theorem State.setPhase_traces (s : State) (r : Ref) (ph : Phase) : (s.setPhase r ph).traces = s.traces := rfl
@[simp] theorem State.setPhase_posted (s : State) (r : Ref) (ph : Phase) : (s.setPhase r ph).posted = s.posted := rfl
@[simp] theorem State.setPhase_stamps (s : State) (r : Ref) (ph : Phase) : (s.setPhase r ph).stamps = s.stamps := rfl
@[simp] theorem State.setPhase_collectives (s : State) (r : Ref) (ph : Phase) : (s.setPhase r ph).collectives = s.collectives := rfl
@[simp] theorem State.setPhase_mcgroups (s : State) (r : Ref) (ph : Phase) : (s.setPhase r ph).mcgroups = s.mcgroups := rfl
@[simp] theorem State.setPhase_mailboxes (s : State) (r : Ref) (ph : Phase) : (s.setPhase r ph).mailboxes = s.mailboxes := rfl
@[simp] theorem State.setPhase_links (s : State) (r : Ref) (ph : Phase) : (s.setPhase r ph).links = s.links := rfl
@[simp] theorem State.setPhase_wiring (s : State) (r : Ref) (ph : Phase) : (s.setPhase r ph).wiring = s.wiring := rfl
@[simp] theorem State.setPhase_fuses (s : State) (r : Ref) (ph : Phase) : (s.setPhase r ph).fuses = s.fuses := rfl
@[simp] theorem State.setPhase_errors (s : State) (r : Ref) (ph : Phase) : (s.setPhase r ph).errors = s.errors := rfl
@[simp] theorem State.setPhase_reports (s : State) (r : Ref) (ph : Phase) : (s.setPhase r ph).reports = s.reports := rfl
@[simp] theorem State.setPhase_pwrlim (s : State) (r : Ref) (ph : Phase) : (s.setPhase r ph).pwrlim = s.pwrlim := rfl
@[simp] theorem State.setPhase_pwrstat (s : State) (r : Ref) (ph : Phase) : (s.setPhase r ph).pwrstat = s.pwrstat := rfl
@[simp] theorem State.setPhase_gates (s : State) (r : Ref) (ph : Phase) : (s.setPhase r ph).gates = s.gates := rfl
@[simp] theorem State.setPhase_gatedAt (s : State) (r : Ref) (ph : Phase) : (s.setPhase r ph).gatedAt = s.gatedAt := rfl
@[simp] theorem State.setPhase_snapAt (s : State) (r : Ref) (ph : Phase) : (s.setPhase r ph).snapAt = s.snapAt := rfl
@[simp] theorem State.setPhase_snapPin (s : State) (r : Ref) (ph : Phase) : (s.setPhase r ph).snapPin = s.snapPin := rfl
@[simp] theorem State.setPhase_bootPrev (s : State) (r : Ref) (ph : Phase) : (s.setPhase r ph).bootPrev = s.bootPrev := rfl
@[simp] theorem State.setPhase_bootNow (s : State) (r : Ref) (ph : Phase) : (s.setPhase r ph).bootNow = s.bootNow := rfl
@[simp] theorem State.setPhase_booted (s : State) (r : Ref) (ph : Phase) : (s.setPhase r ph).booted = s.booted := rfl
@[simp] theorem State.setPhase_measured (s : State) (r : Ref) (ph : Phase) : (s.setPhase r ph).measured = s.measured := rfl
@[simp] theorem State.setPhase_signed (s : State) (r : Ref) (ph : Phase) : (s.setPhase r ph).signed = s.signed := rfl
@[simp] theorem State.setPhase_corrected (s : State) (r : Ref) (ph : Phase) : (s.setPhase r ph).corrected = s.corrected := rfl

@[simp] theorem State.finish_cycle (s : State) (r : Ref) (v : Result) : (s.finish r v).cycle = s.cycle := rfl
@[simp] theorem State.finish_ungated (s : State) (r : Ref) (v : Result) : (s.finish r v).ungated = s.ungated := rfl
@[simp] theorem State.finish_turn (s : State) (r : Ref) (v : Result) : (s.finish r v).turn = s.turn := rfl
@[simp] theorem State.finish_curCore (s : State) (r : Ref) (v : Result) : (s.finish r v).curCore = s.curCore := rfl
@[simp] theorem State.finish_curSlot (s : State) (r : Ref) (v : Result) : (s.finish r v).curSlot = s.curSlot := rfl
@[simp] theorem State.finish_schedule (s : State) (r : Ref) (v : Result) : (s.finish r v).schedule = s.schedule := rfl
@[simp] theorem State.finish_free (s : State) (r : Ref) (v : Result) : (s.finish r v).free = s.free := rfl
@[simp] theorem State.finish_nextId (s : State) (r : Ref) (v : Result) : (s.finish r v).nextId = s.nextId := rfl
@[simp] theorem State.finish_mem (s : State) (r : Ref) (v : Result) : (s.finish r v).mem = s.mem := rfl
@[simp] theorem State.finish_empties (s : State) (r : Ref) (v : Result) : (s.finish r v).empties = s.empties := rfl
@[simp] theorem State.finish_poisons (s : State) (r : Ref) (v : Result) : (s.finish r v).poisons = s.poisons := rfl
@[simp] theorem State.finish_clusters (s : State) (r : Ref) (v : Result) : (s.finish r v).clusters = s.clusters := rfl
@[simp] theorem State.finish_dies (s : State) (r : Ref) (v : Result) : (s.finish r v).dies = s.dies := rfl
@[simp] theorem State.finish_vfs (s : State) (r : Ref) (v : Result) : (s.finish r v).vfs = s.vfs := rfl
@[simp] theorem State.finish_quads (s : State) (r : Ref) (v : Result) : (s.finish r v).quads = s.quads := rfl
@[simp] theorem State.finish_pkg (s : State) (r : Ref) (v : Result) : (s.finish r v).pkg = s.pkg := rfl
@[simp] theorem State.finish_packets (s : State) (r : Ref) (v : Result) : (s.finish r v).packets = s.packets := rfl
@[simp] theorem State.finish_timed (s : State) (r : Ref) (v : Result) : (s.finish r v).timed = s.timed := rfl
@[simp] theorem State.finish_sent (s : State) (r : Ref) (v : Result) : (s.finish r v).sent = s.sent := rfl
@[simp] theorem State.finish_tables (s : State) (r : Ref) (v : Result) : (s.finish r v).tables = s.tables := rfl
@[simp] theorem State.finish_traces (s : State) (r : Ref) (v : Result) : (s.finish r v).traces = s.traces := rfl
@[simp] theorem State.finish_posted (s : State) (r : Ref) (v : Result) : (s.finish r v).posted = s.posted := rfl
@[simp] theorem State.finish_stamps (s : State) (r : Ref) (v : Result) : (s.finish r v).stamps = s.stamps := rfl
@[simp] theorem State.finish_collectives (s : State) (r : Ref) (v : Result) : (s.finish r v).collectives = s.collectives := rfl
@[simp] theorem State.finish_mcgroups (s : State) (r : Ref) (v : Result) : (s.finish r v).mcgroups = s.mcgroups := rfl
@[simp] theorem State.finish_mailboxes (s : State) (r : Ref) (v : Result) : (s.finish r v).mailboxes = s.mailboxes := rfl
@[simp] theorem State.finish_links (s : State) (r : Ref) (v : Result) : (s.finish r v).links = s.links := rfl
@[simp] theorem State.finish_wiring (s : State) (r : Ref) (v : Result) : (s.finish r v).wiring = s.wiring := rfl
@[simp] theorem State.finish_fuses (s : State) (r : Ref) (v : Result) : (s.finish r v).fuses = s.fuses := rfl
@[simp] theorem State.finish_errors (s : State) (r : Ref) (v : Result) : (s.finish r v).errors = s.errors := rfl
@[simp] theorem State.finish_reports (s : State) (r : Ref) (v : Result) : (s.finish r v).reports = s.reports := rfl
@[simp] theorem State.finish_pwrlim (s : State) (r : Ref) (v : Result) : (s.finish r v).pwrlim = s.pwrlim := rfl
@[simp] theorem State.finish_pwrstat (s : State) (r : Ref) (v : Result) : (s.finish r v).pwrstat = s.pwrstat := rfl
@[simp] theorem State.finish_gates (s : State) (r : Ref) (v : Result) : (s.finish r v).gates = s.gates := rfl
@[simp] theorem State.finish_gatedAt (s : State) (r : Ref) (v : Result) : (s.finish r v).gatedAt = s.gatedAt := rfl
@[simp] theorem State.finish_snapAt (s : State) (r : Ref) (v : Result) : (s.finish r v).snapAt = s.snapAt := rfl
@[simp] theorem State.finish_snapPin (s : State) (r : Ref) (v : Result) : (s.finish r v).snapPin = s.snapPin := rfl
@[simp] theorem State.finish_bootPrev (s : State) (r : Ref) (v : Result) : (s.finish r v).bootPrev = s.bootPrev := rfl
@[simp] theorem State.finish_bootNow (s : State) (r : Ref) (v : Result) : (s.finish r v).bootNow = s.bootNow := rfl
@[simp] theorem State.finish_booted (s : State) (r : Ref) (v : Result) : (s.finish r v).booted = s.booted := rfl
@[simp] theorem State.finish_measured (s : State) (r : Ref) (v : Result) : (s.finish r v).measured = s.measured := rfl
@[simp] theorem State.finish_signed (s : State) (r : Ref) (v : Result) : (s.finish r v).signed = s.signed := rfl
@[simp] theorem State.finish_corrected (s : State) (r : Ref) (v : Result) : (s.finish r v).corrected = s.corrected := rfl

@[simp] theorem State.lateFail_cycle (s : State) (r : Ref) (e : Byte) (v : Word) : (s.lateFail r e v).cycle = s.cycle := rfl
@[simp] theorem State.lateFail_ungated (s : State) (r : Ref) (e : Byte) (v : Word) : (s.lateFail r e v).ungated = s.ungated := rfl
@[simp] theorem State.lateFail_turn (s : State) (r : Ref) (e : Byte) (v : Word) : (s.lateFail r e v).turn = s.turn := rfl
@[simp] theorem State.lateFail_curCore (s : State) (r : Ref) (e : Byte) (v : Word) : (s.lateFail r e v).curCore = s.curCore := rfl
@[simp] theorem State.lateFail_curSlot (s : State) (r : Ref) (e : Byte) (v : Word) : (s.lateFail r e v).curSlot = s.curSlot := rfl
@[simp] theorem State.lateFail_schedule (s : State) (r : Ref) (e : Byte) (v : Word) : (s.lateFail r e v).schedule = s.schedule := rfl
@[simp] theorem State.lateFail_free (s : State) (r : Ref) (e : Byte) (v : Word) : (s.lateFail r e v).free = s.free := rfl
@[simp] theorem State.lateFail_nextId (s : State) (r : Ref) (e : Byte) (v : Word) : (s.lateFail r e v).nextId = s.nextId := rfl
@[simp] theorem State.lateFail_mem (s : State) (r : Ref) (e : Byte) (v : Word) : (s.lateFail r e v).mem = s.mem := rfl
@[simp] theorem State.lateFail_empties (s : State) (r : Ref) (e : Byte) (v : Word) : (s.lateFail r e v).empties = s.empties := rfl
@[simp] theorem State.lateFail_poisons (s : State) (r : Ref) (e : Byte) (v : Word) : (s.lateFail r e v).poisons = s.poisons := rfl
@[simp] theorem State.lateFail_clusters (s : State) (r : Ref) (e : Byte) (v : Word) : (s.lateFail r e v).clusters = s.clusters := rfl
@[simp] theorem State.lateFail_dies (s : State) (r : Ref) (e : Byte) (v : Word) : (s.lateFail r e v).dies = s.dies := rfl
@[simp] theorem State.lateFail_vfs (s : State) (r : Ref) (e : Byte) (v : Word) : (s.lateFail r e v).vfs = s.vfs := rfl
@[simp] theorem State.lateFail_quads (s : State) (r : Ref) (e : Byte) (v : Word) : (s.lateFail r e v).quads = s.quads := rfl
@[simp] theorem State.lateFail_pkg (s : State) (r : Ref) (e : Byte) (v : Word) : (s.lateFail r e v).pkg = s.pkg := rfl
@[simp] theorem State.lateFail_packets (s : State) (r : Ref) (e : Byte) (v : Word) : (s.lateFail r e v).packets = s.packets := rfl
@[simp] theorem State.lateFail_timed (s : State) (r : Ref) (e : Byte) (v : Word) : (s.lateFail r e v).timed = s.timed := rfl
@[simp] theorem State.lateFail_sent (s : State) (r : Ref) (e : Byte) (v : Word) : (s.lateFail r e v).sent = s.sent := rfl
@[simp] theorem State.lateFail_tables (s : State) (r : Ref) (e : Byte) (v : Word) : (s.lateFail r e v).tables = s.tables := rfl
@[simp] theorem State.lateFail_traces (s : State) (r : Ref) (e : Byte) (v : Word) : (s.lateFail r e v).traces = s.traces := rfl
@[simp] theorem State.lateFail_posted (s : State) (r : Ref) (e : Byte) (v : Word) : (s.lateFail r e v).posted = s.posted := rfl
@[simp] theorem State.lateFail_stamps (s : State) (r : Ref) (e : Byte) (v : Word) : (s.lateFail r e v).stamps = s.stamps := rfl
@[simp] theorem State.lateFail_collectives (s : State) (r : Ref) (e : Byte) (v : Word) : (s.lateFail r e v).collectives = s.collectives := rfl
@[simp] theorem State.lateFail_mcgroups (s : State) (r : Ref) (e : Byte) (v : Word) : (s.lateFail r e v).mcgroups = s.mcgroups := rfl
@[simp] theorem State.lateFail_mailboxes (s : State) (r : Ref) (e : Byte) (v : Word) : (s.lateFail r e v).mailboxes = s.mailboxes := rfl
@[simp] theorem State.lateFail_links (s : State) (r : Ref) (e : Byte) (v : Word) : (s.lateFail r e v).links = s.links := rfl
@[simp] theorem State.lateFail_wiring (s : State) (r : Ref) (e : Byte) (v : Word) : (s.lateFail r e v).wiring = s.wiring := rfl
@[simp] theorem State.lateFail_fuses (s : State) (r : Ref) (e : Byte) (v : Word) : (s.lateFail r e v).fuses = s.fuses := rfl
@[simp] theorem State.lateFail_errors (s : State) (r : Ref) (e : Byte) (v : Word) : (s.lateFail r e v).errors = s.errors := rfl
@[simp] theorem State.lateFail_reports (s : State) (r : Ref) (e : Byte) (v : Word) : (s.lateFail r e v).reports = s.reports := rfl
@[simp] theorem State.lateFail_pwrlim (s : State) (r : Ref) (e : Byte) (v : Word) : (s.lateFail r e v).pwrlim = s.pwrlim := rfl
@[simp] theorem State.lateFail_pwrstat (s : State) (r : Ref) (e : Byte) (v : Word) : (s.lateFail r e v).pwrstat = s.pwrstat := rfl
@[simp] theorem State.lateFail_gates (s : State) (r : Ref) (e : Byte) (v : Word) : (s.lateFail r e v).gates = s.gates := rfl
@[simp] theorem State.lateFail_gatedAt (s : State) (r : Ref) (e : Byte) (v : Word) : (s.lateFail r e v).gatedAt = s.gatedAt := rfl
@[simp] theorem State.lateFail_snapAt (s : State) (r : Ref) (e : Byte) (v : Word) : (s.lateFail r e v).snapAt = s.snapAt := rfl
@[simp] theorem State.lateFail_snapPin (s : State) (r : Ref) (e : Byte) (v : Word) : (s.lateFail r e v).snapPin = s.snapPin := rfl
@[simp] theorem State.lateFail_bootPrev (s : State) (r : Ref) (e : Byte) (v : Word) : (s.lateFail r e v).bootPrev = s.bootPrev := rfl
@[simp] theorem State.lateFail_bootNow (s : State) (r : Ref) (e : Byte) (v : Word) : (s.lateFail r e v).bootNow = s.bootNow := rfl
@[simp] theorem State.lateFail_booted (s : State) (r : Ref) (e : Byte) (v : Word) : (s.lateFail r e v).booted = s.booted := rfl
@[simp] theorem State.lateFail_measured (s : State) (r : Ref) (e : Byte) (v : Word) : (s.lateFail r e v).measured = s.measured := rfl
@[simp] theorem State.lateFail_signed (s : State) (r : Ref) (e : Byte) (v : Word) : (s.lateFail r e v).signed = s.signed := rfl
@[simp] theorem State.lateFail_corrected (s : State) (r : Ref) (e : Byte) (v : Word) : (s.lateFail r e v).corrected = s.corrected := rfl

@[simp] theorem State.completePend_cycle (s : State) (r : Ref) (v : Result) : (s.completePend r v).cycle = s.cycle := rfl
@[simp] theorem State.completePend_ungated (s : State) (r : Ref) (v : Result) : (s.completePend r v).ungated = s.ungated := rfl
@[simp] theorem State.completePend_turn (s : State) (r : Ref) (v : Result) : (s.completePend r v).turn = s.turn := rfl
@[simp] theorem State.completePend_curCore (s : State) (r : Ref) (v : Result) : (s.completePend r v).curCore = s.curCore := rfl
@[simp] theorem State.completePend_curSlot (s : State) (r : Ref) (v : Result) : (s.completePend r v).curSlot = s.curSlot := rfl
@[simp] theorem State.completePend_schedule (s : State) (r : Ref) (v : Result) : (s.completePend r v).schedule = s.schedule := rfl
@[simp] theorem State.completePend_free (s : State) (r : Ref) (v : Result) : (s.completePend r v).free = s.free := rfl
@[simp] theorem State.completePend_nextId (s : State) (r : Ref) (v : Result) : (s.completePend r v).nextId = s.nextId := rfl
@[simp] theorem State.completePend_mem (s : State) (r : Ref) (v : Result) : (s.completePend r v).mem = s.mem := rfl
@[simp] theorem State.completePend_empties (s : State) (r : Ref) (v : Result) : (s.completePend r v).empties = s.empties := rfl
@[simp] theorem State.completePend_poisons (s : State) (r : Ref) (v : Result) : (s.completePend r v).poisons = s.poisons := rfl
@[simp] theorem State.completePend_clusters (s : State) (r : Ref) (v : Result) : (s.completePend r v).clusters = s.clusters := rfl
@[simp] theorem State.completePend_dies (s : State) (r : Ref) (v : Result) : (s.completePend r v).dies = s.dies := rfl
@[simp] theorem State.completePend_vfs (s : State) (r : Ref) (v : Result) : (s.completePend r v).vfs = s.vfs := rfl
@[simp] theorem State.completePend_quads (s : State) (r : Ref) (v : Result) : (s.completePend r v).quads = s.quads := rfl
@[simp] theorem State.completePend_pkg (s : State) (r : Ref) (v : Result) : (s.completePend r v).pkg = s.pkg := rfl
@[simp] theorem State.completePend_packets (s : State) (r : Ref) (v : Result) : (s.completePend r v).packets = s.packets := rfl
@[simp] theorem State.completePend_timed (s : State) (r : Ref) (v : Result) : (s.completePend r v).timed = s.timed := rfl
@[simp] theorem State.completePend_sent (s : State) (r : Ref) (v : Result) : (s.completePend r v).sent = s.sent := rfl
@[simp] theorem State.completePend_tables (s : State) (r : Ref) (v : Result) : (s.completePend r v).tables = s.tables := rfl
@[simp] theorem State.completePend_traces (s : State) (r : Ref) (v : Result) : (s.completePend r v).traces = s.traces := rfl
@[simp] theorem State.completePend_posted (s : State) (r : Ref) (v : Result) : (s.completePend r v).posted = s.posted := rfl
@[simp] theorem State.completePend_stamps (s : State) (r : Ref) (v : Result) : (s.completePend r v).stamps = s.stamps := rfl
@[simp] theorem State.completePend_collectives (s : State) (r : Ref) (v : Result) : (s.completePend r v).collectives = s.collectives := rfl
@[simp] theorem State.completePend_mcgroups (s : State) (r : Ref) (v : Result) : (s.completePend r v).mcgroups = s.mcgroups := rfl
@[simp] theorem State.completePend_mailboxes (s : State) (r : Ref) (v : Result) : (s.completePend r v).mailboxes = s.mailboxes := rfl
@[simp] theorem State.completePend_links (s : State) (r : Ref) (v : Result) : (s.completePend r v).links = s.links := rfl
@[simp] theorem State.completePend_wiring (s : State) (r : Ref) (v : Result) : (s.completePend r v).wiring = s.wiring := rfl
@[simp] theorem State.completePend_fuses (s : State) (r : Ref) (v : Result) : (s.completePend r v).fuses = s.fuses := rfl
@[simp] theorem State.completePend_errors (s : State) (r : Ref) (v : Result) : (s.completePend r v).errors = s.errors := rfl
@[simp] theorem State.completePend_reports (s : State) (r : Ref) (v : Result) : (s.completePend r v).reports = s.reports := rfl
@[simp] theorem State.completePend_pwrlim (s : State) (r : Ref) (v : Result) : (s.completePend r v).pwrlim = s.pwrlim := rfl
@[simp] theorem State.completePend_pwrstat (s : State) (r : Ref) (v : Result) : (s.completePend r v).pwrstat = s.pwrstat := rfl
@[simp] theorem State.completePend_gates (s : State) (r : Ref) (v : Result) : (s.completePend r v).gates = s.gates := rfl
@[simp] theorem State.completePend_gatedAt (s : State) (r : Ref) (v : Result) : (s.completePend r v).gatedAt = s.gatedAt := rfl
@[simp] theorem State.completePend_snapAt (s : State) (r : Ref) (v : Result) : (s.completePend r v).snapAt = s.snapAt := rfl
@[simp] theorem State.completePend_snapPin (s : State) (r : Ref) (v : Result) : (s.completePend r v).snapPin = s.snapPin := rfl
@[simp] theorem State.completePend_bootPrev (s : State) (r : Ref) (v : Result) : (s.completePend r v).bootPrev = s.bootPrev := rfl
@[simp] theorem State.completePend_bootNow (s : State) (r : Ref) (v : Result) : (s.completePend r v).bootNow = s.bootNow := rfl
@[simp] theorem State.completePend_booted (s : State) (r : Ref) (v : Result) : (s.completePend r v).booted = s.booted := rfl
@[simp] theorem State.completePend_measured (s : State) (r : Ref) (v : Result) : (s.completePend r v).measured = s.measured := rfl
@[simp] theorem State.completePend_signed (s : State) (r : Ref) (v : Result) : (s.completePend r v).signed = s.signed := rfl
@[simp] theorem State.completePend_corrected (s : State) (r : Ref) (v : Result) : (s.completePend r v).corrected = s.corrected := rfl

@[simp] theorem State.withdrawSfu_cycle (s : State) (c k : Nat) : (s.withdrawSfu c k).cycle = s.cycle := rfl
@[simp] theorem State.withdrawSfu_ungated (s : State) (c k : Nat) : (s.withdrawSfu c k).ungated = s.ungated := rfl
@[simp] theorem State.withdrawSfu_turn (s : State) (c k : Nat) : (s.withdrawSfu c k).turn = s.turn := rfl
@[simp] theorem State.withdrawSfu_curCore (s : State) (c k : Nat) : (s.withdrawSfu c k).curCore = s.curCore := rfl
@[simp] theorem State.withdrawSfu_curSlot (s : State) (c k : Nat) : (s.withdrawSfu c k).curSlot = s.curSlot := rfl
@[simp] theorem State.withdrawSfu_schedule (s : State) (c k : Nat) : (s.withdrawSfu c k).schedule = s.schedule := rfl
@[simp] theorem State.withdrawSfu_free (s : State) (c k : Nat) : (s.withdrawSfu c k).free = s.free := rfl
@[simp] theorem State.withdrawSfu_nextId (s : State) (c k : Nat) : (s.withdrawSfu c k).nextId = s.nextId := rfl
@[simp] theorem State.withdrawSfu_mem (s : State) (c k : Nat) : (s.withdrawSfu c k).mem = s.mem := rfl
@[simp] theorem State.withdrawSfu_empties (s : State) (c k : Nat) : (s.withdrawSfu c k).empties = s.empties := rfl
@[simp] theorem State.withdrawSfu_poisons (s : State) (c k : Nat) : (s.withdrawSfu c k).poisons = s.poisons := rfl
@[simp] theorem State.withdrawSfu_clusters (s : State) (c k : Nat) : (s.withdrawSfu c k).clusters = s.clusters := rfl
@[simp] theorem State.withdrawSfu_dies (s : State) (c k : Nat) : (s.withdrawSfu c k).dies = s.dies := rfl
@[simp] theorem State.withdrawSfu_vfs (s : State) (c k : Nat) : (s.withdrawSfu c k).vfs = s.vfs := rfl
@[simp] theorem State.withdrawSfu_quads (s : State) (c k : Nat) : (s.withdrawSfu c k).quads = s.quads := rfl
@[simp] theorem State.withdrawSfu_pkg (s : State) (c k : Nat) : (s.withdrawSfu c k).pkg = s.pkg := rfl
@[simp] theorem State.withdrawSfu_packets (s : State) (c k : Nat) : (s.withdrawSfu c k).packets = s.packets := rfl
@[simp] theorem State.withdrawSfu_timed (s : State) (c k : Nat) : (s.withdrawSfu c k).timed = s.timed := rfl
@[simp] theorem State.withdrawSfu_sent (s : State) (c k : Nat) : (s.withdrawSfu c k).sent = s.sent := rfl
@[simp] theorem State.withdrawSfu_tables (s : State) (c k : Nat) : (s.withdrawSfu c k).tables = s.tables := rfl
@[simp] theorem State.withdrawSfu_traces (s : State) (c k : Nat) : (s.withdrawSfu c k).traces = s.traces := rfl
@[simp] theorem State.withdrawSfu_posted (s : State) (c k : Nat) : (s.withdrawSfu c k).posted = s.posted := rfl
@[simp] theorem State.withdrawSfu_stamps (s : State) (c k : Nat) : (s.withdrawSfu c k).stamps = s.stamps := rfl
@[simp] theorem State.withdrawSfu_collectives (s : State) (c k : Nat) : (s.withdrawSfu c k).collectives = s.collectives := rfl
@[simp] theorem State.withdrawSfu_mcgroups (s : State) (c k : Nat) : (s.withdrawSfu c k).mcgroups = s.mcgroups := rfl
@[simp] theorem State.withdrawSfu_mailboxes (s : State) (c k : Nat) : (s.withdrawSfu c k).mailboxes = s.mailboxes := rfl
@[simp] theorem State.withdrawSfu_links (s : State) (c k : Nat) : (s.withdrawSfu c k).links = s.links := rfl
@[simp] theorem State.withdrawSfu_wiring (s : State) (c k : Nat) : (s.withdrawSfu c k).wiring = s.wiring := rfl
@[simp] theorem State.withdrawSfu_fuses (s : State) (c k : Nat) : (s.withdrawSfu c k).fuses = s.fuses := rfl
@[simp] theorem State.withdrawSfu_errors (s : State) (c k : Nat) : (s.withdrawSfu c k).errors = s.errors := rfl
@[simp] theorem State.withdrawSfu_reports (s : State) (c k : Nat) : (s.withdrawSfu c k).reports = s.reports := rfl
@[simp] theorem State.withdrawSfu_pwrlim (s : State) (c k : Nat) : (s.withdrawSfu c k).pwrlim = s.pwrlim := rfl
@[simp] theorem State.withdrawSfu_pwrstat (s : State) (c k : Nat) : (s.withdrawSfu c k).pwrstat = s.pwrstat := rfl
@[simp] theorem State.withdrawSfu_gates (s : State) (c k : Nat) : (s.withdrawSfu c k).gates = s.gates := rfl
@[simp] theorem State.withdrawSfu_gatedAt (s : State) (c k : Nat) : (s.withdrawSfu c k).gatedAt = s.gatedAt := rfl
@[simp] theorem State.withdrawSfu_snapAt (s : State) (c k : Nat) : (s.withdrawSfu c k).snapAt = s.snapAt := rfl
@[simp] theorem State.withdrawSfu_snapPin (s : State) (c k : Nat) : (s.withdrawSfu c k).snapPin = s.snapPin := rfl
@[simp] theorem State.withdrawSfu_bootPrev (s : State) (c k : Nat) : (s.withdrawSfu c k).bootPrev = s.bootPrev := rfl
@[simp] theorem State.withdrawSfu_bootNow (s : State) (c k : Nat) : (s.withdrawSfu c k).bootNow = s.bootNow := rfl
@[simp] theorem State.withdrawSfu_booted (s : State) (c k : Nat) : (s.withdrawSfu c k).booted = s.booted := rfl
@[simp] theorem State.withdrawSfu_measured (s : State) (c k : Nat) : (s.withdrawSfu c k).measured = s.measured := rfl
@[simp] theorem State.withdrawSfu_signed (s : State) (c k : Nat) : (s.withdrawSfu c k).signed = s.signed := rfl
@[simp] theorem State.withdrawSfu_corrected (s : State) (c k : Nat) : (s.withdrawSfu c k).corrected = s.corrected := rfl

@[simp] theorem State.joinSfu_cycle (s : State) (c k i n : Nat) : (s.joinSfu c k i n).cycle = s.cycle := rfl
@[simp] theorem State.joinSfu_ungated (s : State) (c k i n : Nat) : (s.joinSfu c k i n).ungated = s.ungated := rfl
@[simp] theorem State.joinSfu_turn (s : State) (c k i n : Nat) : (s.joinSfu c k i n).turn = s.turn := rfl
@[simp] theorem State.joinSfu_curCore (s : State) (c k i n : Nat) : (s.joinSfu c k i n).curCore = s.curCore := rfl
@[simp] theorem State.joinSfu_curSlot (s : State) (c k i n : Nat) : (s.joinSfu c k i n).curSlot = s.curSlot := rfl
@[simp] theorem State.joinSfu_schedule (s : State) (c k i n : Nat) : (s.joinSfu c k i n).schedule = s.schedule := rfl
@[simp] theorem State.joinSfu_free (s : State) (c k i n : Nat) : (s.joinSfu c k i n).free = s.free := rfl
@[simp] theorem State.joinSfu_nextId (s : State) (c k i n : Nat) : (s.joinSfu c k i n).nextId = s.nextId := rfl
@[simp] theorem State.joinSfu_mem (s : State) (c k i n : Nat) : (s.joinSfu c k i n).mem = s.mem := rfl
@[simp] theorem State.joinSfu_empties (s : State) (c k i n : Nat) : (s.joinSfu c k i n).empties = s.empties := rfl
@[simp] theorem State.joinSfu_poisons (s : State) (c k i n : Nat) : (s.joinSfu c k i n).poisons = s.poisons := rfl
@[simp] theorem State.joinSfu_clusters (s : State) (c k i n : Nat) : (s.joinSfu c k i n).clusters = s.clusters := rfl
@[simp] theorem State.joinSfu_dies (s : State) (c k i n : Nat) : (s.joinSfu c k i n).dies = s.dies := rfl
@[simp] theorem State.joinSfu_vfs (s : State) (c k i n : Nat) : (s.joinSfu c k i n).vfs = s.vfs := rfl
@[simp] theorem State.joinSfu_quads (s : State) (c k i n : Nat) : (s.joinSfu c k i n).quads = s.quads := rfl
@[simp] theorem State.joinSfu_pkg (s : State) (c k i n : Nat) : (s.joinSfu c k i n).pkg = s.pkg := rfl
@[simp] theorem State.joinSfu_packets (s : State) (c k i n : Nat) : (s.joinSfu c k i n).packets = s.packets := rfl
@[simp] theorem State.joinSfu_timed (s : State) (c k i n : Nat) : (s.joinSfu c k i n).timed = s.timed := rfl
@[simp] theorem State.joinSfu_sent (s : State) (c k i n : Nat) : (s.joinSfu c k i n).sent = s.sent := rfl
@[simp] theorem State.joinSfu_tables (s : State) (c k i n : Nat) : (s.joinSfu c k i n).tables = s.tables := rfl
@[simp] theorem State.joinSfu_traces (s : State) (c k i n : Nat) : (s.joinSfu c k i n).traces = s.traces := rfl
@[simp] theorem State.joinSfu_posted (s : State) (c k i n : Nat) : (s.joinSfu c k i n).posted = s.posted := rfl
@[simp] theorem State.joinSfu_stamps (s : State) (c k i n : Nat) : (s.joinSfu c k i n).stamps = s.stamps := rfl
@[simp] theorem State.joinSfu_collectives (s : State) (c k i n : Nat) : (s.joinSfu c k i n).collectives = s.collectives := rfl
@[simp] theorem State.joinSfu_mcgroups (s : State) (c k i n : Nat) : (s.joinSfu c k i n).mcgroups = s.mcgroups := rfl
@[simp] theorem State.joinSfu_mailboxes (s : State) (c k i n : Nat) : (s.joinSfu c k i n).mailboxes = s.mailboxes := rfl
@[simp] theorem State.joinSfu_links (s : State) (c k i n : Nat) : (s.joinSfu c k i n).links = s.links := rfl
@[simp] theorem State.joinSfu_wiring (s : State) (c k i n : Nat) : (s.joinSfu c k i n).wiring = s.wiring := rfl
@[simp] theorem State.joinSfu_fuses (s : State) (c k i n : Nat) : (s.joinSfu c k i n).fuses = s.fuses := rfl
@[simp] theorem State.joinSfu_errors (s : State) (c k i n : Nat) : (s.joinSfu c k i n).errors = s.errors := rfl
@[simp] theorem State.joinSfu_reports (s : State) (c k i n : Nat) : (s.joinSfu c k i n).reports = s.reports := rfl
@[simp] theorem State.joinSfu_pwrlim (s : State) (c k i n : Nat) : (s.joinSfu c k i n).pwrlim = s.pwrlim := rfl
@[simp] theorem State.joinSfu_pwrstat (s : State) (c k i n : Nat) : (s.joinSfu c k i n).pwrstat = s.pwrstat := rfl
@[simp] theorem State.joinSfu_gates (s : State) (c k i n : Nat) : (s.joinSfu c k i n).gates = s.gates := rfl
@[simp] theorem State.joinSfu_gatedAt (s : State) (c k i n : Nat) : (s.joinSfu c k i n).gatedAt = s.gatedAt := rfl
@[simp] theorem State.joinSfu_snapAt (s : State) (c k i n : Nat) : (s.joinSfu c k i n).snapAt = s.snapAt := rfl
@[simp] theorem State.joinSfu_snapPin (s : State) (c k i n : Nat) : (s.joinSfu c k i n).snapPin = s.snapPin := rfl
@[simp] theorem State.joinSfu_bootPrev (s : State) (c k i n : Nat) : (s.joinSfu c k i n).bootPrev = s.bootPrev := rfl
@[simp] theorem State.joinSfu_bootNow (s : State) (c k i n : Nat) : (s.joinSfu c k i n).bootNow = s.bootNow := rfl
@[simp] theorem State.joinSfu_booted (s : State) (c k i n : Nat) : (s.joinSfu c k i n).booted = s.booted := rfl
@[simp] theorem State.joinSfu_measured (s : State) (c k i n : Nat) : (s.joinSfu c k i n).measured = s.measured := rfl
@[simp] theorem State.joinSfu_signed (s : State) (c k i n : Nat) : (s.joinSfu c k i n).signed = s.signed := rfl
@[simp] theorem State.joinSfu_corrected (s : State) (c k i n : Nat) : (s.joinSfu c k i n).corrected = s.corrected := rfl

@[simp] theorem State.addPend_cycle (s : State) (c k : Nat) (p : Pending) : (s.addPend c k p).cycle = s.cycle := rfl
@[simp] theorem State.addPend_ungated (s : State) (c k : Nat) (p : Pending) : (s.addPend c k p).ungated = s.ungated := rfl
@[simp] theorem State.addPend_turn (s : State) (c k : Nat) (p : Pending) : (s.addPend c k p).turn = s.turn := rfl
@[simp] theorem State.addPend_curCore (s : State) (c k : Nat) (p : Pending) : (s.addPend c k p).curCore = s.curCore := rfl
@[simp] theorem State.addPend_curSlot (s : State) (c k : Nat) (p : Pending) : (s.addPend c k p).curSlot = s.curSlot := rfl
@[simp] theorem State.addPend_schedule (s : State) (c k : Nat) (p : Pending) : (s.addPend c k p).schedule = s.schedule := rfl
@[simp] theorem State.addPend_free (s : State) (c k : Nat) (p : Pending) : (s.addPend c k p).free = s.free := rfl
@[simp] theorem State.addPend_mem (s : State) (c k : Nat) (p : Pending) : (s.addPend c k p).mem = s.mem := rfl
@[simp] theorem State.addPend_empties (s : State) (c k : Nat) (p : Pending) : (s.addPend c k p).empties = s.empties := rfl
@[simp] theorem State.addPend_poisons (s : State) (c k : Nat) (p : Pending) : (s.addPend c k p).poisons = s.poisons := rfl
@[simp] theorem State.addPend_clusters (s : State) (c k : Nat) (p : Pending) : (s.addPend c k p).clusters = s.clusters := rfl
@[simp] theorem State.addPend_dies (s : State) (c k : Nat) (p : Pending) : (s.addPend c k p).dies = s.dies := rfl
@[simp] theorem State.addPend_vfs (s : State) (c k : Nat) (p : Pending) : (s.addPend c k p).vfs = s.vfs := rfl
@[simp] theorem State.addPend_quads (s : State) (c k : Nat) (p : Pending) : (s.addPend c k p).quads = s.quads := rfl
@[simp] theorem State.addPend_pkg (s : State) (c k : Nat) (p : Pending) : (s.addPend c k p).pkg = s.pkg := rfl
@[simp] theorem State.addPend_packets (s : State) (c k : Nat) (p : Pending) : (s.addPend c k p).packets = s.packets := rfl
@[simp] theorem State.addPend_timed (s : State) (c k : Nat) (p : Pending) : (s.addPend c k p).timed = s.timed := rfl
@[simp] theorem State.addPend_sent (s : State) (c k : Nat) (p : Pending) : (s.addPend c k p).sent = s.sent := rfl
@[simp] theorem State.addPend_tables (s : State) (c k : Nat) (p : Pending) : (s.addPend c k p).tables = s.tables := rfl
@[simp] theorem State.addPend_traces (s : State) (c k : Nat) (p : Pending) : (s.addPend c k p).traces = s.traces := rfl
@[simp] theorem State.addPend_posted (s : State) (c k : Nat) (p : Pending) : (s.addPend c k p).posted = s.posted := rfl
@[simp] theorem State.addPend_stamps (s : State) (c k : Nat) (p : Pending) : (s.addPend c k p).stamps = s.stamps := rfl
@[simp] theorem State.addPend_collectives (s : State) (c k : Nat) (p : Pending) : (s.addPend c k p).collectives = s.collectives := rfl
@[simp] theorem State.addPend_mcgroups (s : State) (c k : Nat) (p : Pending) : (s.addPend c k p).mcgroups = s.mcgroups := rfl
@[simp] theorem State.addPend_mailboxes (s : State) (c k : Nat) (p : Pending) : (s.addPend c k p).mailboxes = s.mailboxes := rfl
@[simp] theorem State.addPend_links (s : State) (c k : Nat) (p : Pending) : (s.addPend c k p).links = s.links := rfl
@[simp] theorem State.addPend_wiring (s : State) (c k : Nat) (p : Pending) : (s.addPend c k p).wiring = s.wiring := rfl
@[simp] theorem State.addPend_fuses (s : State) (c k : Nat) (p : Pending) : (s.addPend c k p).fuses = s.fuses := rfl
@[simp] theorem State.addPend_errors (s : State) (c k : Nat) (p : Pending) : (s.addPend c k p).errors = s.errors := rfl
@[simp] theorem State.addPend_reports (s : State) (c k : Nat) (p : Pending) : (s.addPend c k p).reports = s.reports := rfl
@[simp] theorem State.addPend_pwrlim (s : State) (c k : Nat) (p : Pending) : (s.addPend c k p).pwrlim = s.pwrlim := rfl
@[simp] theorem State.addPend_pwrstat (s : State) (c k : Nat) (p : Pending) : (s.addPend c k p).pwrstat = s.pwrstat := rfl
@[simp] theorem State.addPend_gates (s : State) (c k : Nat) (p : Pending) : (s.addPend c k p).gates = s.gates := rfl
@[simp] theorem State.addPend_gatedAt (s : State) (c k : Nat) (p : Pending) : (s.addPend c k p).gatedAt = s.gatedAt := rfl
@[simp] theorem State.addPend_snapAt (s : State) (c k : Nat) (p : Pending) : (s.addPend c k p).snapAt = s.snapAt := rfl
@[simp] theorem State.addPend_snapPin (s : State) (c k : Nat) (p : Pending) : (s.addPend c k p).snapPin = s.snapPin := rfl
@[simp] theorem State.addPend_bootPrev (s : State) (c k : Nat) (p : Pending) : (s.addPend c k p).bootPrev = s.bootPrev := rfl
@[simp] theorem State.addPend_bootNow (s : State) (c k : Nat) (p : Pending) : (s.addPend c k p).bootNow = s.bootNow := rfl
@[simp] theorem State.addPend_booted (s : State) (c k : Nat) (p : Pending) : (s.addPend c k p).booted = s.booted := rfl
@[simp] theorem State.addPend_measured (s : State) (c k : Nat) (p : Pending) : (s.addPend c k p).measured = s.measured := rfl
@[simp] theorem State.addPend_signed (s : State) (c k : Nat) (p : Pending) : (s.addPend c k p).signed = s.signed := rfl
@[simp] theorem State.addPend_corrected (s : State) (c k : Nat) (p : Pending) : (s.addPend c k p).corrected = s.corrected := rfl

@[simp] theorem State.fly_cycle (s : State) (i : Instr) (o : Operands) (m r : Bool) (ph : Phase) : (s.fly i o m r ph).cycle = s.cycle := rfl
@[simp] theorem State.fly_ungated (s : State) (i : Instr) (o : Operands) (m r : Bool) (ph : Phase) : (s.fly i o m r ph).ungated = s.ungated := rfl
@[simp] theorem State.fly_turn (s : State) (i : Instr) (o : Operands) (m r : Bool) (ph : Phase) : (s.fly i o m r ph).turn = s.turn := rfl
@[simp] theorem State.fly_curCore (s : State) (i : Instr) (o : Operands) (m r : Bool) (ph : Phase) : (s.fly i o m r ph).curCore = s.curCore := rfl
@[simp] theorem State.fly_curSlot (s : State) (i : Instr) (o : Operands) (m r : Bool) (ph : Phase) : (s.fly i o m r ph).curSlot = s.curSlot := rfl
@[simp] theorem State.fly_schedule (s : State) (i : Instr) (o : Operands) (m r : Bool) (ph : Phase) : (s.fly i o m r ph).schedule = s.schedule := rfl
@[simp] theorem State.fly_free (s : State) (i : Instr) (o : Operands) (m r : Bool) (ph : Phase) : (s.fly i o m r ph).free = s.free := rfl
@[simp] theorem State.fly_mem (s : State) (i : Instr) (o : Operands) (m r : Bool) (ph : Phase) : (s.fly i o m r ph).mem = s.mem := rfl
@[simp] theorem State.fly_empties (s : State) (i : Instr) (o : Operands) (m r : Bool) (ph : Phase) : (s.fly i o m r ph).empties = s.empties := rfl
@[simp] theorem State.fly_poisons (s : State) (i : Instr) (o : Operands) (m r : Bool) (ph : Phase) : (s.fly i o m r ph).poisons = s.poisons := rfl
@[simp] theorem State.fly_clusters (s : State) (i : Instr) (o : Operands) (m r : Bool) (ph : Phase) : (s.fly i o m r ph).clusters = s.clusters := rfl
@[simp] theorem State.fly_dies (s : State) (i : Instr) (o : Operands) (m r : Bool) (ph : Phase) : (s.fly i o m r ph).dies = s.dies := rfl
@[simp] theorem State.fly_vfs (s : State) (i : Instr) (o : Operands) (m r : Bool) (ph : Phase) : (s.fly i o m r ph).vfs = s.vfs := rfl
@[simp] theorem State.fly_quads (s : State) (i : Instr) (o : Operands) (m r : Bool) (ph : Phase) : (s.fly i o m r ph).quads = s.quads := rfl
@[simp] theorem State.fly_pkg (s : State) (i : Instr) (o : Operands) (m r : Bool) (ph : Phase) : (s.fly i o m r ph).pkg = s.pkg := rfl
@[simp] theorem State.fly_packets (s : State) (i : Instr) (o : Operands) (m r : Bool) (ph : Phase) : (s.fly i o m r ph).packets = s.packets := rfl
@[simp] theorem State.fly_timed (s : State) (i : Instr) (o : Operands) (m r : Bool) (ph : Phase) : (s.fly i o m r ph).timed = s.timed := rfl
@[simp] theorem State.fly_sent (s : State) (i : Instr) (o : Operands) (m r : Bool) (ph : Phase) : (s.fly i o m r ph).sent = s.sent := rfl
@[simp] theorem State.fly_tables (s : State) (i : Instr) (o : Operands) (m r : Bool) (ph : Phase) : (s.fly i o m r ph).tables = s.tables := rfl
@[simp] theorem State.fly_traces (s : State) (i : Instr) (o : Operands) (m r : Bool) (ph : Phase) : (s.fly i o m r ph).traces = s.traces := rfl
@[simp] theorem State.fly_posted (s : State) (i : Instr) (o : Operands) (m r : Bool) (ph : Phase) : (s.fly i o m r ph).posted = s.posted := rfl
@[simp] theorem State.fly_stamps (s : State) (i : Instr) (o : Operands) (m r : Bool) (ph : Phase) : (s.fly i o m r ph).stamps = s.stamps := rfl
@[simp] theorem State.fly_collectives (s : State) (i : Instr) (o : Operands) (m r : Bool) (ph : Phase) : (s.fly i o m r ph).collectives = s.collectives := rfl
@[simp] theorem State.fly_mcgroups (s : State) (i : Instr) (o : Operands) (m r : Bool) (ph : Phase) : (s.fly i o m r ph).mcgroups = s.mcgroups := rfl
@[simp] theorem State.fly_mailboxes (s : State) (i : Instr) (o : Operands) (m r : Bool) (ph : Phase) : (s.fly i o m r ph).mailboxes = s.mailboxes := rfl
@[simp] theorem State.fly_links (s : State) (i : Instr) (o : Operands) (m r : Bool) (ph : Phase) : (s.fly i o m r ph).links = s.links := rfl
@[simp] theorem State.fly_wiring (s : State) (i : Instr) (o : Operands) (m r : Bool) (ph : Phase) : (s.fly i o m r ph).wiring = s.wiring := rfl
@[simp] theorem State.fly_fuses (s : State) (i : Instr) (o : Operands) (m r : Bool) (ph : Phase) : (s.fly i o m r ph).fuses = s.fuses := rfl
@[simp] theorem State.fly_errors (s : State) (i : Instr) (o : Operands) (m r : Bool) (ph : Phase) : (s.fly i o m r ph).errors = s.errors := rfl
@[simp] theorem State.fly_reports (s : State) (i : Instr) (o : Operands) (m r : Bool) (ph : Phase) : (s.fly i o m r ph).reports = s.reports := rfl
@[simp] theorem State.fly_pwrlim (s : State) (i : Instr) (o : Operands) (m r : Bool) (ph : Phase) : (s.fly i o m r ph).pwrlim = s.pwrlim := rfl
@[simp] theorem State.fly_pwrstat (s : State) (i : Instr) (o : Operands) (m r : Bool) (ph : Phase) : (s.fly i o m r ph).pwrstat = s.pwrstat := rfl
@[simp] theorem State.fly_gates (s : State) (i : Instr) (o : Operands) (m r : Bool) (ph : Phase) : (s.fly i o m r ph).gates = s.gates := rfl
@[simp] theorem State.fly_gatedAt (s : State) (i : Instr) (o : Operands) (m r : Bool) (ph : Phase) : (s.fly i o m r ph).gatedAt = s.gatedAt := rfl
@[simp] theorem State.fly_snapAt (s : State) (i : Instr) (o : Operands) (m r : Bool) (ph : Phase) : (s.fly i o m r ph).snapAt = s.snapAt := rfl
@[simp] theorem State.fly_snapPin (s : State) (i : Instr) (o : Operands) (m r : Bool) (ph : Phase) : (s.fly i o m r ph).snapPin = s.snapPin := rfl
@[simp] theorem State.fly_bootPrev (s : State) (i : Instr) (o : Operands) (m r : Bool) (ph : Phase) : (s.fly i o m r ph).bootPrev = s.bootPrev := rfl
@[simp] theorem State.fly_bootNow (s : State) (i : Instr) (o : Operands) (m r : Bool) (ph : Phase) : (s.fly i o m r ph).bootNow = s.bootNow := rfl
@[simp] theorem State.fly_booted (s : State) (i : Instr) (o : Operands) (m r : Bool) (ph : Phase) : (s.fly i o m r ph).booted = s.booted := rfl
@[simp] theorem State.fly_measured (s : State) (i : Instr) (o : Operands) (m r : Bool) (ph : Phase) : (s.fly i o m r ph).measured = s.measured := rfl
@[simp] theorem State.fly_signed (s : State) (i : Instr) (o : Operands) (m r : Bool) (ph : Phase) : (s.fly i o m r ph).signed = s.signed := rfl
@[simp] theorem State.fly_corrected (s : State) (i : Instr) (o : Operands) (m r : Bool) (ph : Phase) : (s.fly i o m r ph).corrected = s.corrected := rfl

@[simp] theorem State.doubleTrap_cycle (s : State) (c : Nat) (e v : Word) : (s.doubleTrap c e v).cycle = s.cycle := rfl
@[simp] theorem State.doubleTrap_ungated (s : State) (c : Nat) (e v : Word) : (s.doubleTrap c e v).ungated = s.ungated := rfl
@[simp] theorem State.doubleTrap_turn (s : State) (c : Nat) (e v : Word) : (s.doubleTrap c e v).turn = s.turn := rfl
@[simp] theorem State.doubleTrap_curCore (s : State) (c : Nat) (e v : Word) : (s.doubleTrap c e v).curCore = s.curCore := rfl
@[simp] theorem State.doubleTrap_curSlot (s : State) (c : Nat) (e v : Word) : (s.doubleTrap c e v).curSlot = s.curSlot := rfl
@[simp] theorem State.doubleTrap_schedule (s : State) (c : Nat) (e v : Word) : (s.doubleTrap c e v).schedule = s.schedule := rfl
@[simp] theorem State.doubleTrap_free (s : State) (c : Nat) (e v : Word) : (s.doubleTrap c e v).free = s.free := rfl
@[simp] theorem State.doubleTrap_nextId (s : State) (c : Nat) (e v : Word) : (s.doubleTrap c e v).nextId = s.nextId := rfl
@[simp] theorem State.doubleTrap_mem (s : State) (c : Nat) (e v : Word) : (s.doubleTrap c e v).mem = s.mem := rfl
@[simp] theorem State.doubleTrap_empties (s : State) (c : Nat) (e v : Word) : (s.doubleTrap c e v).empties = s.empties := rfl
@[simp] theorem State.doubleTrap_poisons (s : State) (c : Nat) (e v : Word) : (s.doubleTrap c e v).poisons = s.poisons := rfl
@[simp] theorem State.doubleTrap_clusters (s : State) (c : Nat) (e v : Word) : (s.doubleTrap c e v).clusters = s.clusters := rfl
@[simp] theorem State.doubleTrap_dies (s : State) (c : Nat) (e v : Word) : (s.doubleTrap c e v).dies = s.dies := rfl
@[simp] theorem State.doubleTrap_vfs (s : State) (c : Nat) (e v : Word) : (s.doubleTrap c e v).vfs = s.vfs := rfl
@[simp] theorem State.doubleTrap_quads (s : State) (c : Nat) (e v : Word) : (s.doubleTrap c e v).quads = s.quads := rfl
@[simp] theorem State.doubleTrap_pkg (s : State) (c : Nat) (e v : Word) : (s.doubleTrap c e v).pkg = s.pkg := rfl
@[simp] theorem State.doubleTrap_packets (s : State) (c : Nat) (e v : Word) : (s.doubleTrap c e v).packets = s.packets := rfl
@[simp] theorem State.doubleTrap_timed (s : State) (c : Nat) (e v : Word) : (s.doubleTrap c e v).timed = s.timed := rfl
@[simp] theorem State.doubleTrap_sent (s : State) (c : Nat) (e v : Word) : (s.doubleTrap c e v).sent = s.sent := rfl
@[simp] theorem State.doubleTrap_tables (s : State) (c : Nat) (e v : Word) : (s.doubleTrap c e v).tables = s.tables := rfl
@[simp] theorem State.doubleTrap_traces (s : State) (c : Nat) (e v : Word) : (s.doubleTrap c e v).traces = s.traces := rfl
@[simp] theorem State.doubleTrap_posted (s : State) (c : Nat) (e v : Word) : (s.doubleTrap c e v).posted = s.posted := rfl
@[simp] theorem State.doubleTrap_stamps (s : State) (c : Nat) (e v : Word) : (s.doubleTrap c e v).stamps = s.stamps := rfl
@[simp] theorem State.doubleTrap_collectives (s : State) (c : Nat) (e v : Word) : (s.doubleTrap c e v).collectives = s.collectives := rfl
@[simp] theorem State.doubleTrap_mcgroups (s : State) (c : Nat) (e v : Word) : (s.doubleTrap c e v).mcgroups = s.mcgroups := rfl
@[simp] theorem State.doubleTrap_mailboxes (s : State) (c : Nat) (e v : Word) : (s.doubleTrap c e v).mailboxes = s.mailboxes := rfl
@[simp] theorem State.doubleTrap_links (s : State) (c : Nat) (e v : Word) : (s.doubleTrap c e v).links = s.links := rfl
@[simp] theorem State.doubleTrap_wiring (s : State) (c : Nat) (e v : Word) : (s.doubleTrap c e v).wiring = s.wiring := rfl
@[simp] theorem State.doubleTrap_fuses (s : State) (c : Nat) (e v : Word) : (s.doubleTrap c e v).fuses = s.fuses := rfl
@[simp] theorem State.doubleTrap_errors (s : State) (c : Nat) (e v : Word) : (s.doubleTrap c e v).errors = s.errors := rfl
@[simp] theorem State.doubleTrap_pwrlim (s : State) (c : Nat) (e v : Word) : (s.doubleTrap c e v).pwrlim = s.pwrlim := rfl
@[simp] theorem State.doubleTrap_pwrstat (s : State) (c : Nat) (e v : Word) : (s.doubleTrap c e v).pwrstat = s.pwrstat := rfl
@[simp] theorem State.doubleTrap_gates (s : State) (c : Nat) (e v : Word) : (s.doubleTrap c e v).gates = s.gates := rfl
@[simp] theorem State.doubleTrap_gatedAt (s : State) (c : Nat) (e v : Word) : (s.doubleTrap c e v).gatedAt = s.gatedAt := rfl
@[simp] theorem State.doubleTrap_snapAt (s : State) (c : Nat) (e v : Word) : (s.doubleTrap c e v).snapAt = s.snapAt := rfl
@[simp] theorem State.doubleTrap_snapPin (s : State) (c : Nat) (e v : Word) : (s.doubleTrap c e v).snapPin = s.snapPin := rfl
@[simp] theorem State.doubleTrap_bootPrev (s : State) (c : Nat) (e v : Word) : (s.doubleTrap c e v).bootPrev = s.bootPrev := rfl
@[simp] theorem State.doubleTrap_bootNow (s : State) (c : Nat) (e v : Word) : (s.doubleTrap c e v).bootNow = s.bootNow := rfl
@[simp] theorem State.doubleTrap_booted (s : State) (c : Nat) (e v : Word) : (s.doubleTrap c e v).booted = s.booted := rfl
@[simp] theorem State.doubleTrap_measured (s : State) (c : Nat) (e v : Word) : (s.doubleTrap c e v).measured = s.measured := rfl
@[simp] theorem State.doubleTrap_signed (s : State) (c : Nat) (e v : Word) : (s.doubleTrap c e v).signed = s.signed := rfl
@[simp] theorem State.doubleTrap_corrected (s : State) (c : Nat) (e v : Word) : (s.doubleTrap c e v).corrected = s.corrected := rfl

@[simp] theorem State.report_cycle (s : State) (r : Report) : (s.report r).cycle = s.cycle := rfl
@[simp] theorem State.report_ungated (s : State) (r : Report) : (s.report r).ungated = s.ungated := rfl
@[simp] theorem State.report_turn (s : State) (r : Report) : (s.report r).turn = s.turn := rfl
@[simp] theorem State.report_curCore (s : State) (r : Report) : (s.report r).curCore = s.curCore := rfl
@[simp] theorem State.report_curSlot (s : State) (r : Report) : (s.report r).curSlot = s.curSlot := rfl
@[simp] theorem State.report_schedule (s : State) (r : Report) : (s.report r).schedule = s.schedule := rfl
@[simp] theorem State.report_free (s : State) (r : Report) : (s.report r).free = s.free := rfl
@[simp] theorem State.report_nextId (s : State) (r : Report) : (s.report r).nextId = s.nextId := rfl
@[simp] theorem State.report_mem (s : State) (r : Report) : (s.report r).mem = s.mem := rfl
@[simp] theorem State.report_empties (s : State) (r : Report) : (s.report r).empties = s.empties := rfl
@[simp] theorem State.report_poisons (s : State) (r : Report) : (s.report r).poisons = s.poisons := rfl
@[simp] theorem State.report_cores (s : State) (r : Report) : (s.report r).cores = s.cores := rfl
@[simp] theorem State.report_clusters (s : State) (r : Report) : (s.report r).clusters = s.clusters := rfl
@[simp] theorem State.report_dies (s : State) (r : Report) : (s.report r).dies = s.dies := rfl
@[simp] theorem State.report_vfs (s : State) (r : Report) : (s.report r).vfs = s.vfs := rfl
@[simp] theorem State.report_quads (s : State) (r : Report) : (s.report r).quads = s.quads := rfl
@[simp] theorem State.report_pkg (s : State) (r : Report) : (s.report r).pkg = s.pkg := rfl
@[simp] theorem State.report_packets (s : State) (r : Report) : (s.report r).packets = s.packets := rfl
@[simp] theorem State.report_timed (s : State) (r : Report) : (s.report r).timed = s.timed := rfl
@[simp] theorem State.report_sent (s : State) (r : Report) : (s.report r).sent = s.sent := rfl
@[simp] theorem State.report_tables (s : State) (r : Report) : (s.report r).tables = s.tables := rfl
@[simp] theorem State.report_traces (s : State) (r : Report) : (s.report r).traces = s.traces := rfl
@[simp] theorem State.report_posted (s : State) (r : Report) : (s.report r).posted = s.posted := rfl
@[simp] theorem State.report_stamps (s : State) (r : Report) : (s.report r).stamps = s.stamps := rfl
@[simp] theorem State.report_collectives (s : State) (r : Report) : (s.report r).collectives = s.collectives := rfl
@[simp] theorem State.report_mcgroups (s : State) (r : Report) : (s.report r).mcgroups = s.mcgroups := rfl
@[simp] theorem State.report_mailboxes (s : State) (r : Report) : (s.report r).mailboxes = s.mailboxes := rfl
@[simp] theorem State.report_links (s : State) (r : Report) : (s.report r).links = s.links := rfl
@[simp] theorem State.report_wiring (s : State) (r : Report) : (s.report r).wiring = s.wiring := rfl
@[simp] theorem State.report_fuses (s : State) (r : Report) : (s.report r).fuses = s.fuses := rfl
@[simp] theorem State.report_errors (s : State) (r : Report) : (s.report r).errors = s.errors := rfl
@[simp] theorem State.report_pwrlim (s : State) (r : Report) : (s.report r).pwrlim = s.pwrlim := rfl
@[simp] theorem State.report_pwrstat (s : State) (r : Report) : (s.report r).pwrstat = s.pwrstat := rfl
@[simp] theorem State.report_gates (s : State) (r : Report) : (s.report r).gates = s.gates := rfl
@[simp] theorem State.report_gatedAt (s : State) (r : Report) : (s.report r).gatedAt = s.gatedAt := rfl
@[simp] theorem State.report_snapAt (s : State) (r : Report) : (s.report r).snapAt = s.snapAt := rfl
@[simp] theorem State.report_snapPin (s : State) (r : Report) : (s.report r).snapPin = s.snapPin := rfl
@[simp] theorem State.report_bootPrev (s : State) (r : Report) : (s.report r).bootPrev = s.bootPrev := rfl
@[simp] theorem State.report_bootNow (s : State) (r : Report) : (s.report r).bootNow = s.bootNow := rfl
@[simp] theorem State.report_booted (s : State) (r : Report) : (s.report r).booted = s.booted := rfl
@[simp] theorem State.report_measured (s : State) (r : Report) : (s.report r).measured = s.measured := rfl
@[simp] theorem State.report_signed (s : State) (r : Report) : (s.report r).signed = s.signed := rfl
@[simp] theorem State.report_corrected (s : State) (r : Report) : (s.report r).corrected = s.corrected := rfl

@[simp] theorem State.putCluster_cycle (s : State) (c : Nat) (x : Cluster) : (s.putCluster c x).cycle = s.cycle := rfl
@[simp] theorem State.putCluster_ungated (s : State) (c : Nat) (x : Cluster) : (s.putCluster c x).ungated = s.ungated := rfl
@[simp] theorem State.putCluster_turn (s : State) (c : Nat) (x : Cluster) : (s.putCluster c x).turn = s.turn := rfl
@[simp] theorem State.putCluster_curCore (s : State) (c : Nat) (x : Cluster) : (s.putCluster c x).curCore = s.curCore := rfl
@[simp] theorem State.putCluster_curSlot (s : State) (c : Nat) (x : Cluster) : (s.putCluster c x).curSlot = s.curSlot := rfl
@[simp] theorem State.putCluster_schedule (s : State) (c : Nat) (x : Cluster) : (s.putCluster c x).schedule = s.schedule := rfl
@[simp] theorem State.putCluster_free (s : State) (c : Nat) (x : Cluster) : (s.putCluster c x).free = s.free := rfl
@[simp] theorem State.putCluster_nextId (s : State) (c : Nat) (x : Cluster) : (s.putCluster c x).nextId = s.nextId := rfl
@[simp] theorem State.putCluster_mem (s : State) (c : Nat) (x : Cluster) : (s.putCluster c x).mem = s.mem := rfl
@[simp] theorem State.putCluster_empties (s : State) (c : Nat) (x : Cluster) : (s.putCluster c x).empties = s.empties := rfl
@[simp] theorem State.putCluster_poisons (s : State) (c : Nat) (x : Cluster) : (s.putCluster c x).poisons = s.poisons := rfl
@[simp] theorem State.putCluster_cores (s : State) (c : Nat) (x : Cluster) : (s.putCluster c x).cores = s.cores := rfl
@[simp] theorem State.putCluster_dies (s : State) (c : Nat) (x : Cluster) : (s.putCluster c x).dies = s.dies := rfl
@[simp] theorem State.putCluster_vfs (s : State) (c : Nat) (x : Cluster) : (s.putCluster c x).vfs = s.vfs := rfl
@[simp] theorem State.putCluster_quads (s : State) (c : Nat) (x : Cluster) : (s.putCluster c x).quads = s.quads := rfl
@[simp] theorem State.putCluster_pkg (s : State) (c : Nat) (x : Cluster) : (s.putCluster c x).pkg = s.pkg := rfl
@[simp] theorem State.putCluster_packets (s : State) (c : Nat) (x : Cluster) : (s.putCluster c x).packets = s.packets := rfl
@[simp] theorem State.putCluster_timed (s : State) (c : Nat) (x : Cluster) : (s.putCluster c x).timed = s.timed := rfl
@[simp] theorem State.putCluster_sent (s : State) (c : Nat) (x : Cluster) : (s.putCluster c x).sent = s.sent := rfl
@[simp] theorem State.putCluster_tables (s : State) (c : Nat) (x : Cluster) : (s.putCluster c x).tables = s.tables := rfl
@[simp] theorem State.putCluster_traces (s : State) (c : Nat) (x : Cluster) : (s.putCluster c x).traces = s.traces := rfl
@[simp] theorem State.putCluster_posted (s : State) (c : Nat) (x : Cluster) : (s.putCluster c x).posted = s.posted := rfl
@[simp] theorem State.putCluster_stamps (s : State) (c : Nat) (x : Cluster) : (s.putCluster c x).stamps = s.stamps := rfl
@[simp] theorem State.putCluster_collectives (s : State) (c : Nat) (x : Cluster) : (s.putCluster c x).collectives = s.collectives := rfl
@[simp] theorem State.putCluster_mcgroups (s : State) (c : Nat) (x : Cluster) : (s.putCluster c x).mcgroups = s.mcgroups := rfl
@[simp] theorem State.putCluster_mailboxes (s : State) (c : Nat) (x : Cluster) : (s.putCluster c x).mailboxes = s.mailboxes := rfl
@[simp] theorem State.putCluster_links (s : State) (c : Nat) (x : Cluster) : (s.putCluster c x).links = s.links := rfl
@[simp] theorem State.putCluster_wiring (s : State) (c : Nat) (x : Cluster) : (s.putCluster c x).wiring = s.wiring := rfl
@[simp] theorem State.putCluster_fuses (s : State) (c : Nat) (x : Cluster) : (s.putCluster c x).fuses = s.fuses := rfl
@[simp] theorem State.putCluster_errors (s : State) (c : Nat) (x : Cluster) : (s.putCluster c x).errors = s.errors := rfl
@[simp] theorem State.putCluster_reports (s : State) (c : Nat) (x : Cluster) : (s.putCluster c x).reports = s.reports := rfl
@[simp] theorem State.putCluster_pwrlim (s : State) (c : Nat) (x : Cluster) : (s.putCluster c x).pwrlim = s.pwrlim := rfl
@[simp] theorem State.putCluster_pwrstat (s : State) (c : Nat) (x : Cluster) : (s.putCluster c x).pwrstat = s.pwrstat := rfl
@[simp] theorem State.putCluster_gates (s : State) (c : Nat) (x : Cluster) : (s.putCluster c x).gates = s.gates := rfl
@[simp] theorem State.putCluster_gatedAt (s : State) (c : Nat) (x : Cluster) : (s.putCluster c x).gatedAt = s.gatedAt := rfl
@[simp] theorem State.putCluster_snapAt (s : State) (c : Nat) (x : Cluster) : (s.putCluster c x).snapAt = s.snapAt := rfl
@[simp] theorem State.putCluster_snapPin (s : State) (c : Nat) (x : Cluster) : (s.putCluster c x).snapPin = s.snapPin := rfl
@[simp] theorem State.putCluster_bootPrev (s : State) (c : Nat) (x : Cluster) : (s.putCluster c x).bootPrev = s.bootPrev := rfl
@[simp] theorem State.putCluster_bootNow (s : State) (c : Nat) (x : Cluster) : (s.putCluster c x).bootNow = s.bootNow := rfl
@[simp] theorem State.putCluster_booted (s : State) (c : Nat) (x : Cluster) : (s.putCluster c x).booted = s.booted := rfl
@[simp] theorem State.putCluster_measured (s : State) (c : Nat) (x : Cluster) : (s.putCluster c x).measured = s.measured := rfl
@[simp] theorem State.putCluster_signed (s : State) (c : Nat) (x : Cluster) : (s.putCluster c x).signed = s.signed := rfl
@[simp] theorem State.putCluster_corrected (s : State) (c : Nat) (x : Cluster) : (s.putCluster c x).corrected = s.corrected := rfl

@[simp] theorem State.modCluster_cycle (s : State) (c : Nat) (f : Cluster → Cluster) : (s.modCluster c f).cycle = s.cycle := rfl
@[simp] theorem State.modCluster_ungated (s : State) (c : Nat) (f : Cluster → Cluster) : (s.modCluster c f).ungated = s.ungated := rfl
@[simp] theorem State.modCluster_turn (s : State) (c : Nat) (f : Cluster → Cluster) : (s.modCluster c f).turn = s.turn := rfl
@[simp] theorem State.modCluster_curCore (s : State) (c : Nat) (f : Cluster → Cluster) : (s.modCluster c f).curCore = s.curCore := rfl
@[simp] theorem State.modCluster_curSlot (s : State) (c : Nat) (f : Cluster → Cluster) : (s.modCluster c f).curSlot = s.curSlot := rfl
@[simp] theorem State.modCluster_schedule (s : State) (c : Nat) (f : Cluster → Cluster) : (s.modCluster c f).schedule = s.schedule := rfl
@[simp] theorem State.modCluster_free (s : State) (c : Nat) (f : Cluster → Cluster) : (s.modCluster c f).free = s.free := rfl
@[simp] theorem State.modCluster_nextId (s : State) (c : Nat) (f : Cluster → Cluster) : (s.modCluster c f).nextId = s.nextId := rfl
@[simp] theorem State.modCluster_mem (s : State) (c : Nat) (f : Cluster → Cluster) : (s.modCluster c f).mem = s.mem := rfl
@[simp] theorem State.modCluster_empties (s : State) (c : Nat) (f : Cluster → Cluster) : (s.modCluster c f).empties = s.empties := rfl
@[simp] theorem State.modCluster_poisons (s : State) (c : Nat) (f : Cluster → Cluster) : (s.modCluster c f).poisons = s.poisons := rfl
@[simp] theorem State.modCluster_cores (s : State) (c : Nat) (f : Cluster → Cluster) : (s.modCluster c f).cores = s.cores := rfl
@[simp] theorem State.modCluster_dies (s : State) (c : Nat) (f : Cluster → Cluster) : (s.modCluster c f).dies = s.dies := rfl
@[simp] theorem State.modCluster_vfs (s : State) (c : Nat) (f : Cluster → Cluster) : (s.modCluster c f).vfs = s.vfs := rfl
@[simp] theorem State.modCluster_quads (s : State) (c : Nat) (f : Cluster → Cluster) : (s.modCluster c f).quads = s.quads := rfl
@[simp] theorem State.modCluster_pkg (s : State) (c : Nat) (f : Cluster → Cluster) : (s.modCluster c f).pkg = s.pkg := rfl
@[simp] theorem State.modCluster_packets (s : State) (c : Nat) (f : Cluster → Cluster) : (s.modCluster c f).packets = s.packets := rfl
@[simp] theorem State.modCluster_timed (s : State) (c : Nat) (f : Cluster → Cluster) : (s.modCluster c f).timed = s.timed := rfl
@[simp] theorem State.modCluster_sent (s : State) (c : Nat) (f : Cluster → Cluster) : (s.modCluster c f).sent = s.sent := rfl
@[simp] theorem State.modCluster_tables (s : State) (c : Nat) (f : Cluster → Cluster) : (s.modCluster c f).tables = s.tables := rfl
@[simp] theorem State.modCluster_traces (s : State) (c : Nat) (f : Cluster → Cluster) : (s.modCluster c f).traces = s.traces := rfl
@[simp] theorem State.modCluster_posted (s : State) (c : Nat) (f : Cluster → Cluster) : (s.modCluster c f).posted = s.posted := rfl
@[simp] theorem State.modCluster_stamps (s : State) (c : Nat) (f : Cluster → Cluster) : (s.modCluster c f).stamps = s.stamps := rfl
@[simp] theorem State.modCluster_collectives (s : State) (c : Nat) (f : Cluster → Cluster) : (s.modCluster c f).collectives = s.collectives := rfl
@[simp] theorem State.modCluster_mcgroups (s : State) (c : Nat) (f : Cluster → Cluster) : (s.modCluster c f).mcgroups = s.mcgroups := rfl
@[simp] theorem State.modCluster_mailboxes (s : State) (c : Nat) (f : Cluster → Cluster) : (s.modCluster c f).mailboxes = s.mailboxes := rfl
@[simp] theorem State.modCluster_links (s : State) (c : Nat) (f : Cluster → Cluster) : (s.modCluster c f).links = s.links := rfl
@[simp] theorem State.modCluster_wiring (s : State) (c : Nat) (f : Cluster → Cluster) : (s.modCluster c f).wiring = s.wiring := rfl
@[simp] theorem State.modCluster_fuses (s : State) (c : Nat) (f : Cluster → Cluster) : (s.modCluster c f).fuses = s.fuses := rfl
@[simp] theorem State.modCluster_errors (s : State) (c : Nat) (f : Cluster → Cluster) : (s.modCluster c f).errors = s.errors := rfl
@[simp] theorem State.modCluster_reports (s : State) (c : Nat) (f : Cluster → Cluster) : (s.modCluster c f).reports = s.reports := rfl
@[simp] theorem State.modCluster_pwrlim (s : State) (c : Nat) (f : Cluster → Cluster) : (s.modCluster c f).pwrlim = s.pwrlim := rfl
@[simp] theorem State.modCluster_pwrstat (s : State) (c : Nat) (f : Cluster → Cluster) : (s.modCluster c f).pwrstat = s.pwrstat := rfl
@[simp] theorem State.modCluster_gates (s : State) (c : Nat) (f : Cluster → Cluster) : (s.modCluster c f).gates = s.gates := rfl
@[simp] theorem State.modCluster_gatedAt (s : State) (c : Nat) (f : Cluster → Cluster) : (s.modCluster c f).gatedAt = s.gatedAt := rfl
@[simp] theorem State.modCluster_snapAt (s : State) (c : Nat) (f : Cluster → Cluster) : (s.modCluster c f).snapAt = s.snapAt := rfl
@[simp] theorem State.modCluster_snapPin (s : State) (c : Nat) (f : Cluster → Cluster) : (s.modCluster c f).snapPin = s.snapPin := rfl
@[simp] theorem State.modCluster_bootPrev (s : State) (c : Nat) (f : Cluster → Cluster) : (s.modCluster c f).bootPrev = s.bootPrev := rfl
@[simp] theorem State.modCluster_bootNow (s : State) (c : Nat) (f : Cluster → Cluster) : (s.modCluster c f).bootNow = s.bootNow := rfl
@[simp] theorem State.modCluster_booted (s : State) (c : Nat) (f : Cluster → Cluster) : (s.modCluster c f).booted = s.booted := rfl
@[simp] theorem State.modCluster_measured (s : State) (c : Nat) (f : Cluster → Cluster) : (s.modCluster c f).measured = s.measured := rfl
@[simp] theorem State.modCluster_signed (s : State) (c : Nat) (f : Cluster → Cluster) : (s.modCluster c f).signed = s.signed := rfl
@[simp] theorem State.modCluster_corrected (s : State) (c : Nat) (f : Cluster → Cluster) : (s.modCluster c f).corrected = s.corrected := rfl

@[simp] theorem State.putDie_cycle (s : State) (c : Nat) (x : Die) : (s.putDie c x).cycle = s.cycle := rfl
@[simp] theorem State.putDie_ungated (s : State) (c : Nat) (x : Die) : (s.putDie c x).ungated = s.ungated := rfl
@[simp] theorem State.putDie_turn (s : State) (c : Nat) (x : Die) : (s.putDie c x).turn = s.turn := rfl
@[simp] theorem State.putDie_curCore (s : State) (c : Nat) (x : Die) : (s.putDie c x).curCore = s.curCore := rfl
@[simp] theorem State.putDie_curSlot (s : State) (c : Nat) (x : Die) : (s.putDie c x).curSlot = s.curSlot := rfl
@[simp] theorem State.putDie_schedule (s : State) (c : Nat) (x : Die) : (s.putDie c x).schedule = s.schedule := rfl
@[simp] theorem State.putDie_free (s : State) (c : Nat) (x : Die) : (s.putDie c x).free = s.free := rfl
@[simp] theorem State.putDie_nextId (s : State) (c : Nat) (x : Die) : (s.putDie c x).nextId = s.nextId := rfl
@[simp] theorem State.putDie_mem (s : State) (c : Nat) (x : Die) : (s.putDie c x).mem = s.mem := rfl
@[simp] theorem State.putDie_empties (s : State) (c : Nat) (x : Die) : (s.putDie c x).empties = s.empties := rfl
@[simp] theorem State.putDie_poisons (s : State) (c : Nat) (x : Die) : (s.putDie c x).poisons = s.poisons := rfl
@[simp] theorem State.putDie_cores (s : State) (c : Nat) (x : Die) : (s.putDie c x).cores = s.cores := rfl
@[simp] theorem State.putDie_clusters (s : State) (c : Nat) (x : Die) : (s.putDie c x).clusters = s.clusters := rfl
@[simp] theorem State.putDie_vfs (s : State) (c : Nat) (x : Die) : (s.putDie c x).vfs = s.vfs := rfl
@[simp] theorem State.putDie_quads (s : State) (c : Nat) (x : Die) : (s.putDie c x).quads = s.quads := rfl
@[simp] theorem State.putDie_pkg (s : State) (c : Nat) (x : Die) : (s.putDie c x).pkg = s.pkg := rfl
@[simp] theorem State.putDie_packets (s : State) (c : Nat) (x : Die) : (s.putDie c x).packets = s.packets := rfl
@[simp] theorem State.putDie_timed (s : State) (c : Nat) (x : Die) : (s.putDie c x).timed = s.timed := rfl
@[simp] theorem State.putDie_sent (s : State) (c : Nat) (x : Die) : (s.putDie c x).sent = s.sent := rfl
@[simp] theorem State.putDie_tables (s : State) (c : Nat) (x : Die) : (s.putDie c x).tables = s.tables := rfl
@[simp] theorem State.putDie_traces (s : State) (c : Nat) (x : Die) : (s.putDie c x).traces = s.traces := rfl
@[simp] theorem State.putDie_posted (s : State) (c : Nat) (x : Die) : (s.putDie c x).posted = s.posted := rfl
@[simp] theorem State.putDie_stamps (s : State) (c : Nat) (x : Die) : (s.putDie c x).stamps = s.stamps := rfl
@[simp] theorem State.putDie_collectives (s : State) (c : Nat) (x : Die) : (s.putDie c x).collectives = s.collectives := rfl
@[simp] theorem State.putDie_mcgroups (s : State) (c : Nat) (x : Die) : (s.putDie c x).mcgroups = s.mcgroups := rfl
@[simp] theorem State.putDie_mailboxes (s : State) (c : Nat) (x : Die) : (s.putDie c x).mailboxes = s.mailboxes := rfl
@[simp] theorem State.putDie_links (s : State) (c : Nat) (x : Die) : (s.putDie c x).links = s.links := rfl
@[simp] theorem State.putDie_wiring (s : State) (c : Nat) (x : Die) : (s.putDie c x).wiring = s.wiring := rfl
@[simp] theorem State.putDie_fuses (s : State) (c : Nat) (x : Die) : (s.putDie c x).fuses = s.fuses := rfl
@[simp] theorem State.putDie_errors (s : State) (c : Nat) (x : Die) : (s.putDie c x).errors = s.errors := rfl
@[simp] theorem State.putDie_reports (s : State) (c : Nat) (x : Die) : (s.putDie c x).reports = s.reports := rfl
@[simp] theorem State.putDie_pwrlim (s : State) (c : Nat) (x : Die) : (s.putDie c x).pwrlim = s.pwrlim := rfl
@[simp] theorem State.putDie_pwrstat (s : State) (c : Nat) (x : Die) : (s.putDie c x).pwrstat = s.pwrstat := rfl
@[simp] theorem State.putDie_gates (s : State) (c : Nat) (x : Die) : (s.putDie c x).gates = s.gates := rfl
@[simp] theorem State.putDie_gatedAt (s : State) (c : Nat) (x : Die) : (s.putDie c x).gatedAt = s.gatedAt := rfl
@[simp] theorem State.putDie_snapAt (s : State) (c : Nat) (x : Die) : (s.putDie c x).snapAt = s.snapAt := rfl
@[simp] theorem State.putDie_snapPin (s : State) (c : Nat) (x : Die) : (s.putDie c x).snapPin = s.snapPin := rfl
@[simp] theorem State.putDie_bootPrev (s : State) (c : Nat) (x : Die) : (s.putDie c x).bootPrev = s.bootPrev := rfl
@[simp] theorem State.putDie_bootNow (s : State) (c : Nat) (x : Die) : (s.putDie c x).bootNow = s.bootNow := rfl
@[simp] theorem State.putDie_booted (s : State) (c : Nat) (x : Die) : (s.putDie c x).booted = s.booted := rfl
@[simp] theorem State.putDie_measured (s : State) (c : Nat) (x : Die) : (s.putDie c x).measured = s.measured := rfl
@[simp] theorem State.putDie_signed (s : State) (c : Nat) (x : Die) : (s.putDie c x).signed = s.signed := rfl
@[simp] theorem State.putDie_corrected (s : State) (c : Nat) (x : Die) : (s.putDie c x).corrected = s.corrected := rfl

@[simp] theorem State.putVf_cycle (s : State) (c : Nat) (x : VF) : (s.putVf c x).cycle = s.cycle := rfl
@[simp] theorem State.putVf_ungated (s : State) (c : Nat) (x : VF) : (s.putVf c x).ungated = s.ungated := rfl
@[simp] theorem State.putVf_turn (s : State) (c : Nat) (x : VF) : (s.putVf c x).turn = s.turn := rfl
@[simp] theorem State.putVf_curCore (s : State) (c : Nat) (x : VF) : (s.putVf c x).curCore = s.curCore := rfl
@[simp] theorem State.putVf_curSlot (s : State) (c : Nat) (x : VF) : (s.putVf c x).curSlot = s.curSlot := rfl
@[simp] theorem State.putVf_schedule (s : State) (c : Nat) (x : VF) : (s.putVf c x).schedule = s.schedule := rfl
@[simp] theorem State.putVf_free (s : State) (c : Nat) (x : VF) : (s.putVf c x).free = s.free := rfl
@[simp] theorem State.putVf_nextId (s : State) (c : Nat) (x : VF) : (s.putVf c x).nextId = s.nextId := rfl
@[simp] theorem State.putVf_mem (s : State) (c : Nat) (x : VF) : (s.putVf c x).mem = s.mem := rfl
@[simp] theorem State.putVf_empties (s : State) (c : Nat) (x : VF) : (s.putVf c x).empties = s.empties := rfl
@[simp] theorem State.putVf_poisons (s : State) (c : Nat) (x : VF) : (s.putVf c x).poisons = s.poisons := rfl
@[simp] theorem State.putVf_cores (s : State) (c : Nat) (x : VF) : (s.putVf c x).cores = s.cores := rfl
@[simp] theorem State.putVf_clusters (s : State) (c : Nat) (x : VF) : (s.putVf c x).clusters = s.clusters := rfl
@[simp] theorem State.putVf_dies (s : State) (c : Nat) (x : VF) : (s.putVf c x).dies = s.dies := rfl
@[simp] theorem State.putVf_quads (s : State) (c : Nat) (x : VF) : (s.putVf c x).quads = s.quads := rfl
@[simp] theorem State.putVf_pkg (s : State) (c : Nat) (x : VF) : (s.putVf c x).pkg = s.pkg := rfl
@[simp] theorem State.putVf_packets (s : State) (c : Nat) (x : VF) : (s.putVf c x).packets = s.packets := rfl
@[simp] theorem State.putVf_timed (s : State) (c : Nat) (x : VF) : (s.putVf c x).timed = s.timed := rfl
@[simp] theorem State.putVf_sent (s : State) (c : Nat) (x : VF) : (s.putVf c x).sent = s.sent := rfl
@[simp] theorem State.putVf_tables (s : State) (c : Nat) (x : VF) : (s.putVf c x).tables = s.tables := rfl
@[simp] theorem State.putVf_traces (s : State) (c : Nat) (x : VF) : (s.putVf c x).traces = s.traces := rfl
@[simp] theorem State.putVf_posted (s : State) (c : Nat) (x : VF) : (s.putVf c x).posted = s.posted := rfl
@[simp] theorem State.putVf_stamps (s : State) (c : Nat) (x : VF) : (s.putVf c x).stamps = s.stamps := rfl
@[simp] theorem State.putVf_collectives (s : State) (c : Nat) (x : VF) : (s.putVf c x).collectives = s.collectives := rfl
@[simp] theorem State.putVf_mcgroups (s : State) (c : Nat) (x : VF) : (s.putVf c x).mcgroups = s.mcgroups := rfl
@[simp] theorem State.putVf_mailboxes (s : State) (c : Nat) (x : VF) : (s.putVf c x).mailboxes = s.mailboxes := rfl
@[simp] theorem State.putVf_links (s : State) (c : Nat) (x : VF) : (s.putVf c x).links = s.links := rfl
@[simp] theorem State.putVf_wiring (s : State) (c : Nat) (x : VF) : (s.putVf c x).wiring = s.wiring := rfl
@[simp] theorem State.putVf_fuses (s : State) (c : Nat) (x : VF) : (s.putVf c x).fuses = s.fuses := rfl
@[simp] theorem State.putVf_errors (s : State) (c : Nat) (x : VF) : (s.putVf c x).errors = s.errors := rfl
@[simp] theorem State.putVf_reports (s : State) (c : Nat) (x : VF) : (s.putVf c x).reports = s.reports := rfl
@[simp] theorem State.putVf_pwrlim (s : State) (c : Nat) (x : VF) : (s.putVf c x).pwrlim = s.pwrlim := rfl
@[simp] theorem State.putVf_pwrstat (s : State) (c : Nat) (x : VF) : (s.putVf c x).pwrstat = s.pwrstat := rfl
@[simp] theorem State.putVf_gates (s : State) (c : Nat) (x : VF) : (s.putVf c x).gates = s.gates := rfl
@[simp] theorem State.putVf_gatedAt (s : State) (c : Nat) (x : VF) : (s.putVf c x).gatedAt = s.gatedAt := rfl
@[simp] theorem State.putVf_snapAt (s : State) (c : Nat) (x : VF) : (s.putVf c x).snapAt = s.snapAt := rfl
@[simp] theorem State.putVf_snapPin (s : State) (c : Nat) (x : VF) : (s.putVf c x).snapPin = s.snapPin := rfl
@[simp] theorem State.putVf_bootPrev (s : State) (c : Nat) (x : VF) : (s.putVf c x).bootPrev = s.bootPrev := rfl
@[simp] theorem State.putVf_bootNow (s : State) (c : Nat) (x : VF) : (s.putVf c x).bootNow = s.bootNow := rfl
@[simp] theorem State.putVf_booted (s : State) (c : Nat) (x : VF) : (s.putVf c x).booted = s.booted := rfl
@[simp] theorem State.putVf_measured (s : State) (c : Nat) (x : VF) : (s.putVf c x).measured = s.measured := rfl
@[simp] theorem State.putVf_signed (s : State) (c : Nat) (x : VF) : (s.putVf c x).signed = s.signed := rfl
@[simp] theorem State.putVf_corrected (s : State) (c : Nat) (x : VF) : (s.putVf c x).corrected = s.corrected := rfl

@[simp] theorem State.modVf_cycle (s : State) (c : Nat) (f : VF → VF) : (s.modVf c f).cycle = s.cycle := rfl
@[simp] theorem State.modVf_ungated (s : State) (c : Nat) (f : VF → VF) : (s.modVf c f).ungated = s.ungated := rfl
@[simp] theorem State.modVf_turn (s : State) (c : Nat) (f : VF → VF) : (s.modVf c f).turn = s.turn := rfl
@[simp] theorem State.modVf_curCore (s : State) (c : Nat) (f : VF → VF) : (s.modVf c f).curCore = s.curCore := rfl
@[simp] theorem State.modVf_curSlot (s : State) (c : Nat) (f : VF → VF) : (s.modVf c f).curSlot = s.curSlot := rfl
@[simp] theorem State.modVf_schedule (s : State) (c : Nat) (f : VF → VF) : (s.modVf c f).schedule = s.schedule := rfl
@[simp] theorem State.modVf_free (s : State) (c : Nat) (f : VF → VF) : (s.modVf c f).free = s.free := rfl
@[simp] theorem State.modVf_nextId (s : State) (c : Nat) (f : VF → VF) : (s.modVf c f).nextId = s.nextId := rfl
@[simp] theorem State.modVf_mem (s : State) (c : Nat) (f : VF → VF) : (s.modVf c f).mem = s.mem := rfl
@[simp] theorem State.modVf_empties (s : State) (c : Nat) (f : VF → VF) : (s.modVf c f).empties = s.empties := rfl
@[simp] theorem State.modVf_poisons (s : State) (c : Nat) (f : VF → VF) : (s.modVf c f).poisons = s.poisons := rfl
@[simp] theorem State.modVf_cores (s : State) (c : Nat) (f : VF → VF) : (s.modVf c f).cores = s.cores := rfl
@[simp] theorem State.modVf_clusters (s : State) (c : Nat) (f : VF → VF) : (s.modVf c f).clusters = s.clusters := rfl
@[simp] theorem State.modVf_dies (s : State) (c : Nat) (f : VF → VF) : (s.modVf c f).dies = s.dies := rfl
@[simp] theorem State.modVf_quads (s : State) (c : Nat) (f : VF → VF) : (s.modVf c f).quads = s.quads := rfl
@[simp] theorem State.modVf_pkg (s : State) (c : Nat) (f : VF → VF) : (s.modVf c f).pkg = s.pkg := rfl
@[simp] theorem State.modVf_packets (s : State) (c : Nat) (f : VF → VF) : (s.modVf c f).packets = s.packets := rfl
@[simp] theorem State.modVf_timed (s : State) (c : Nat) (f : VF → VF) : (s.modVf c f).timed = s.timed := rfl
@[simp] theorem State.modVf_sent (s : State) (c : Nat) (f : VF → VF) : (s.modVf c f).sent = s.sent := rfl
@[simp] theorem State.modVf_tables (s : State) (c : Nat) (f : VF → VF) : (s.modVf c f).tables = s.tables := rfl
@[simp] theorem State.modVf_traces (s : State) (c : Nat) (f : VF → VF) : (s.modVf c f).traces = s.traces := rfl
@[simp] theorem State.modVf_posted (s : State) (c : Nat) (f : VF → VF) : (s.modVf c f).posted = s.posted := rfl
@[simp] theorem State.modVf_stamps (s : State) (c : Nat) (f : VF → VF) : (s.modVf c f).stamps = s.stamps := rfl
@[simp] theorem State.modVf_collectives (s : State) (c : Nat) (f : VF → VF) : (s.modVf c f).collectives = s.collectives := rfl
@[simp] theorem State.modVf_mcgroups (s : State) (c : Nat) (f : VF → VF) : (s.modVf c f).mcgroups = s.mcgroups := rfl
@[simp] theorem State.modVf_mailboxes (s : State) (c : Nat) (f : VF → VF) : (s.modVf c f).mailboxes = s.mailboxes := rfl
@[simp] theorem State.modVf_links (s : State) (c : Nat) (f : VF → VF) : (s.modVf c f).links = s.links := rfl
@[simp] theorem State.modVf_wiring (s : State) (c : Nat) (f : VF → VF) : (s.modVf c f).wiring = s.wiring := rfl
@[simp] theorem State.modVf_fuses (s : State) (c : Nat) (f : VF → VF) : (s.modVf c f).fuses = s.fuses := rfl
@[simp] theorem State.modVf_errors (s : State) (c : Nat) (f : VF → VF) : (s.modVf c f).errors = s.errors := rfl
@[simp] theorem State.modVf_reports (s : State) (c : Nat) (f : VF → VF) : (s.modVf c f).reports = s.reports := rfl
@[simp] theorem State.modVf_pwrlim (s : State) (c : Nat) (f : VF → VF) : (s.modVf c f).pwrlim = s.pwrlim := rfl
@[simp] theorem State.modVf_pwrstat (s : State) (c : Nat) (f : VF → VF) : (s.modVf c f).pwrstat = s.pwrstat := rfl
@[simp] theorem State.modVf_gates (s : State) (c : Nat) (f : VF → VF) : (s.modVf c f).gates = s.gates := rfl
@[simp] theorem State.modVf_gatedAt (s : State) (c : Nat) (f : VF → VF) : (s.modVf c f).gatedAt = s.gatedAt := rfl
@[simp] theorem State.modVf_snapAt (s : State) (c : Nat) (f : VF → VF) : (s.modVf c f).snapAt = s.snapAt := rfl
@[simp] theorem State.modVf_snapPin (s : State) (c : Nat) (f : VF → VF) : (s.modVf c f).snapPin = s.snapPin := rfl
@[simp] theorem State.modVf_bootPrev (s : State) (c : Nat) (f : VF → VF) : (s.modVf c f).bootPrev = s.bootPrev := rfl
@[simp] theorem State.modVf_bootNow (s : State) (c : Nat) (f : VF → VF) : (s.modVf c f).bootNow = s.bootNow := rfl
@[simp] theorem State.modVf_booted (s : State) (c : Nat) (f : VF → VF) : (s.modVf c f).booted = s.booted := rfl
@[simp] theorem State.modVf_measured (s : State) (c : Nat) (f : VF → VF) : (s.modVf c f).measured = s.measured := rfl
@[simp] theorem State.modVf_signed (s : State) (c : Nat) (f : VF → VF) : (s.modVf c f).signed = s.signed := rfl
@[simp] theorem State.modVf_corrected (s : State) (c : Nat) (f : VF → VF) : (s.modVf c f).corrected = s.corrected := rfl

@[simp] theorem State.write_cycle (s : State) (a n v : Nat) : (s.write a n v).cycle = s.cycle := rfl
@[simp] theorem State.write_ungated (s : State) (a n v : Nat) : (s.write a n v).ungated = s.ungated := rfl
@[simp] theorem State.write_turn (s : State) (a n v : Nat) : (s.write a n v).turn = s.turn := rfl
@[simp] theorem State.write_curCore (s : State) (a n v : Nat) : (s.write a n v).curCore = s.curCore := rfl
@[simp] theorem State.write_curSlot (s : State) (a n v : Nat) : (s.write a n v).curSlot = s.curSlot := rfl
@[simp] theorem State.write_schedule (s : State) (a n v : Nat) : (s.write a n v).schedule = s.schedule := rfl
@[simp] theorem State.write_free (s : State) (a n v : Nat) : (s.write a n v).free = s.free := rfl
@[simp] theorem State.write_nextId (s : State) (a n v : Nat) : (s.write a n v).nextId = s.nextId := rfl
@[simp] theorem State.write_empties (s : State) (a n v : Nat) : (s.write a n v).empties = s.empties := rfl
@[simp] theorem State.write_poisons (s : State) (a n v : Nat) : (s.write a n v).poisons = s.poisons := rfl
@[simp] theorem State.write_cores (s : State) (a n v : Nat) : (s.write a n v).cores = s.cores := rfl
@[simp] theorem State.write_clusters (s : State) (a n v : Nat) : (s.write a n v).clusters = s.clusters := rfl
@[simp] theorem State.write_dies (s : State) (a n v : Nat) : (s.write a n v).dies = s.dies := rfl
@[simp] theorem State.write_vfs (s : State) (a n v : Nat) : (s.write a n v).vfs = s.vfs := rfl
@[simp] theorem State.write_quads (s : State) (a n v : Nat) : (s.write a n v).quads = s.quads := rfl
@[simp] theorem State.write_pkg (s : State) (a n v : Nat) : (s.write a n v).pkg = s.pkg := rfl
@[simp] theorem State.write_packets (s : State) (a n v : Nat) : (s.write a n v).packets = s.packets := rfl
@[simp] theorem State.write_timed (s : State) (a n v : Nat) : (s.write a n v).timed = s.timed := rfl
@[simp] theorem State.write_sent (s : State) (a n v : Nat) : (s.write a n v).sent = s.sent := rfl
@[simp] theorem State.write_tables (s : State) (a n v : Nat) : (s.write a n v).tables = s.tables := rfl
@[simp] theorem State.write_traces (s : State) (a n v : Nat) : (s.write a n v).traces = s.traces := rfl
@[simp] theorem State.write_posted (s : State) (a n v : Nat) : (s.write a n v).posted = s.posted := rfl
@[simp] theorem State.write_stamps (s : State) (a n v : Nat) : (s.write a n v).stamps = s.stamps := rfl
@[simp] theorem State.write_collectives (s : State) (a n v : Nat) : (s.write a n v).collectives = s.collectives := rfl
@[simp] theorem State.write_mcgroups (s : State) (a n v : Nat) : (s.write a n v).mcgroups = s.mcgroups := rfl
@[simp] theorem State.write_mailboxes (s : State) (a n v : Nat) : (s.write a n v).mailboxes = s.mailboxes := rfl
@[simp] theorem State.write_links (s : State) (a n v : Nat) : (s.write a n v).links = s.links := rfl
@[simp] theorem State.write_wiring (s : State) (a n v : Nat) : (s.write a n v).wiring = s.wiring := rfl
@[simp] theorem State.write_fuses (s : State) (a n v : Nat) : (s.write a n v).fuses = s.fuses := rfl
@[simp] theorem State.write_errors (s : State) (a n v : Nat) : (s.write a n v).errors = s.errors := rfl
@[simp] theorem State.write_reports (s : State) (a n v : Nat) : (s.write a n v).reports = s.reports := rfl
@[simp] theorem State.write_pwrlim (s : State) (a n v : Nat) : (s.write a n v).pwrlim = s.pwrlim := rfl
@[simp] theorem State.write_pwrstat (s : State) (a n v : Nat) : (s.write a n v).pwrstat = s.pwrstat := rfl
@[simp] theorem State.write_gates (s : State) (a n v : Nat) : (s.write a n v).gates = s.gates := rfl
@[simp] theorem State.write_gatedAt (s : State) (a n v : Nat) : (s.write a n v).gatedAt = s.gatedAt := rfl
@[simp] theorem State.write_snapAt (s : State) (a n v : Nat) : (s.write a n v).snapAt = s.snapAt := rfl
@[simp] theorem State.write_snapPin (s : State) (a n v : Nat) : (s.write a n v).snapPin = s.snapPin := rfl
@[simp] theorem State.write_bootPrev (s : State) (a n v : Nat) : (s.write a n v).bootPrev = s.bootPrev := rfl
@[simp] theorem State.write_bootNow (s : State) (a n v : Nat) : (s.write a n v).bootNow = s.bootNow := rfl
@[simp] theorem State.write_booted (s : State) (a n v : Nat) : (s.write a n v).booted = s.booted := rfl
@[simp] theorem State.write_measured (s : State) (a n v : Nat) : (s.write a n v).measured = s.measured := rfl
@[simp] theorem State.write_signed (s : State) (a n v : Nat) : (s.write a n v).signed = s.signed := rfl
@[simp] theorem State.write_corrected (s : State) (a n v : Nat) : (s.write a n v).corrected = s.corrected := rfl

@[simp] theorem State.setFull_cycle (s : State) (a : Nat) (b : Bool) : (s.setFull a b).cycle = s.cycle := rfl
@[simp] theorem State.setFull_ungated (s : State) (a : Nat) (b : Bool) : (s.setFull a b).ungated = s.ungated := rfl
@[simp] theorem State.setFull_turn (s : State) (a : Nat) (b : Bool) : (s.setFull a b).turn = s.turn := rfl
@[simp] theorem State.setFull_curCore (s : State) (a : Nat) (b : Bool) : (s.setFull a b).curCore = s.curCore := rfl
@[simp] theorem State.setFull_curSlot (s : State) (a : Nat) (b : Bool) : (s.setFull a b).curSlot = s.curSlot := rfl
@[simp] theorem State.setFull_schedule (s : State) (a : Nat) (b : Bool) : (s.setFull a b).schedule = s.schedule := rfl
@[simp] theorem State.setFull_free (s : State) (a : Nat) (b : Bool) : (s.setFull a b).free = s.free := rfl
@[simp] theorem State.setFull_nextId (s : State) (a : Nat) (b : Bool) : (s.setFull a b).nextId = s.nextId := rfl
@[simp] theorem State.setFull_mem (s : State) (a : Nat) (b : Bool) : (s.setFull a b).mem = s.mem := rfl
@[simp] theorem State.setFull_poisons (s : State) (a : Nat) (b : Bool) : (s.setFull a b).poisons = s.poisons := rfl
@[simp] theorem State.setFull_cores (s : State) (a : Nat) (b : Bool) : (s.setFull a b).cores = s.cores := rfl
@[simp] theorem State.setFull_clusters (s : State) (a : Nat) (b : Bool) : (s.setFull a b).clusters = s.clusters := rfl
@[simp] theorem State.setFull_dies (s : State) (a : Nat) (b : Bool) : (s.setFull a b).dies = s.dies := rfl
@[simp] theorem State.setFull_vfs (s : State) (a : Nat) (b : Bool) : (s.setFull a b).vfs = s.vfs := rfl
@[simp] theorem State.setFull_quads (s : State) (a : Nat) (b : Bool) : (s.setFull a b).quads = s.quads := rfl
@[simp] theorem State.setFull_pkg (s : State) (a : Nat) (b : Bool) : (s.setFull a b).pkg = s.pkg := rfl
@[simp] theorem State.setFull_packets (s : State) (a : Nat) (b : Bool) : (s.setFull a b).packets = s.packets := rfl
@[simp] theorem State.setFull_timed (s : State) (a : Nat) (b : Bool) : (s.setFull a b).timed = s.timed := rfl
@[simp] theorem State.setFull_sent (s : State) (a : Nat) (b : Bool) : (s.setFull a b).sent = s.sent := rfl
@[simp] theorem State.setFull_tables (s : State) (a : Nat) (b : Bool) : (s.setFull a b).tables = s.tables := rfl
@[simp] theorem State.setFull_traces (s : State) (a : Nat) (b : Bool) : (s.setFull a b).traces = s.traces := rfl
@[simp] theorem State.setFull_posted (s : State) (a : Nat) (b : Bool) : (s.setFull a b).posted = s.posted := rfl
@[simp] theorem State.setFull_stamps (s : State) (a : Nat) (b : Bool) : (s.setFull a b).stamps = s.stamps := rfl
@[simp] theorem State.setFull_collectives (s : State) (a : Nat) (b : Bool) : (s.setFull a b).collectives = s.collectives := rfl
@[simp] theorem State.setFull_mcgroups (s : State) (a : Nat) (b : Bool) : (s.setFull a b).mcgroups = s.mcgroups := rfl
@[simp] theorem State.setFull_mailboxes (s : State) (a : Nat) (b : Bool) : (s.setFull a b).mailboxes = s.mailboxes := rfl
@[simp] theorem State.setFull_links (s : State) (a : Nat) (b : Bool) : (s.setFull a b).links = s.links := rfl
@[simp] theorem State.setFull_wiring (s : State) (a : Nat) (b : Bool) : (s.setFull a b).wiring = s.wiring := rfl
@[simp] theorem State.setFull_fuses (s : State) (a : Nat) (b : Bool) : (s.setFull a b).fuses = s.fuses := rfl
@[simp] theorem State.setFull_errors (s : State) (a : Nat) (b : Bool) : (s.setFull a b).errors = s.errors := rfl
@[simp] theorem State.setFull_reports (s : State) (a : Nat) (b : Bool) : (s.setFull a b).reports = s.reports := rfl
@[simp] theorem State.setFull_pwrlim (s : State) (a : Nat) (b : Bool) : (s.setFull a b).pwrlim = s.pwrlim := rfl
@[simp] theorem State.setFull_pwrstat (s : State) (a : Nat) (b : Bool) : (s.setFull a b).pwrstat = s.pwrstat := rfl
@[simp] theorem State.setFull_gates (s : State) (a : Nat) (b : Bool) : (s.setFull a b).gates = s.gates := rfl
@[simp] theorem State.setFull_gatedAt (s : State) (a : Nat) (b : Bool) : (s.setFull a b).gatedAt = s.gatedAt := rfl
@[simp] theorem State.setFull_snapAt (s : State) (a : Nat) (b : Bool) : (s.setFull a b).snapAt = s.snapAt := rfl
@[simp] theorem State.setFull_snapPin (s : State) (a : Nat) (b : Bool) : (s.setFull a b).snapPin = s.snapPin := rfl
@[simp] theorem State.setFull_bootPrev (s : State) (a : Nat) (b : Bool) : (s.setFull a b).bootPrev = s.bootPrev := rfl
@[simp] theorem State.setFull_bootNow (s : State) (a : Nat) (b : Bool) : (s.setFull a b).bootNow = s.bootNow := rfl
@[simp] theorem State.setFull_booted (s : State) (a : Nat) (b : Bool) : (s.setFull a b).booted = s.booted := rfl
@[simp] theorem State.setFull_measured (s : State) (a : Nat) (b : Bool) : (s.setFull a b).measured = s.measured := rfl
@[simp] theorem State.setFull_signed (s : State) (a : Nat) (b : Bool) : (s.setFull a b).signed = s.signed := rfl
@[simp] theorem State.setFull_corrected (s : State) (a : Nat) (b : Bool) : (s.setFull a b).corrected = s.corrected := rfl

@[simp] theorem State.setPoison_cycle (s : State) (a : Nat) (b : Bool) : (s.setPoison a b).cycle = s.cycle := rfl
@[simp] theorem State.setPoison_ungated (s : State) (a : Nat) (b : Bool) : (s.setPoison a b).ungated = s.ungated := rfl
@[simp] theorem State.setPoison_turn (s : State) (a : Nat) (b : Bool) : (s.setPoison a b).turn = s.turn := rfl
@[simp] theorem State.setPoison_curCore (s : State) (a : Nat) (b : Bool) : (s.setPoison a b).curCore = s.curCore := rfl
@[simp] theorem State.setPoison_curSlot (s : State) (a : Nat) (b : Bool) : (s.setPoison a b).curSlot = s.curSlot := rfl
@[simp] theorem State.setPoison_schedule (s : State) (a : Nat) (b : Bool) : (s.setPoison a b).schedule = s.schedule := rfl
@[simp] theorem State.setPoison_free (s : State) (a : Nat) (b : Bool) : (s.setPoison a b).free = s.free := rfl
@[simp] theorem State.setPoison_nextId (s : State) (a : Nat) (b : Bool) : (s.setPoison a b).nextId = s.nextId := rfl
@[simp] theorem State.setPoison_mem (s : State) (a : Nat) (b : Bool) : (s.setPoison a b).mem = s.mem := rfl
@[simp] theorem State.setPoison_empties (s : State) (a : Nat) (b : Bool) : (s.setPoison a b).empties = s.empties := rfl
@[simp] theorem State.setPoison_cores (s : State) (a : Nat) (b : Bool) : (s.setPoison a b).cores = s.cores := rfl
@[simp] theorem State.setPoison_clusters (s : State) (a : Nat) (b : Bool) : (s.setPoison a b).clusters = s.clusters := rfl
@[simp] theorem State.setPoison_dies (s : State) (a : Nat) (b : Bool) : (s.setPoison a b).dies = s.dies := rfl
@[simp] theorem State.setPoison_vfs (s : State) (a : Nat) (b : Bool) : (s.setPoison a b).vfs = s.vfs := rfl
@[simp] theorem State.setPoison_quads (s : State) (a : Nat) (b : Bool) : (s.setPoison a b).quads = s.quads := rfl
@[simp] theorem State.setPoison_pkg (s : State) (a : Nat) (b : Bool) : (s.setPoison a b).pkg = s.pkg := rfl
@[simp] theorem State.setPoison_packets (s : State) (a : Nat) (b : Bool) : (s.setPoison a b).packets = s.packets := rfl
@[simp] theorem State.setPoison_timed (s : State) (a : Nat) (b : Bool) : (s.setPoison a b).timed = s.timed := rfl
@[simp] theorem State.setPoison_sent (s : State) (a : Nat) (b : Bool) : (s.setPoison a b).sent = s.sent := rfl
@[simp] theorem State.setPoison_tables (s : State) (a : Nat) (b : Bool) : (s.setPoison a b).tables = s.tables := rfl
@[simp] theorem State.setPoison_traces (s : State) (a : Nat) (b : Bool) : (s.setPoison a b).traces = s.traces := rfl
@[simp] theorem State.setPoison_posted (s : State) (a : Nat) (b : Bool) : (s.setPoison a b).posted = s.posted := rfl
@[simp] theorem State.setPoison_stamps (s : State) (a : Nat) (b : Bool) : (s.setPoison a b).stamps = s.stamps := rfl
@[simp] theorem State.setPoison_collectives (s : State) (a : Nat) (b : Bool) : (s.setPoison a b).collectives = s.collectives := rfl
@[simp] theorem State.setPoison_mcgroups (s : State) (a : Nat) (b : Bool) : (s.setPoison a b).mcgroups = s.mcgroups := rfl
@[simp] theorem State.setPoison_mailboxes (s : State) (a : Nat) (b : Bool) : (s.setPoison a b).mailboxes = s.mailboxes := rfl
@[simp] theorem State.setPoison_links (s : State) (a : Nat) (b : Bool) : (s.setPoison a b).links = s.links := rfl
@[simp] theorem State.setPoison_wiring (s : State) (a : Nat) (b : Bool) : (s.setPoison a b).wiring = s.wiring := rfl
@[simp] theorem State.setPoison_fuses (s : State) (a : Nat) (b : Bool) : (s.setPoison a b).fuses = s.fuses := rfl
@[simp] theorem State.setPoison_errors (s : State) (a : Nat) (b : Bool) : (s.setPoison a b).errors = s.errors := rfl
@[simp] theorem State.setPoison_reports (s : State) (a : Nat) (b : Bool) : (s.setPoison a b).reports = s.reports := rfl
@[simp] theorem State.setPoison_pwrlim (s : State) (a : Nat) (b : Bool) : (s.setPoison a b).pwrlim = s.pwrlim := rfl
@[simp] theorem State.setPoison_pwrstat (s : State) (a : Nat) (b : Bool) : (s.setPoison a b).pwrstat = s.pwrstat := rfl
@[simp] theorem State.setPoison_gates (s : State) (a : Nat) (b : Bool) : (s.setPoison a b).gates = s.gates := rfl
@[simp] theorem State.setPoison_gatedAt (s : State) (a : Nat) (b : Bool) : (s.setPoison a b).gatedAt = s.gatedAt := rfl
@[simp] theorem State.setPoison_snapAt (s : State) (a : Nat) (b : Bool) : (s.setPoison a b).snapAt = s.snapAt := rfl
@[simp] theorem State.setPoison_snapPin (s : State) (a : Nat) (b : Bool) : (s.setPoison a b).snapPin = s.snapPin := rfl
@[simp] theorem State.setPoison_bootPrev (s : State) (a : Nat) (b : Bool) : (s.setPoison a b).bootPrev = s.bootPrev := rfl
@[simp] theorem State.setPoison_bootNow (s : State) (a : Nat) (b : Bool) : (s.setPoison a b).bootNow = s.bootNow := rfl
@[simp] theorem State.setPoison_booted (s : State) (a : Nat) (b : Bool) : (s.setPoison a b).booted = s.booted := rfl
@[simp] theorem State.setPoison_measured (s : State) (a : Nat) (b : Bool) : (s.setPoison a b).measured = s.measured := rfl
@[simp] theorem State.setPoison_signed (s : State) (a : Nat) (b : Bool) : (s.setPoison a b).signed = s.signed := rfl
@[simp] theorem State.setPoison_corrected (s : State) (a : Nat) (b : Bool) : (s.setPoison a b).corrected = s.corrected := rfl

@[simp] theorem State.putEntry_cycle (s : State) (a : Nat) (e : Entry) : (s.putEntry a e).cycle = s.cycle := rfl
@[simp] theorem State.putEntry_ungated (s : State) (a : Nat) (e : Entry) : (s.putEntry a e).ungated = s.ungated := rfl
@[simp] theorem State.putEntry_turn (s : State) (a : Nat) (e : Entry) : (s.putEntry a e).turn = s.turn := rfl
@[simp] theorem State.putEntry_curCore (s : State) (a : Nat) (e : Entry) : (s.putEntry a e).curCore = s.curCore := rfl
@[simp] theorem State.putEntry_curSlot (s : State) (a : Nat) (e : Entry) : (s.putEntry a e).curSlot = s.curSlot := rfl
@[simp] theorem State.putEntry_schedule (s : State) (a : Nat) (e : Entry) : (s.putEntry a e).schedule = s.schedule := rfl
@[simp] theorem State.putEntry_free (s : State) (a : Nat) (e : Entry) : (s.putEntry a e).free = s.free := rfl
@[simp] theorem State.putEntry_nextId (s : State) (a : Nat) (e : Entry) : (s.putEntry a e).nextId = s.nextId := rfl
@[simp] theorem State.putEntry_empties (s : State) (a : Nat) (e : Entry) : (s.putEntry a e).empties = s.empties := rfl
@[simp] theorem State.putEntry_cores (s : State) (a : Nat) (e : Entry) : (s.putEntry a e).cores = s.cores := rfl
@[simp] theorem State.putEntry_clusters (s : State) (a : Nat) (e : Entry) : (s.putEntry a e).clusters = s.clusters := rfl
@[simp] theorem State.putEntry_dies (s : State) (a : Nat) (e : Entry) : (s.putEntry a e).dies = s.dies := rfl
@[simp] theorem State.putEntry_vfs (s : State) (a : Nat) (e : Entry) : (s.putEntry a e).vfs = s.vfs := rfl
@[simp] theorem State.putEntry_quads (s : State) (a : Nat) (e : Entry) : (s.putEntry a e).quads = s.quads := rfl
@[simp] theorem State.putEntry_pkg (s : State) (a : Nat) (e : Entry) : (s.putEntry a e).pkg = s.pkg := rfl
@[simp] theorem State.putEntry_packets (s : State) (a : Nat) (e : Entry) : (s.putEntry a e).packets = s.packets := rfl
@[simp] theorem State.putEntry_timed (s : State) (a : Nat) (e : Entry) : (s.putEntry a e).timed = s.timed := rfl
@[simp] theorem State.putEntry_sent (s : State) (a : Nat) (e : Entry) : (s.putEntry a e).sent = s.sent := rfl
@[simp] theorem State.putEntry_tables (s : State) (a : Nat) (e : Entry) : (s.putEntry a e).tables = s.tables := rfl
@[simp] theorem State.putEntry_traces (s : State) (a : Nat) (e : Entry) : (s.putEntry a e).traces = s.traces := rfl
@[simp] theorem State.putEntry_posted (s : State) (a : Nat) (e : Entry) : (s.putEntry a e).posted = s.posted := rfl
@[simp] theorem State.putEntry_stamps (s : State) (a : Nat) (e : Entry) : (s.putEntry a e).stamps = s.stamps := rfl
@[simp] theorem State.putEntry_collectives (s : State) (a : Nat) (e : Entry) : (s.putEntry a e).collectives = s.collectives := rfl
@[simp] theorem State.putEntry_mcgroups (s : State) (a : Nat) (e : Entry) : (s.putEntry a e).mcgroups = s.mcgroups := rfl
@[simp] theorem State.putEntry_mailboxes (s : State) (a : Nat) (e : Entry) : (s.putEntry a e).mailboxes = s.mailboxes := rfl
@[simp] theorem State.putEntry_links (s : State) (a : Nat) (e : Entry) : (s.putEntry a e).links = s.links := rfl
@[simp] theorem State.putEntry_wiring (s : State) (a : Nat) (e : Entry) : (s.putEntry a e).wiring = s.wiring := rfl
@[simp] theorem State.putEntry_fuses (s : State) (a : Nat) (e : Entry) : (s.putEntry a e).fuses = s.fuses := rfl
@[simp] theorem State.putEntry_errors (s : State) (a : Nat) (e : Entry) : (s.putEntry a e).errors = s.errors := rfl
@[simp] theorem State.putEntry_reports (s : State) (a : Nat) (e : Entry) : (s.putEntry a e).reports = s.reports := rfl
@[simp] theorem State.putEntry_pwrlim (s : State) (a : Nat) (e : Entry) : (s.putEntry a e).pwrlim = s.pwrlim := rfl
@[simp] theorem State.putEntry_pwrstat (s : State) (a : Nat) (e : Entry) : (s.putEntry a e).pwrstat = s.pwrstat := rfl
@[simp] theorem State.putEntry_gates (s : State) (a : Nat) (e : Entry) : (s.putEntry a e).gates = s.gates := rfl
@[simp] theorem State.putEntry_gatedAt (s : State) (a : Nat) (e : Entry) : (s.putEntry a e).gatedAt = s.gatedAt := rfl
@[simp] theorem State.putEntry_snapAt (s : State) (a : Nat) (e : Entry) : (s.putEntry a e).snapAt = s.snapAt := rfl
@[simp] theorem State.putEntry_snapPin (s : State) (a : Nat) (e : Entry) : (s.putEntry a e).snapPin = s.snapPin := rfl
@[simp] theorem State.putEntry_bootPrev (s : State) (a : Nat) (e : Entry) : (s.putEntry a e).bootPrev = s.bootPrev := rfl
@[simp] theorem State.putEntry_bootNow (s : State) (a : Nat) (e : Entry) : (s.putEntry a e).bootNow = s.bootNow := rfl
@[simp] theorem State.putEntry_booted (s : State) (a : Nat) (e : Entry) : (s.putEntry a e).booted = s.booted := rfl
@[simp] theorem State.putEntry_measured (s : State) (a : Nat) (e : Entry) : (s.putEntry a e).measured = s.measured := rfl
@[simp] theorem State.putEntry_signed (s : State) (a : Nat) (e : Entry) : (s.putEntry a e).signed = s.signed := rfl
@[simp] theorem State.putEntry_corrected (s : State) (a : Nat) (e : Entry) : (s.putEntry a e).corrected = s.corrected := rfl

@[simp] theorem State.clear_cycle (s : State) (a n : Nat) : (s.clear a n).cycle = s.cycle := rfl
@[simp] theorem State.clear_ungated (s : State) (a n : Nat) : (s.clear a n).ungated = s.ungated := rfl
@[simp] theorem State.clear_turn (s : State) (a n : Nat) : (s.clear a n).turn = s.turn := rfl
@[simp] theorem State.clear_curCore (s : State) (a n : Nat) : (s.clear a n).curCore = s.curCore := rfl
@[simp] theorem State.clear_curSlot (s : State) (a n : Nat) : (s.clear a n).curSlot = s.curSlot := rfl
@[simp] theorem State.clear_schedule (s : State) (a n : Nat) : (s.clear a n).schedule = s.schedule := rfl
@[simp] theorem State.clear_free (s : State) (a n : Nat) : (s.clear a n).free = s.free := rfl
@[simp] theorem State.clear_nextId (s : State) (a n : Nat) : (s.clear a n).nextId = s.nextId := rfl
@[simp] theorem State.clear_cores (s : State) (a n : Nat) : (s.clear a n).cores = s.cores := rfl
@[simp] theorem State.clear_clusters (s : State) (a n : Nat) : (s.clear a n).clusters = s.clusters := rfl
@[simp] theorem State.clear_dies (s : State) (a n : Nat) : (s.clear a n).dies = s.dies := rfl
@[simp] theorem State.clear_vfs (s : State) (a n : Nat) : (s.clear a n).vfs = s.vfs := rfl
@[simp] theorem State.clear_quads (s : State) (a n : Nat) : (s.clear a n).quads = s.quads := rfl
@[simp] theorem State.clear_pkg (s : State) (a n : Nat) : (s.clear a n).pkg = s.pkg := rfl
@[simp] theorem State.clear_packets (s : State) (a n : Nat) : (s.clear a n).packets = s.packets := rfl
@[simp] theorem State.clear_timed (s : State) (a n : Nat) : (s.clear a n).timed = s.timed := rfl
@[simp] theorem State.clear_sent (s : State) (a n : Nat) : (s.clear a n).sent = s.sent := rfl
@[simp] theorem State.clear_tables (s : State) (a n : Nat) : (s.clear a n).tables = s.tables := rfl
@[simp] theorem State.clear_traces (s : State) (a n : Nat) : (s.clear a n).traces = s.traces := rfl
@[simp] theorem State.clear_posted (s : State) (a n : Nat) : (s.clear a n).posted = s.posted := rfl
@[simp] theorem State.clear_stamps (s : State) (a n : Nat) : (s.clear a n).stamps = s.stamps := rfl
@[simp] theorem State.clear_collectives (s : State) (a n : Nat) : (s.clear a n).collectives = s.collectives := rfl
@[simp] theorem State.clear_mcgroups (s : State) (a n : Nat) : (s.clear a n).mcgroups = s.mcgroups := rfl
@[simp] theorem State.clear_mailboxes (s : State) (a n : Nat) : (s.clear a n).mailboxes = s.mailboxes := rfl
@[simp] theorem State.clear_links (s : State) (a n : Nat) : (s.clear a n).links = s.links := rfl
@[simp] theorem State.clear_wiring (s : State) (a n : Nat) : (s.clear a n).wiring = s.wiring := rfl
@[simp] theorem State.clear_fuses (s : State) (a n : Nat) : (s.clear a n).fuses = s.fuses := rfl
@[simp] theorem State.clear_errors (s : State) (a n : Nat) : (s.clear a n).errors = s.errors := rfl
@[simp] theorem State.clear_reports (s : State) (a n : Nat) : (s.clear a n).reports = s.reports := rfl
@[simp] theorem State.clear_pwrlim (s : State) (a n : Nat) : (s.clear a n).pwrlim = s.pwrlim := rfl
@[simp] theorem State.clear_pwrstat (s : State) (a n : Nat) : (s.clear a n).pwrstat = s.pwrstat := rfl
@[simp] theorem State.clear_gates (s : State) (a n : Nat) : (s.clear a n).gates = s.gates := rfl
@[simp] theorem State.clear_gatedAt (s : State) (a n : Nat) : (s.clear a n).gatedAt = s.gatedAt := rfl
@[simp] theorem State.clear_snapAt (s : State) (a n : Nat) : (s.clear a n).snapAt = s.snapAt := rfl
@[simp] theorem State.clear_snapPin (s : State) (a n : Nat) : (s.clear a n).snapPin = s.snapPin := rfl
@[simp] theorem State.clear_bootPrev (s : State) (a n : Nat) : (s.clear a n).bootPrev = s.bootPrev := rfl
@[simp] theorem State.clear_bootNow (s : State) (a n : Nat) : (s.clear a n).bootNow = s.bootNow := rfl
@[simp] theorem State.clear_booted (s : State) (a n : Nat) : (s.clear a n).booted = s.booted := rfl
@[simp] theorem State.clear_measured (s : State) (a n : Nat) : (s.clear a n).measured = s.measured := rfl
@[simp] theorem State.clear_signed (s : State) (a n : Nat) : (s.clear a n).signed = s.signed := rfl
@[simp] theorem State.clear_corrected (s : State) (a n : Nat) : (s.clear a n).corrected = s.corrected := rfl

@[simp] theorem State.store_cycle (s : State) (a n v : Nat) : (s.store a n v).cycle = s.cycle := by
  unfold State.store; dsimp only; split <;> rfl
@[simp] theorem State.store_ungated (s : State) (a n v : Nat) : (s.store a n v).ungated = s.ungated := by
  unfold State.store; dsimp only; split <;> rfl
@[simp] theorem State.store_turn (s : State) (a n v : Nat) : (s.store a n v).turn = s.turn := by
  unfold State.store; dsimp only; split <;> rfl
@[simp] theorem State.store_curCore (s : State) (a n v : Nat) : (s.store a n v).curCore = s.curCore := by
  unfold State.store; dsimp only; split <;> rfl
@[simp] theorem State.store_curSlot (s : State) (a n v : Nat) : (s.store a n v).curSlot = s.curSlot := by
  unfold State.store; dsimp only; split <;> rfl
@[simp] theorem State.store_schedule (s : State) (a n v : Nat) : (s.store a n v).schedule = s.schedule := by
  unfold State.store; dsimp only; split <;> rfl
@[simp] theorem State.store_free (s : State) (a n v : Nat) : (s.store a n v).free = s.free := by
  unfold State.store; dsimp only; split <;> rfl
@[simp] theorem State.store_nextId (s : State) (a n v : Nat) : (s.store a n v).nextId = s.nextId := by
  unfold State.store; dsimp only; split <;> rfl
@[simp] theorem State.store_empties (s : State) (a n v : Nat) : (s.store a n v).empties = s.empties := by
  unfold State.store; dsimp only; split <;> rfl
@[simp] theorem State.store_cores (s : State) (a n v : Nat) : (s.store a n v).cores = s.cores := by
  unfold State.store; dsimp only; split <;> rfl
@[simp] theorem State.store_clusters (s : State) (a n v : Nat) : (s.store a n v).clusters = s.clusters := by
  unfold State.store; dsimp only; split <;> rfl
@[simp] theorem State.store_dies (s : State) (a n v : Nat) : (s.store a n v).dies = s.dies := by
  unfold State.store; dsimp only; split <;> rfl
@[simp] theorem State.store_vfs (s : State) (a n v : Nat) : (s.store a n v).vfs = s.vfs := by
  unfold State.store; dsimp only; split <;> rfl
@[simp] theorem State.store_quads (s : State) (a n v : Nat) : (s.store a n v).quads = s.quads := by
  unfold State.store; dsimp only; split <;> rfl
@[simp] theorem State.store_pkg (s : State) (a n v : Nat) : (s.store a n v).pkg = s.pkg := by
  unfold State.store; dsimp only; split <;> rfl
@[simp] theorem State.store_packets (s : State) (a n v : Nat) : (s.store a n v).packets = s.packets := by
  unfold State.store; dsimp only; split <;> rfl
@[simp] theorem State.store_timed (s : State) (a n v : Nat) : (s.store a n v).timed = s.timed := by
  unfold State.store; dsimp only; split <;> rfl
@[simp] theorem State.store_sent (s : State) (a n v : Nat) : (s.store a n v).sent = s.sent := by
  unfold State.store; dsimp only; split <;> rfl
@[simp] theorem State.store_tables (s : State) (a n v : Nat) : (s.store a n v).tables = s.tables := by
  unfold State.store; dsimp only; split <;> rfl
@[simp] theorem State.store_traces (s : State) (a n v : Nat) : (s.store a n v).traces = s.traces := by
  unfold State.store; dsimp only; split <;> rfl
@[simp] theorem State.store_posted (s : State) (a n v : Nat) : (s.store a n v).posted = s.posted := by
  unfold State.store; dsimp only; split <;> rfl
@[simp] theorem State.store_stamps (s : State) (a n v : Nat) : (s.store a n v).stamps = s.stamps := by
  unfold State.store; dsimp only; split <;> rfl
@[simp] theorem State.store_collectives (s : State) (a n v : Nat) : (s.store a n v).collectives = s.collectives := by
  unfold State.store; dsimp only; split <;> rfl
@[simp] theorem State.store_mcgroups (s : State) (a n v : Nat) : (s.store a n v).mcgroups = s.mcgroups := by
  unfold State.store; dsimp only; split <;> rfl
@[simp] theorem State.store_mailboxes (s : State) (a n v : Nat) : (s.store a n v).mailboxes = s.mailboxes := by
  unfold State.store; dsimp only; split <;> rfl
@[simp] theorem State.store_links (s : State) (a n v : Nat) : (s.store a n v).links = s.links := by
  unfold State.store; dsimp only; split <;> rfl
@[simp] theorem State.store_wiring (s : State) (a n v : Nat) : (s.store a n v).wiring = s.wiring := by
  unfold State.store; dsimp only; split <;> rfl
@[simp] theorem State.store_fuses (s : State) (a n v : Nat) : (s.store a n v).fuses = s.fuses := by
  unfold State.store; dsimp only; split <;> rfl
@[simp] theorem State.store_errors (s : State) (a n v : Nat) : (s.store a n v).errors = s.errors := by
  unfold State.store; dsimp only; split <;> rfl
@[simp] theorem State.store_reports (s : State) (a n v : Nat) : (s.store a n v).reports = s.reports := by
  unfold State.store; dsimp only; split <;> rfl
@[simp] theorem State.store_pwrlim (s : State) (a n v : Nat) : (s.store a n v).pwrlim = s.pwrlim := by
  unfold State.store; dsimp only; split <;> rfl
@[simp] theorem State.store_pwrstat (s : State) (a n v : Nat) : (s.store a n v).pwrstat = s.pwrstat := by
  unfold State.store; dsimp only; split <;> rfl
@[simp] theorem State.store_gates (s : State) (a n v : Nat) : (s.store a n v).gates = s.gates := by
  unfold State.store; dsimp only; split <;> rfl
@[simp] theorem State.store_gatedAt (s : State) (a n v : Nat) : (s.store a n v).gatedAt = s.gatedAt := by
  unfold State.store; dsimp only; split <;> rfl
@[simp] theorem State.store_snapAt (s : State) (a n v : Nat) : (s.store a n v).snapAt = s.snapAt := by
  unfold State.store; dsimp only; split <;> rfl
@[simp] theorem State.store_snapPin (s : State) (a n v : Nat) : (s.store a n v).snapPin = s.snapPin := by
  unfold State.store; dsimp only; split <;> rfl
@[simp] theorem State.store_bootPrev (s : State) (a n v : Nat) : (s.store a n v).bootPrev = s.bootPrev := by
  unfold State.store; dsimp only; split <;> rfl
@[simp] theorem State.store_bootNow (s : State) (a n v : Nat) : (s.store a n v).bootNow = s.bootNow := by
  unfold State.store; dsimp only; split <;> rfl
@[simp] theorem State.store_booted (s : State) (a n v : Nat) : (s.store a n v).booted = s.booted := by
  unfold State.store; dsimp only; split <;> rfl
@[simp] theorem State.store_measured (s : State) (a n v : Nat) : (s.store a n v).measured = s.measured := by
  unfold State.store; dsimp only; split <;> rfl
@[simp] theorem State.store_signed (s : State) (a n v : Nat) : (s.store a n v).signed = s.signed := by
  unfold State.store; dsimp only; split <;> rfl
@[simp] theorem State.store_corrected (s : State) (a n v : Nat) : (s.store a n v).corrected = s.corrected := by
  unfold State.store; dsimp only; split <;> rfl
@[simp] theorem State.store_mem (s : State) (a n v : Nat) : (s.store a n v).mem = s.mem.write a n v := by
  unfold State.store; dsimp only; split <;> rfl
@[simp] theorem State.takeTrap_cycle (s : State) (c k : Nat) (e : Byte) (v w : Word) (l : Bool) (n : Nat) (x : Option Word32) :
    (s.takeTrap c k e v w l n x).cycle = s.cycle := by unfold State.takeTrap; dsimp only; split <;> rfl
@[simp] theorem State.faultNow_cycle (s : State) (c k : Nat) (e : Byte) (v : Word) : (s.faultNow c k e v).cycle = s.cycle := by
  unfold State.faultNow; dsimp only; split <;> simp
@[simp] theorem State.failNow_cycle (s : State) (r : Fail) : (s.failNow r).cycle = s.cycle := by
  unfold State.failNow; dsimp only; split <;> simp
@[simp] theorem State.takeTrap_ungated (s : State) (c k : Nat) (e : Byte) (v w : Word) (l : Bool) (n : Nat) (x : Option Word32) :
    (s.takeTrap c k e v w l n x).ungated = s.ungated := by unfold State.takeTrap; dsimp only; split <;> rfl
@[simp] theorem State.faultNow_ungated (s : State) (c k : Nat) (e : Byte) (v : Word) : (s.faultNow c k e v).ungated = s.ungated := by
  unfold State.faultNow; dsimp only; split <;> simp
@[simp] theorem State.failNow_ungated (s : State) (r : Fail) : (s.failNow r).ungated = s.ungated := by
  unfold State.failNow; dsimp only; split <;> simp
@[simp] theorem State.takeTrap_turn (s : State) (c k : Nat) (e : Byte) (v w : Word) (l : Bool) (n : Nat) (x : Option Word32) :
    (s.takeTrap c k e v w l n x).turn = s.turn := by unfold State.takeTrap; dsimp only; split <;> rfl
@[simp] theorem State.faultNow_turn (s : State) (c k : Nat) (e : Byte) (v : Word) : (s.faultNow c k e v).turn = s.turn := by
  unfold State.faultNow; dsimp only; split <;> simp
@[simp] theorem State.failNow_turn (s : State) (r : Fail) : (s.failNow r).turn = s.turn := by
  unfold State.failNow; dsimp only; split <;> simp
@[simp] theorem State.takeTrap_curCore (s : State) (c k : Nat) (e : Byte) (v w : Word) (l : Bool) (n : Nat) (x : Option Word32) :
    (s.takeTrap c k e v w l n x).curCore = s.curCore := by unfold State.takeTrap; dsimp only; split <;> rfl
@[simp] theorem State.faultNow_curCore (s : State) (c k : Nat) (e : Byte) (v : Word) : (s.faultNow c k e v).curCore = s.curCore := by
  unfold State.faultNow; dsimp only; split <;> simp
@[simp] theorem State.failNow_curCore (s : State) (r : Fail) : (s.failNow r).curCore = s.curCore := by
  unfold State.failNow; dsimp only; split <;> simp
@[simp] theorem State.takeTrap_curSlot (s : State) (c k : Nat) (e : Byte) (v w : Word) (l : Bool) (n : Nat) (x : Option Word32) :
    (s.takeTrap c k e v w l n x).curSlot = s.curSlot := by unfold State.takeTrap; dsimp only; split <;> rfl
@[simp] theorem State.faultNow_curSlot (s : State) (c k : Nat) (e : Byte) (v : Word) : (s.faultNow c k e v).curSlot = s.curSlot := by
  unfold State.faultNow; dsimp only; split <;> simp
@[simp] theorem State.failNow_curSlot (s : State) (r : Fail) : (s.failNow r).curSlot = s.curSlot := by
  unfold State.failNow; dsimp only; split <;> simp
@[simp] theorem State.takeTrap_schedule (s : State) (c k : Nat) (e : Byte) (v w : Word) (l : Bool) (n : Nat) (x : Option Word32) :
    (s.takeTrap c k e v w l n x).schedule = s.schedule := by unfold State.takeTrap; dsimp only; split <;> rfl
@[simp] theorem State.faultNow_schedule (s : State) (c k : Nat) (e : Byte) (v : Word) : (s.faultNow c k e v).schedule = s.schedule := by
  unfold State.faultNow; dsimp only; split <;> simp
@[simp] theorem State.failNow_schedule (s : State) (r : Fail) : (s.failNow r).schedule = s.schedule := by
  unfold State.failNow; dsimp only; split <;> simp
@[simp] theorem State.takeTrap_free (s : State) (c k : Nat) (e : Byte) (v w : Word) (l : Bool) (n : Nat) (x : Option Word32) :
    (s.takeTrap c k e v w l n x).free = s.free := by unfold State.takeTrap; dsimp only; split <;> rfl
@[simp] theorem State.faultNow_free (s : State) (c k : Nat) (e : Byte) (v : Word) : (s.faultNow c k e v).free = s.free := by
  unfold State.faultNow; dsimp only; split <;> simp
@[simp] theorem State.failNow_free (s : State) (r : Fail) : (s.failNow r).free = s.free := by
  unfold State.failNow; dsimp only; split <;> simp
@[simp] theorem State.takeTrap_nextId (s : State) (c k : Nat) (e : Byte) (v w : Word) (l : Bool) (n : Nat) (x : Option Word32) :
    (s.takeTrap c k e v w l n x).nextId = s.nextId := by unfold State.takeTrap; dsimp only; split <;> rfl
@[simp] theorem State.faultNow_nextId (s : State) (c k : Nat) (e : Byte) (v : Word) : (s.faultNow c k e v).nextId = s.nextId := by
  unfold State.faultNow; dsimp only; split <;> simp
@[simp] theorem State.failNow_nextId (s : State) (r : Fail) : (s.failNow r).nextId = s.nextId := by
  unfold State.failNow; dsimp only; split <;> simp
@[simp] theorem State.takeTrap_mem (s : State) (c k : Nat) (e : Byte) (v w : Word) (l : Bool) (n : Nat) (x : Option Word32) :
    (s.takeTrap c k e v w l n x).mem = s.mem := by unfold State.takeTrap; dsimp only; split <;> rfl
@[simp] theorem State.faultNow_mem (s : State) (c k : Nat) (e : Byte) (v : Word) : (s.faultNow c k e v).mem = s.mem := by
  unfold State.faultNow; dsimp only; split <;> simp
@[simp] theorem State.failNow_mem (s : State) (r : Fail) : (s.failNow r).mem = s.mem := by
  unfold State.failNow; dsimp only; split <;> simp
@[simp] theorem State.takeTrap_empties (s : State) (c k : Nat) (e : Byte) (v w : Word) (l : Bool) (n : Nat) (x : Option Word32) :
    (s.takeTrap c k e v w l n x).empties = s.empties := by unfold State.takeTrap; dsimp only; split <;> rfl
@[simp] theorem State.faultNow_empties (s : State) (c k : Nat) (e : Byte) (v : Word) : (s.faultNow c k e v).empties = s.empties := by
  unfold State.faultNow; dsimp only; split <;> simp
@[simp] theorem State.failNow_empties (s : State) (r : Fail) : (s.failNow r).empties = s.empties := by
  unfold State.failNow; dsimp only; split <;> simp
@[simp] theorem State.takeTrap_poisons (s : State) (c k : Nat) (e : Byte) (v w : Word) (l : Bool) (n : Nat) (x : Option Word32) :
    (s.takeTrap c k e v w l n x).poisons = s.poisons := by unfold State.takeTrap; dsimp only; split <;> rfl
@[simp] theorem State.faultNow_poisons (s : State) (c k : Nat) (e : Byte) (v : Word) : (s.faultNow c k e v).poisons = s.poisons := by
  unfold State.faultNow; dsimp only; split <;> simp
@[simp] theorem State.failNow_poisons (s : State) (r : Fail) : (s.failNow r).poisons = s.poisons := by
  unfold State.failNow; dsimp only; split <;> simp
@[simp] theorem State.takeTrap_clusters (s : State) (c k : Nat) (e : Byte) (v w : Word) (l : Bool) (n : Nat) (x : Option Word32) :
    (s.takeTrap c k e v w l n x).clusters = s.clusters := by unfold State.takeTrap; dsimp only; split <;> rfl
@[simp] theorem State.faultNow_clusters (s : State) (c k : Nat) (e : Byte) (v : Word) : (s.faultNow c k e v).clusters = s.clusters := by
  unfold State.faultNow; dsimp only; split <;> simp
@[simp] theorem State.failNow_clusters (s : State) (r : Fail) : (s.failNow r).clusters = s.clusters := by
  unfold State.failNow; dsimp only; split <;> simp
@[simp] theorem State.takeTrap_dies (s : State) (c k : Nat) (e : Byte) (v w : Word) (l : Bool) (n : Nat) (x : Option Word32) :
    (s.takeTrap c k e v w l n x).dies = s.dies := by unfold State.takeTrap; dsimp only; split <;> rfl
@[simp] theorem State.faultNow_dies (s : State) (c k : Nat) (e : Byte) (v : Word) : (s.faultNow c k e v).dies = s.dies := by
  unfold State.faultNow; dsimp only; split <;> simp
@[simp] theorem State.failNow_dies (s : State) (r : Fail) : (s.failNow r).dies = s.dies := by
  unfold State.failNow; dsimp only; split <;> simp
@[simp] theorem State.takeTrap_vfs (s : State) (c k : Nat) (e : Byte) (v w : Word) (l : Bool) (n : Nat) (x : Option Word32) :
    (s.takeTrap c k e v w l n x).vfs = s.vfs := by unfold State.takeTrap; dsimp only; split <;> rfl
@[simp] theorem State.faultNow_vfs (s : State) (c k : Nat) (e : Byte) (v : Word) : (s.faultNow c k e v).vfs = s.vfs := by
  unfold State.faultNow; dsimp only; split <;> simp
@[simp] theorem State.failNow_vfs (s : State) (r : Fail) : (s.failNow r).vfs = s.vfs := by
  unfold State.failNow; dsimp only; split <;> simp
@[simp] theorem State.takeTrap_quads (s : State) (c k : Nat) (e : Byte) (v w : Word) (l : Bool) (n : Nat) (x : Option Word32) :
    (s.takeTrap c k e v w l n x).quads = s.quads := by unfold State.takeTrap; dsimp only; split <;> rfl
@[simp] theorem State.faultNow_quads (s : State) (c k : Nat) (e : Byte) (v : Word) : (s.faultNow c k e v).quads = s.quads := by
  unfold State.faultNow; dsimp only; split <;> simp
@[simp] theorem State.failNow_quads (s : State) (r : Fail) : (s.failNow r).quads = s.quads := by
  unfold State.failNow; dsimp only; split <;> simp
@[simp] theorem State.takeTrap_pkg (s : State) (c k : Nat) (e : Byte) (v w : Word) (l : Bool) (n : Nat) (x : Option Word32) :
    (s.takeTrap c k e v w l n x).pkg = s.pkg := by unfold State.takeTrap; dsimp only; split <;> rfl
@[simp] theorem State.faultNow_pkg (s : State) (c k : Nat) (e : Byte) (v : Word) : (s.faultNow c k e v).pkg = s.pkg := by
  unfold State.faultNow; dsimp only; split <;> simp
@[simp] theorem State.failNow_pkg (s : State) (r : Fail) : (s.failNow r).pkg = s.pkg := by
  unfold State.failNow; dsimp only; split <;> simp
@[simp] theorem State.takeTrap_packets (s : State) (c k : Nat) (e : Byte) (v w : Word) (l : Bool) (n : Nat) (x : Option Word32) :
    (s.takeTrap c k e v w l n x).packets = s.packets := by unfold State.takeTrap; dsimp only; split <;> rfl
@[simp] theorem State.faultNow_packets (s : State) (c k : Nat) (e : Byte) (v : Word) : (s.faultNow c k e v).packets = s.packets := by
  unfold State.faultNow; dsimp only; split <;> simp
@[simp] theorem State.failNow_packets (s : State) (r : Fail) : (s.failNow r).packets = s.packets := by
  unfold State.failNow; dsimp only; split <;> simp
@[simp] theorem State.takeTrap_timed (s : State) (c k : Nat) (e : Byte) (v w : Word) (l : Bool) (n : Nat) (x : Option Word32) :
    (s.takeTrap c k e v w l n x).timed = s.timed := by unfold State.takeTrap; dsimp only; split <;> rfl
@[simp] theorem State.faultNow_timed (s : State) (c k : Nat) (e : Byte) (v : Word) : (s.faultNow c k e v).timed = s.timed := by
  unfold State.faultNow; dsimp only; split <;> simp
@[simp] theorem State.failNow_timed (s : State) (r : Fail) : (s.failNow r).timed = s.timed := by
  unfold State.failNow; dsimp only; split <;> simp
@[simp] theorem State.takeTrap_sent (s : State) (c k : Nat) (e : Byte) (v w : Word) (l : Bool) (n : Nat) (x : Option Word32) :
    (s.takeTrap c k e v w l n x).sent = s.sent := by unfold State.takeTrap; dsimp only; split <;> rfl
@[simp] theorem State.faultNow_sent (s : State) (c k : Nat) (e : Byte) (v : Word) : (s.faultNow c k e v).sent = s.sent := by
  unfold State.faultNow; dsimp only; split <;> simp
@[simp] theorem State.failNow_sent (s : State) (r : Fail) : (s.failNow r).sent = s.sent := by
  unfold State.failNow; dsimp only; split <;> simp
@[simp] theorem State.takeTrap_tables (s : State) (c k : Nat) (e : Byte) (v w : Word) (l : Bool) (n : Nat) (x : Option Word32) :
    (s.takeTrap c k e v w l n x).tables = s.tables := by unfold State.takeTrap; dsimp only; split <;> rfl
@[simp] theorem State.faultNow_tables (s : State) (c k : Nat) (e : Byte) (v : Word) : (s.faultNow c k e v).tables = s.tables := by
  unfold State.faultNow; dsimp only; split <;> simp
@[simp] theorem State.failNow_tables (s : State) (r : Fail) : (s.failNow r).tables = s.tables := by
  unfold State.failNow; dsimp only; split <;> simp
@[simp] theorem State.takeTrap_traces (s : State) (c k : Nat) (e : Byte) (v w : Word) (l : Bool) (n : Nat) (x : Option Word32) :
    (s.takeTrap c k e v w l n x).traces = s.traces := by unfold State.takeTrap; dsimp only; split <;> rfl
@[simp] theorem State.faultNow_traces (s : State) (c k : Nat) (e : Byte) (v : Word) : (s.faultNow c k e v).traces = s.traces := by
  unfold State.faultNow; dsimp only; split <;> simp
@[simp] theorem State.failNow_traces (s : State) (r : Fail) : (s.failNow r).traces = s.traces := by
  unfold State.failNow; dsimp only; split <;> simp
@[simp] theorem State.takeTrap_posted (s : State) (c k : Nat) (e : Byte) (v w : Word) (l : Bool) (n : Nat) (x : Option Word32) :
    (s.takeTrap c k e v w l n x).posted = s.posted := by unfold State.takeTrap; dsimp only; split <;> rfl
@[simp] theorem State.faultNow_posted (s : State) (c k : Nat) (e : Byte) (v : Word) : (s.faultNow c k e v).posted = s.posted := by
  unfold State.faultNow; dsimp only; split <;> simp
@[simp] theorem State.failNow_posted (s : State) (r : Fail) : (s.failNow r).posted = s.posted := by
  unfold State.failNow; dsimp only; split <;> simp
@[simp] theorem State.takeTrap_stamps (s : State) (c k : Nat) (e : Byte) (v w : Word) (l : Bool) (n : Nat) (x : Option Word32) :
    (s.takeTrap c k e v w l n x).stamps = s.stamps := by unfold State.takeTrap; dsimp only; split <;> rfl
@[simp] theorem State.faultNow_stamps (s : State) (c k : Nat) (e : Byte) (v : Word) : (s.faultNow c k e v).stamps = s.stamps := by
  unfold State.faultNow; dsimp only; split <;> simp
@[simp] theorem State.failNow_stamps (s : State) (r : Fail) : (s.failNow r).stamps = s.stamps := by
  unfold State.failNow; dsimp only; split <;> simp
@[simp] theorem State.takeTrap_collectives (s : State) (c k : Nat) (e : Byte) (v w : Word) (l : Bool) (n : Nat) (x : Option Word32) :
    (s.takeTrap c k e v w l n x).collectives = s.collectives := by unfold State.takeTrap; dsimp only; split <;> rfl
@[simp] theorem State.faultNow_collectives (s : State) (c k : Nat) (e : Byte) (v : Word) : (s.faultNow c k e v).collectives = s.collectives := by
  unfold State.faultNow; dsimp only; split <;> simp
@[simp] theorem State.failNow_collectives (s : State) (r : Fail) : (s.failNow r).collectives = s.collectives := by
  unfold State.failNow; dsimp only; split <;> simp
@[simp] theorem State.takeTrap_mcgroups (s : State) (c k : Nat) (e : Byte) (v w : Word) (l : Bool) (n : Nat) (x : Option Word32) :
    (s.takeTrap c k e v w l n x).mcgroups = s.mcgroups := by unfold State.takeTrap; dsimp only; split <;> rfl
@[simp] theorem State.faultNow_mcgroups (s : State) (c k : Nat) (e : Byte) (v : Word) : (s.faultNow c k e v).mcgroups = s.mcgroups := by
  unfold State.faultNow; dsimp only; split <;> simp
@[simp] theorem State.failNow_mcgroups (s : State) (r : Fail) : (s.failNow r).mcgroups = s.mcgroups := by
  unfold State.failNow; dsimp only; split <;> simp
@[simp] theorem State.takeTrap_mailboxes (s : State) (c k : Nat) (e : Byte) (v w : Word) (l : Bool) (n : Nat) (x : Option Word32) :
    (s.takeTrap c k e v w l n x).mailboxes = s.mailboxes := by unfold State.takeTrap; dsimp only; split <;> rfl
@[simp] theorem State.faultNow_mailboxes (s : State) (c k : Nat) (e : Byte) (v : Word) : (s.faultNow c k e v).mailboxes = s.mailboxes := by
  unfold State.faultNow; dsimp only; split <;> simp
@[simp] theorem State.failNow_mailboxes (s : State) (r : Fail) : (s.failNow r).mailboxes = s.mailboxes := by
  unfold State.failNow; dsimp only; split <;> simp
@[simp] theorem State.takeTrap_links (s : State) (c k : Nat) (e : Byte) (v w : Word) (l : Bool) (n : Nat) (x : Option Word32) :
    (s.takeTrap c k e v w l n x).links = s.links := by unfold State.takeTrap; dsimp only; split <;> rfl
@[simp] theorem State.faultNow_links (s : State) (c k : Nat) (e : Byte) (v : Word) : (s.faultNow c k e v).links = s.links := by
  unfold State.faultNow; dsimp only; split <;> simp
@[simp] theorem State.failNow_links (s : State) (r : Fail) : (s.failNow r).links = s.links := by
  unfold State.failNow; dsimp only; split <;> simp
@[simp] theorem State.takeTrap_wiring (s : State) (c k : Nat) (e : Byte) (v w : Word) (l : Bool) (n : Nat) (x : Option Word32) :
    (s.takeTrap c k e v w l n x).wiring = s.wiring := by unfold State.takeTrap; dsimp only; split <;> rfl
@[simp] theorem State.faultNow_wiring (s : State) (c k : Nat) (e : Byte) (v : Word) : (s.faultNow c k e v).wiring = s.wiring := by
  unfold State.faultNow; dsimp only; split <;> simp
@[simp] theorem State.failNow_wiring (s : State) (r : Fail) : (s.failNow r).wiring = s.wiring := by
  unfold State.failNow; dsimp only; split <;> simp
@[simp] theorem State.takeTrap_fuses (s : State) (c k : Nat) (e : Byte) (v w : Word) (l : Bool) (n : Nat) (x : Option Word32) :
    (s.takeTrap c k e v w l n x).fuses = s.fuses := by unfold State.takeTrap; dsimp only; split <;> rfl
@[simp] theorem State.faultNow_fuses (s : State) (c k : Nat) (e : Byte) (v : Word) : (s.faultNow c k e v).fuses = s.fuses := by
  unfold State.faultNow; dsimp only; split <;> simp
@[simp] theorem State.failNow_fuses (s : State) (r : Fail) : (s.failNow r).fuses = s.fuses := by
  unfold State.failNow; dsimp only; split <;> simp
@[simp] theorem State.takeTrap_errors (s : State) (c k : Nat) (e : Byte) (v w : Word) (l : Bool) (n : Nat) (x : Option Word32) :
    (s.takeTrap c k e v w l n x).errors = s.errors := by unfold State.takeTrap; dsimp only; split <;> rfl
@[simp] theorem State.faultNow_errors (s : State) (c k : Nat) (e : Byte) (v : Word) : (s.faultNow c k e v).errors = s.errors := by
  unfold State.faultNow; dsimp only; split <;> simp
@[simp] theorem State.failNow_errors (s : State) (r : Fail) : (s.failNow r).errors = s.errors := by
  unfold State.failNow; dsimp only; split <;> simp
@[simp] theorem State.takeTrap_pwrlim (s : State) (c k : Nat) (e : Byte) (v w : Word) (l : Bool) (n : Nat) (x : Option Word32) :
    (s.takeTrap c k e v w l n x).pwrlim = s.pwrlim := by unfold State.takeTrap; dsimp only; split <;> rfl
@[simp] theorem State.faultNow_pwrlim (s : State) (c k : Nat) (e : Byte) (v : Word) : (s.faultNow c k e v).pwrlim = s.pwrlim := by
  unfold State.faultNow; dsimp only; split <;> simp
@[simp] theorem State.failNow_pwrlim (s : State) (r : Fail) : (s.failNow r).pwrlim = s.pwrlim := by
  unfold State.failNow; dsimp only; split <;> simp
@[simp] theorem State.takeTrap_pwrstat (s : State) (c k : Nat) (e : Byte) (v w : Word) (l : Bool) (n : Nat) (x : Option Word32) :
    (s.takeTrap c k e v w l n x).pwrstat = s.pwrstat := by unfold State.takeTrap; dsimp only; split <;> rfl
@[simp] theorem State.faultNow_pwrstat (s : State) (c k : Nat) (e : Byte) (v : Word) : (s.faultNow c k e v).pwrstat = s.pwrstat := by
  unfold State.faultNow; dsimp only; split <;> simp
@[simp] theorem State.failNow_pwrstat (s : State) (r : Fail) : (s.failNow r).pwrstat = s.pwrstat := by
  unfold State.failNow; dsimp only; split <;> simp
@[simp] theorem State.takeTrap_gates (s : State) (c k : Nat) (e : Byte) (v w : Word) (l : Bool) (n : Nat) (x : Option Word32) :
    (s.takeTrap c k e v w l n x).gates = s.gates := by unfold State.takeTrap; dsimp only; split <;> rfl
@[simp] theorem State.faultNow_gates (s : State) (c k : Nat) (e : Byte) (v : Word) : (s.faultNow c k e v).gates = s.gates := by
  unfold State.faultNow; dsimp only; split <;> simp
@[simp] theorem State.failNow_gates (s : State) (r : Fail) : (s.failNow r).gates = s.gates := by
  unfold State.failNow; dsimp only; split <;> simp
@[simp] theorem State.takeTrap_gatedAt (s : State) (c k : Nat) (e : Byte) (v w : Word) (l : Bool) (n : Nat) (x : Option Word32) :
    (s.takeTrap c k e v w l n x).gatedAt = s.gatedAt := by unfold State.takeTrap; dsimp only; split <;> rfl
@[simp] theorem State.faultNow_gatedAt (s : State) (c k : Nat) (e : Byte) (v : Word) : (s.faultNow c k e v).gatedAt = s.gatedAt := by
  unfold State.faultNow; dsimp only; split <;> simp
@[simp] theorem State.failNow_gatedAt (s : State) (r : Fail) : (s.failNow r).gatedAt = s.gatedAt := by
  unfold State.failNow; dsimp only; split <;> simp
@[simp] theorem State.takeTrap_snapAt (s : State) (c k : Nat) (e : Byte) (v w : Word) (l : Bool) (n : Nat) (x : Option Word32) :
    (s.takeTrap c k e v w l n x).snapAt = s.snapAt := by unfold State.takeTrap; dsimp only; split <;> rfl
@[simp] theorem State.faultNow_snapAt (s : State) (c k : Nat) (e : Byte) (v : Word) : (s.faultNow c k e v).snapAt = s.snapAt := by
  unfold State.faultNow; dsimp only; split <;> simp
@[simp] theorem State.failNow_snapAt (s : State) (r : Fail) : (s.failNow r).snapAt = s.snapAt := by
  unfold State.failNow; dsimp only; split <;> simp
@[simp] theorem State.takeTrap_snapPin (s : State) (c k : Nat) (e : Byte) (v w : Word) (l : Bool) (n : Nat) (x : Option Word32) :
    (s.takeTrap c k e v w l n x).snapPin = s.snapPin := by unfold State.takeTrap; dsimp only; split <;> rfl
@[simp] theorem State.faultNow_snapPin (s : State) (c k : Nat) (e : Byte) (v : Word) : (s.faultNow c k e v).snapPin = s.snapPin := by
  unfold State.faultNow; dsimp only; split <;> simp
@[simp] theorem State.failNow_snapPin (s : State) (r : Fail) : (s.failNow r).snapPin = s.snapPin := by
  unfold State.failNow; dsimp only; split <;> simp
@[simp] theorem State.takeTrap_bootPrev (s : State) (c k : Nat) (e : Byte) (v w : Word) (l : Bool) (n : Nat) (x : Option Word32) :
    (s.takeTrap c k e v w l n x).bootPrev = s.bootPrev := by unfold State.takeTrap; dsimp only; split <;> rfl
@[simp] theorem State.faultNow_bootPrev (s : State) (c k : Nat) (e : Byte) (v : Word) : (s.faultNow c k e v).bootPrev = s.bootPrev := by
  unfold State.faultNow; dsimp only; split <;> simp
@[simp] theorem State.failNow_bootPrev (s : State) (r : Fail) : (s.failNow r).bootPrev = s.bootPrev := by
  unfold State.failNow; dsimp only; split <;> simp
@[simp] theorem State.takeTrap_bootNow (s : State) (c k : Nat) (e : Byte) (v w : Word) (l : Bool) (n : Nat) (x : Option Word32) :
    (s.takeTrap c k e v w l n x).bootNow = s.bootNow := by unfold State.takeTrap; dsimp only; split <;> rfl
@[simp] theorem State.faultNow_bootNow (s : State) (c k : Nat) (e : Byte) (v : Word) : (s.faultNow c k e v).bootNow = s.bootNow := by
  unfold State.faultNow; dsimp only; split <;> simp
@[simp] theorem State.failNow_bootNow (s : State) (r : Fail) : (s.failNow r).bootNow = s.bootNow := by
  unfold State.failNow; dsimp only; split <;> simp
@[simp] theorem State.takeTrap_booted (s : State) (c k : Nat) (e : Byte) (v w : Word) (l : Bool) (n : Nat) (x : Option Word32) :
    (s.takeTrap c k e v w l n x).booted = s.booted := by unfold State.takeTrap; dsimp only; split <;> rfl
@[simp] theorem State.faultNow_booted (s : State) (c k : Nat) (e : Byte) (v : Word) : (s.faultNow c k e v).booted = s.booted := by
  unfold State.faultNow; dsimp only; split <;> simp
@[simp] theorem State.failNow_booted (s : State) (r : Fail) : (s.failNow r).booted = s.booted := by
  unfold State.failNow; dsimp only; split <;> simp
@[simp] theorem State.takeTrap_measured (s : State) (c k : Nat) (e : Byte) (v w : Word) (l : Bool) (n : Nat) (x : Option Word32) :
    (s.takeTrap c k e v w l n x).measured = s.measured := by unfold State.takeTrap; dsimp only; split <;> rfl
@[simp] theorem State.faultNow_measured (s : State) (c k : Nat) (e : Byte) (v : Word) : (s.faultNow c k e v).measured = s.measured := by
  unfold State.faultNow; dsimp only; split <;> simp
@[simp] theorem State.failNow_measured (s : State) (r : Fail) : (s.failNow r).measured = s.measured := by
  unfold State.failNow; dsimp only; split <;> simp
@[simp] theorem State.takeTrap_signed (s : State) (c k : Nat) (e : Byte) (v w : Word) (l : Bool) (n : Nat) (x : Option Word32) :
    (s.takeTrap c k e v w l n x).signed = s.signed := by unfold State.takeTrap; dsimp only; split <;> rfl
@[simp] theorem State.faultNow_signed (s : State) (c k : Nat) (e : Byte) (v : Word) : (s.faultNow c k e v).signed = s.signed := by
  unfold State.faultNow; dsimp only; split <;> simp
@[simp] theorem State.failNow_signed (s : State) (r : Fail) : (s.failNow r).signed = s.signed := by
  unfold State.failNow; dsimp only; split <;> simp
@[simp] theorem State.takeTrap_corrected (s : State) (c k : Nat) (e : Byte) (v w : Word) (l : Bool) (n : Nat) (x : Option Word32) :
    (s.takeTrap c k e v w l n x).corrected = s.corrected := by unfold State.takeTrap; dsimp only; split <;> rfl
@[simp] theorem State.faultNow_corrected (s : State) (c k : Nat) (e : Byte) (v : Word) : (s.faultNow c k e v).corrected = s.corrected := by
  unfold State.faultNow; dsimp only; split <;> simp
@[simp] theorem State.failNow_corrected (s : State) (r : Fail) : (s.failNow r).corrected = s.corrected := by
  unfold State.failNow; dsimp only; split <;> simp

/-! ## Units under updates of other fields -/

@[simp] theorem State.cluster_putCore (s : State) (c : Nat) (x : Core) (d : Nat) : (s.putCore c x).cluster d = s.cluster d := rfl
@[simp] theorem State.die_putCore (s : State) (c : Nat) (x : Core) (d : Nat) : (s.putCore c x).die d = s.die d := rfl
@[simp] theorem State.vf_putCore (s : State) (c : Nat) (x : Core) (d : Nat) : (s.putCore c x).vf d = s.vf d := rfl
@[simp] theorem State.owner_putCore (s : State) (c : Nat) (x : Core) (d : Nat) : (s.putCore c x).owner d = s.owner d := rfl
@[simp] theorem State.cluster_modCore (s : State) (c : Nat) (f : Core → Core) (d : Nat) : (s.modCore c f).cluster d = s.cluster d := rfl
@[simp] theorem State.die_modCore (s : State) (c : Nat) (f : Core → Core) (d : Nat) : (s.modCore c f).die d = s.die d := rfl
@[simp] theorem State.vf_modCore (s : State) (c : Nat) (f : Core → Core) (d : Nat) : (s.modCore c f).vf d = s.vf d := rfl
@[simp] theorem State.owner_modCore (s : State) (c : Nat) (f : Core → Core) (d : Nat) : (s.modCore c f).owner d = s.owner d := rfl
@[simp] theorem State.cluster_putThr (s : State) (c k : Nat) (t : Thread) (d : Nat) : (s.putThr c k t).cluster d = s.cluster d := rfl
@[simp] theorem State.die_putThr (s : State) (c k : Nat) (t : Thread) (d : Nat) : (s.putThr c k t).die d = s.die d := rfl
@[simp] theorem State.vf_putThr (s : State) (c k : Nat) (t : Thread) (d : Nat) : (s.putThr c k t).vf d = s.vf d := rfl
@[simp] theorem State.owner_putThr (s : State) (c k : Nat) (t : Thread) (d : Nat) : (s.putThr c k t).owner d = s.owner d := rfl
@[simp] theorem State.cluster_modThr (s : State) (c k : Nat) (f : Thread → Thread) (d : Nat) : (s.modThr c k f).cluster d = s.cluster d := rfl
@[simp] theorem State.die_modThr (s : State) (c k : Nat) (f : Thread → Thread) (d : Nat) : (s.modThr c k f).die d = s.die d := rfl
@[simp] theorem State.vf_modThr (s : State) (c k : Nat) (f : Thread → Thread) (d : Nat) : (s.modThr c k f).vf d = s.vf d := rfl
@[simp] theorem State.owner_modThr (s : State) (c k : Nat) (f : Thread → Thread) (d : Nat) : (s.modThr c k f).owner d = s.owner d := rfl
@[simp] theorem State.cluster_putMe (s : State) (t : Thread) (d : Nat) : (s.putMe t).cluster d = s.cluster d := rfl
@[simp] theorem State.die_putMe (s : State) (t : Thread) (d : Nat) : (s.putMe t).die d = s.die d := rfl
@[simp] theorem State.vf_putMe (s : State) (t : Thread) (d : Nat) : (s.putMe t).vf d = s.vf d := rfl
@[simp] theorem State.owner_putMe (s : State) (t : Thread) (d : Nat) : (s.putMe t).owner d = s.owner d := rfl
@[simp] theorem State.cluster_modBank (s : State) (c b : Nat) (f : Bank → Bank) (d : Nat) : (s.modBank c b f).cluster d = s.cluster d := rfl
@[simp] theorem State.die_modBank (s : State) (c b : Nat) (f : Bank → Bank) (d : Nat) : (s.modBank c b f).die d = s.die d := rfl
@[simp] theorem State.vf_modBank (s : State) (c b : Nat) (f : Bank → Bank) (d : Nat) : (s.modBank c b f).vf d = s.vf d := rfl
@[simp] theorem State.owner_modBank (s : State) (c b : Nat) (f : Bank → Bank) (d : Nat) : (s.modBank c b f).owner d = s.owner d := rfl
@[simp] theorem State.cluster_modPend (s : State) (r : Ref) (f : Pending → Pending) (d : Nat) : (s.modPend r f).cluster d = s.cluster d := rfl
@[simp] theorem State.die_modPend (s : State) (r : Ref) (f : Pending → Pending) (d : Nat) : (s.modPend r f).die d = s.die d := rfl
@[simp] theorem State.vf_modPend (s : State) (r : Ref) (f : Pending → Pending) (d : Nat) : (s.modPend r f).vf d = s.vf d := rfl
@[simp] theorem State.owner_modPend (s : State) (r : Ref) (f : Pending → Pending) (d : Nat) : (s.modPend r f).owner d = s.owner d := rfl
@[simp] theorem State.cluster_setPhase (s : State) (r : Ref) (ph : Phase) (d : Nat) : (s.setPhase r ph).cluster d = s.cluster d := rfl
@[simp] theorem State.die_setPhase (s : State) (r : Ref) (ph : Phase) (d : Nat) : (s.setPhase r ph).die d = s.die d := rfl
@[simp] theorem State.vf_setPhase (s : State) (r : Ref) (ph : Phase) (d : Nat) : (s.setPhase r ph).vf d = s.vf d := rfl
@[simp] theorem State.owner_setPhase (s : State) (r : Ref) (ph : Phase) (d : Nat) : (s.setPhase r ph).owner d = s.owner d := rfl
@[simp] theorem State.cluster_finish (s : State) (r : Ref) (v : Result) (d : Nat) : (s.finish r v).cluster d = s.cluster d := rfl
@[simp] theorem State.die_finish (s : State) (r : Ref) (v : Result) (d : Nat) : (s.finish r v).die d = s.die d := rfl
@[simp] theorem State.vf_finish (s : State) (r : Ref) (v : Result) (d : Nat) : (s.finish r v).vf d = s.vf d := rfl
@[simp] theorem State.owner_finish (s : State) (r : Ref) (v : Result) (d : Nat) : (s.finish r v).owner d = s.owner d := rfl
@[simp] theorem State.cluster_lateFail (s : State) (r : Ref) (e : Byte) (v : Word) (d : Nat) : (s.lateFail r e v).cluster d = s.cluster d := rfl
@[simp] theorem State.die_lateFail (s : State) (r : Ref) (e : Byte) (v : Word) (d : Nat) : (s.lateFail r e v).die d = s.die d := rfl
@[simp] theorem State.vf_lateFail (s : State) (r : Ref) (e : Byte) (v : Word) (d : Nat) : (s.lateFail r e v).vf d = s.vf d := rfl
@[simp] theorem State.owner_lateFail (s : State) (r : Ref) (e : Byte) (v : Word) (d : Nat) : (s.lateFail r e v).owner d = s.owner d := rfl
@[simp] theorem State.cluster_completePend (s : State) (r : Ref) (v : Result) (d : Nat) : (s.completePend r v).cluster d = s.cluster d := rfl
@[simp] theorem State.die_completePend (s : State) (r : Ref) (v : Result) (d : Nat) : (s.completePend r v).die d = s.die d := rfl
@[simp] theorem State.vf_completePend (s : State) (r : Ref) (v : Result) (d : Nat) : (s.completePend r v).vf d = s.vf d := rfl
@[simp] theorem State.owner_completePend (s : State) (r : Ref) (v : Result) (d : Nat) : (s.completePend r v).owner d = s.owner d := rfl
@[simp] theorem State.cluster_withdrawSfu (s : State) (c k : Nat) (d : Nat) : (s.withdrawSfu c k).cluster d = s.cluster d := rfl
@[simp] theorem State.die_withdrawSfu (s : State) (c k : Nat) (d : Nat) : (s.withdrawSfu c k).die d = s.die d := rfl
@[simp] theorem State.vf_withdrawSfu (s : State) (c k : Nat) (d : Nat) : (s.withdrawSfu c k).vf d = s.vf d := rfl
@[simp] theorem State.owner_withdrawSfu (s : State) (c k : Nat) (d : Nat) : (s.withdrawSfu c k).owner d = s.owner d := rfl
@[simp] theorem State.cluster_joinSfu (s : State) (c k i n : Nat) (d : Nat) : (s.joinSfu c k i n).cluster d = s.cluster d := rfl
@[simp] theorem State.die_joinSfu (s : State) (c k i n : Nat) (d : Nat) : (s.joinSfu c k i n).die d = s.die d := rfl
@[simp] theorem State.vf_joinSfu (s : State) (c k i n : Nat) (d : Nat) : (s.joinSfu c k i n).vf d = s.vf d := rfl
@[simp] theorem State.owner_joinSfu (s : State) (c k i n : Nat) (d : Nat) : (s.joinSfu c k i n).owner d = s.owner d := rfl
@[simp] theorem State.cluster_addPend (s : State) (c k : Nat) (p : Pending) (d : Nat) : (s.addPend c k p).cluster d = s.cluster d := rfl
@[simp] theorem State.die_addPend (s : State) (c k : Nat) (p : Pending) (d : Nat) : (s.addPend c k p).die d = s.die d := rfl
@[simp] theorem State.vf_addPend (s : State) (c k : Nat) (p : Pending) (d : Nat) : (s.addPend c k p).vf d = s.vf d := rfl
@[simp] theorem State.owner_addPend (s : State) (c k : Nat) (p : Pending) (d : Nat) : (s.addPend c k p).owner d = s.owner d := rfl
@[simp] theorem State.cluster_fly (s : State) (i : Instr) (o : Operands) (m r : Bool) (ph : Phase) (d : Nat) : (s.fly i o m r ph).cluster d = s.cluster d := rfl
@[simp] theorem State.die_fly (s : State) (i : Instr) (o : Operands) (m r : Bool) (ph : Phase) (d : Nat) : (s.fly i o m r ph).die d = s.die d := rfl
@[simp] theorem State.vf_fly (s : State) (i : Instr) (o : Operands) (m r : Bool) (ph : Phase) (d : Nat) : (s.fly i o m r ph).vf d = s.vf d := rfl
@[simp] theorem State.owner_fly (s : State) (i : Instr) (o : Operands) (m r : Bool) (ph : Phase) (d : Nat) : (s.fly i o m r ph).owner d = s.owner d := rfl
@[simp] theorem State.cluster_doubleTrap (s : State) (c : Nat) (e v : Word) (d : Nat) : (s.doubleTrap c e v).cluster d = s.cluster d := rfl
@[simp] theorem State.die_doubleTrap (s : State) (c : Nat) (e v : Word) (d : Nat) : (s.doubleTrap c e v).die d = s.die d := rfl
@[simp] theorem State.vf_doubleTrap (s : State) (c : Nat) (e v : Word) (d : Nat) : (s.doubleTrap c e v).vf d = s.vf d := rfl
@[simp] theorem State.owner_doubleTrap (s : State) (c : Nat) (e v : Word) (d : Nat) : (s.doubleTrap c e v).owner d = s.owner d := rfl
@[simp] theorem State.core_report (s : State) (r : Report) (d : Nat) : (s.report r).core d = s.core d := rfl
@[simp] theorem State.cluster_report (s : State) (r : Report) (d : Nat) : (s.report r).cluster d = s.cluster d := rfl
@[simp] theorem State.die_report (s : State) (r : Report) (d : Nat) : (s.report r).die d = s.die d := rfl
@[simp] theorem State.vf_report (s : State) (r : Report) (d : Nat) : (s.report r).vf d = s.vf d := rfl
@[simp] theorem State.owner_report (s : State) (r : Report) (d : Nat) : (s.report r).owner d = s.owner d := rfl
@[simp] theorem State.core_putCluster (s : State) (c : Nat) (x : Cluster) (d : Nat) : (s.putCluster c x).core d = s.core d := rfl
@[simp] theorem State.die_putCluster (s : State) (c : Nat) (x : Cluster) (d : Nat) : (s.putCluster c x).die d = s.die d := rfl
@[simp] theorem State.vf_putCluster (s : State) (c : Nat) (x : Cluster) (d : Nat) : (s.putCluster c x).vf d = s.vf d := rfl
@[simp] theorem State.owner_putCluster (s : State) (c : Nat) (x : Cluster) (d : Nat) : (s.putCluster c x).owner d = s.owner d := rfl
@[simp] theorem State.core_modCluster (s : State) (c : Nat) (f : Cluster → Cluster) (d : Nat) : (s.modCluster c f).core d = s.core d := rfl
@[simp] theorem State.die_modCluster (s : State) (c : Nat) (f : Cluster → Cluster) (d : Nat) : (s.modCluster c f).die d = s.die d := rfl
@[simp] theorem State.vf_modCluster (s : State) (c : Nat) (f : Cluster → Cluster) (d : Nat) : (s.modCluster c f).vf d = s.vf d := rfl
@[simp] theorem State.owner_modCluster (s : State) (c : Nat) (f : Cluster → Cluster) (d : Nat) : (s.modCluster c f).owner d = s.owner d := rfl
@[simp] theorem State.core_putDie (s : State) (c : Nat) (x : Die) (d : Nat) : (s.putDie c x).core d = s.core d := rfl
@[simp] theorem State.cluster_putDie (s : State) (c : Nat) (x : Die) (d : Nat) : (s.putDie c x).cluster d = s.cluster d := rfl
@[simp] theorem State.vf_putDie (s : State) (c : Nat) (x : Die) (d : Nat) : (s.putDie c x).vf d = s.vf d := rfl
@[simp] theorem State.owner_putDie (s : State) (c : Nat) (x : Die) (d : Nat) : (s.putDie c x).owner d = s.owner d := rfl
@[simp] theorem State.core_putVf (s : State) (c : Nat) (x : VF) (d : Nat) : (s.putVf c x).core d = s.core d := rfl
@[simp] theorem State.cluster_putVf (s : State) (c : Nat) (x : VF) (d : Nat) : (s.putVf c x).cluster d = s.cluster d := rfl
@[simp] theorem State.die_putVf (s : State) (c : Nat) (x : VF) (d : Nat) : (s.putVf c x).die d = s.die d := rfl
@[simp] theorem State.owner_putVf (s : State) (c : Nat) (x : VF) (d : Nat) : (s.putVf c x).owner d = s.owner d := rfl
@[simp] theorem State.core_modVf (s : State) (c : Nat) (f : VF → VF) (d : Nat) : (s.modVf c f).core d = s.core d := rfl
@[simp] theorem State.cluster_modVf (s : State) (c : Nat) (f : VF → VF) (d : Nat) : (s.modVf c f).cluster d = s.cluster d := rfl
@[simp] theorem State.die_modVf (s : State) (c : Nat) (f : VF → VF) (d : Nat) : (s.modVf c f).die d = s.die d := rfl
@[simp] theorem State.owner_modVf (s : State) (c : Nat) (f : VF → VF) (d : Nat) : (s.modVf c f).owner d = s.owner d := rfl
@[simp] theorem State.core_write (s : State) (a n v : Nat) (d : Nat) : (s.write a n v).core d = s.core d := rfl
@[simp] theorem State.cluster_write (s : State) (a n v : Nat) (d : Nat) : (s.write a n v).cluster d = s.cluster d := rfl
@[simp] theorem State.die_write (s : State) (a n v : Nat) (d : Nat) : (s.write a n v).die d = s.die d := rfl
@[simp] theorem State.vf_write (s : State) (a n v : Nat) (d : Nat) : (s.write a n v).vf d = s.vf d := rfl
@[simp] theorem State.owner_write (s : State) (a n v : Nat) (d : Nat) : (s.write a n v).owner d = s.owner d := rfl
@[simp] theorem State.core_setFull (s : State) (a : Nat) (b : Bool) (d : Nat) : (s.setFull a b).core d = s.core d := rfl
@[simp] theorem State.cluster_setFull (s : State) (a : Nat) (b : Bool) (d : Nat) : (s.setFull a b).cluster d = s.cluster d := rfl
@[simp] theorem State.die_setFull (s : State) (a : Nat) (b : Bool) (d : Nat) : (s.setFull a b).die d = s.die d := rfl
@[simp] theorem State.vf_setFull (s : State) (a : Nat) (b : Bool) (d : Nat) : (s.setFull a b).vf d = s.vf d := rfl
@[simp] theorem State.owner_setFull (s : State) (a : Nat) (b : Bool) (d : Nat) : (s.setFull a b).owner d = s.owner d := rfl
@[simp] theorem State.core_setPoison (s : State) (a : Nat) (b : Bool) (d : Nat) : (s.setPoison a b).core d = s.core d := rfl
@[simp] theorem State.cluster_setPoison (s : State) (a : Nat) (b : Bool) (d : Nat) : (s.setPoison a b).cluster d = s.cluster d := rfl
@[simp] theorem State.die_setPoison (s : State) (a : Nat) (b : Bool) (d : Nat) : (s.setPoison a b).die d = s.die d := rfl
@[simp] theorem State.vf_setPoison (s : State) (a : Nat) (b : Bool) (d : Nat) : (s.setPoison a b).vf d = s.vf d := rfl
@[simp] theorem State.owner_setPoison (s : State) (a : Nat) (b : Bool) (d : Nat) : (s.setPoison a b).owner d = s.owner d := rfl
@[simp] theorem State.core_putEntry (s : State) (a : Nat) (e : Entry) (d : Nat) : (s.putEntry a e).core d = s.core d := rfl
@[simp] theorem State.cluster_putEntry (s : State) (a : Nat) (e : Entry) (d : Nat) : (s.putEntry a e).cluster d = s.cluster d := rfl
@[simp] theorem State.die_putEntry (s : State) (a : Nat) (e : Entry) (d : Nat) : (s.putEntry a e).die d = s.die d := rfl
@[simp] theorem State.vf_putEntry (s : State) (a : Nat) (e : Entry) (d : Nat) : (s.putEntry a e).vf d = s.vf d := rfl
@[simp] theorem State.owner_putEntry (s : State) (a : Nat) (e : Entry) (d : Nat) : (s.putEntry a e).owner d = s.owner d := rfl
@[simp] theorem State.core_clear (s : State) (a n : Nat) (d : Nat) : (s.clear a n).core d = s.core d := rfl
@[simp] theorem State.cluster_clear (s : State) (a n : Nat) (d : Nat) : (s.clear a n).cluster d = s.cluster d := rfl
@[simp] theorem State.die_clear (s : State) (a n : Nat) (d : Nat) : (s.clear a n).die d = s.die d := rfl
@[simp] theorem State.vf_clear (s : State) (a n : Nat) (d : Nat) : (s.clear a n).vf d = s.vf d := rfl
@[simp] theorem State.owner_clear (s : State) (a n : Nat) (d : Nat) : (s.clear a n).owner d = s.owner d := rfl

/-! ## Fields of a thread -/

@[simp] theorem Thread.wg_st (t : Thread) (n : Nat) (v : BitVec 128) : (t.wg n v).st = t.st := rfl
@[simp] theorem Thread.wg_held (t : Thread) (n : Nat) (v : BitVec 128) : (t.wg n v).held = t.held := rfl
@[simp] theorem Thread.wg_pc (t : Thread) (n : Nat) (v : BitVec 128) : (t.wg n v).pc = t.pc := rfl
@[simp] theorem Thread.wg_x (t : Thread) (n : Nat) (v : BitVec 128) : (t.wg n v).x = t.x := rfl
@[simp] theorem Thread.wg_f (t : Thread) (n : Nat) (v : BitVec 128) : (t.wg n v).f = t.f := rfl
@[simp] theorem Thread.wg_streams (t : Thread) (n : Nat) (v : BitVec 128) : (t.wg n v).streams = t.streams := rfl
@[simp] theorem Thread.wg_bs (t : Thread) (n : Nat) (v : BitVec 128) : (t.wg n v).bs = t.bs := rfl
@[simp] theorem Thread.wg_sys (t : Thread) (n : Nat) (v : BitVec 128) : (t.wg n v).sys = t.sys := rfl
@[simp] theorem Thread.wg_tm (t : Thread) (n : Nat) (v : BitVec 128) : (t.wg n v).tm = t.tm := rfl
@[simp] theorem Thread.wg_mig (t : Thread) (n : Nat) (v : BitVec 128) : (t.wg n v).mig = t.mig := rfl
@[simp] theorem Thread.wg_fcsr (t : Thread) (n : Nat) (v : BitVec 128) : (t.wg n v).fcsr = t.fcsr := rfl
@[simp] theorem Thread.wg_ovfc (t : Thread) (n : Nat) (v : BitVec 128) : (t.wg n v).ovfc = t.ovfc := rfl
@[simp] theorem Thread.wg_mxsb (t : Thread) (n : Nat) (v : BitVec 128) : (t.wg n v).mxsb = t.mxsb := rfl
@[simp] theorem Thread.wg_live (t : Thread) (n : Nat) (v : BitVec 128) : (t.wg n v).live = t.live := rfl
@[simp] theorem Thread.wg_cbk (t : Thread) (n : Nat) (v : BitVec 128) : (t.wg n v).cbk = t.cbk := rfl
@[simp] theorem Thread.wg_epc (t : Thread) (n : Nat) (v : BitVec 128) : (t.wg n v).epc = t.epc := rfl
@[simp] theorem Thread.wg_cause (t : Thread) (n : Nat) (v : BitVec 128) : (t.wg n v).cause = t.cause := rfl
@[simp] theorem Thread.wg_tval (t : Thread) (n : Nat) (v : BitVec 128) : (t.wg n v).tval = t.tval := rfl
@[simp] theorem Thread.wg_xw (t : Thread) (n : Nat) (v : BitVec 128) : (t.wg n v).xw = t.xw := rfl
@[simp] theorem Thread.wg_returned (t : Thread) (n : Nat) (v : BitVec 128) : (t.wg n v).returned = t.returned := rfl
@[simp] theorem Thread.wg_tag (t : Thread) (n : Nat) (v : BitVec 128) : (t.wg n v).tag = t.tag := rfl
@[simp] theorem Thread.wg_member (t : Thread) (n : Nat) (v : BitVec 128) : (t.wg n v).member = t.member := rfl
@[simp] theorem Thread.wg_home (t : Thread) (n : Nat) (v : BitVec 128) : (t.wg n v).home = t.home := rfl
@[simp] theorem Thread.wg_homeSlot (t : Thread) (n : Nat) (v : BitVec 128) : (t.wg n v).homeSlot = t.homeSlot := rfl
@[simp] theorem Thread.wg_args (t : Thread) (n : Nat) (v : BitVec 128) : (t.wg n v).args = t.args := rfl
@[simp] theorem Thread.wg_armed (t : Thread) (n : Nat) (v : BitVec 128) : (t.wg n v).armed = t.armed := rfl
@[simp] theorem Thread.wg_busy (t : Thread) (n : Nat) (v : BitVec 128) : (t.wg n v).busy = t.busy := rfl
@[simp] theorem Thread.wg_back (t : Thread) (n : Nat) (v : BitVec 128) : (t.wg n v).back = t.back := rfl
@[simp] theorem Thread.wg_passed (t : Thread) (n : Nat) (v : BitVec 128) : (t.wg n v).passed = t.passed := rfl
@[simp] theorem Thread.wg_pend (t : Thread) (n : Nat) (v : BitVec 128) : (t.wg n v).pend = t.pend := rfl
@[simp] theorem Thread.wg_stop (t : Thread) (n : Nat) (v : BitVec 128) : (t.wg n v).stop = t.stop := rfl
@[simp] theorem Thread.wg_later (t : Thread) (n : Nat) (v : BitVec 128) : (t.wg n v).later = t.later := rfl
@[simp] theorem Thread.wg_yieldUntil (t : Thread) (n : Nat) (v : BitVec 128) : (t.wg n v).yieldUntil = t.yieldUntil := rfl
@[simp] theorem Thread.wg_fetchPark (t : Thread) (n : Nat) (v : BitVec 128) : (t.wg n v).fetchPark = t.fetchPark := rfl
@[simp] theorem Thread.wg_told (t : Thread) (n : Nat) (v : BitVec 128) : (t.wg n v).told = t.told := rfl
@[simp] theorem Thread.wg_frozen (t : Thread) (n : Nat) (v : BitVec 128) : (t.wg n v).frozen = t.frozen := rfl
@[simp] theorem Thread.wg_arrayIds (t : Thread) (n : Nat) (v : BitVec 128) : (t.wg n v).arrayIds = t.arrayIds := rfl

@[simp] theorem Thread.putStream_st (t : Thread) (n : Nat) (x : Stream) : (t.putStream n x).st = t.st := rfl
@[simp] theorem Thread.putStream_held (t : Thread) (n : Nat) (x : Stream) : (t.putStream n x).held = t.held := rfl
@[simp] theorem Thread.putStream_pc (t : Thread) (n : Nat) (x : Stream) : (t.putStream n x).pc = t.pc := rfl
@[simp] theorem Thread.putStream_x (t : Thread) (n : Nat) (x : Stream) : (t.putStream n x).x = t.x := rfl
@[simp] theorem Thread.putStream_f (t : Thread) (n : Nat) (x : Stream) : (t.putStream n x).f = t.f := rfl
@[simp] theorem Thread.putStream_g (t : Thread) (n : Nat) (x : Stream) : (t.putStream n x).g = t.g := rfl
@[simp] theorem Thread.putStream_bs (t : Thread) (n : Nat) (x : Stream) : (t.putStream n x).bs = t.bs := rfl
@[simp] theorem Thread.putStream_sys (t : Thread) (n : Nat) (x : Stream) : (t.putStream n x).sys = t.sys := rfl
@[simp] theorem Thread.putStream_tm (t : Thread) (n : Nat) (x : Stream) : (t.putStream n x).tm = t.tm := rfl
@[simp] theorem Thread.putStream_mig (t : Thread) (n : Nat) (x : Stream) : (t.putStream n x).mig = t.mig := rfl
@[simp] theorem Thread.putStream_fcsr (t : Thread) (n : Nat) (x : Stream) : (t.putStream n x).fcsr = t.fcsr := rfl
@[simp] theorem Thread.putStream_ovfc (t : Thread) (n : Nat) (x : Stream) : (t.putStream n x).ovfc = t.ovfc := rfl
@[simp] theorem Thread.putStream_mxsb (t : Thread) (n : Nat) (x : Stream) : (t.putStream n x).mxsb = t.mxsb := rfl
@[simp] theorem Thread.putStream_live (t : Thread) (n : Nat) (x : Stream) : (t.putStream n x).live = t.live := rfl
@[simp] theorem Thread.putStream_cbk (t : Thread) (n : Nat) (x : Stream) : (t.putStream n x).cbk = t.cbk := rfl
@[simp] theorem Thread.putStream_epc (t : Thread) (n : Nat) (x : Stream) : (t.putStream n x).epc = t.epc := rfl
@[simp] theorem Thread.putStream_cause (t : Thread) (n : Nat) (x : Stream) : (t.putStream n x).cause = t.cause := rfl
@[simp] theorem Thread.putStream_tval (t : Thread) (n : Nat) (x : Stream) : (t.putStream n x).tval = t.tval := rfl
@[simp] theorem Thread.putStream_xw (t : Thread) (n : Nat) (x : Stream) : (t.putStream n x).xw = t.xw := rfl
@[simp] theorem Thread.putStream_returned (t : Thread) (n : Nat) (x : Stream) : (t.putStream n x).returned = t.returned := rfl
@[simp] theorem Thread.putStream_tag (t : Thread) (n : Nat) (x : Stream) : (t.putStream n x).tag = t.tag := rfl
@[simp] theorem Thread.putStream_member (t : Thread) (n : Nat) (x : Stream) : (t.putStream n x).member = t.member := rfl
@[simp] theorem Thread.putStream_home (t : Thread) (n : Nat) (x : Stream) : (t.putStream n x).home = t.home := rfl
@[simp] theorem Thread.putStream_homeSlot (t : Thread) (n : Nat) (x : Stream) : (t.putStream n x).homeSlot = t.homeSlot := rfl
@[simp] theorem Thread.putStream_args (t : Thread) (n : Nat) (x : Stream) : (t.putStream n x).args = t.args := rfl
@[simp] theorem Thread.putStream_armed (t : Thread) (n : Nat) (x : Stream) : (t.putStream n x).armed = t.armed := rfl
@[simp] theorem Thread.putStream_busy (t : Thread) (n : Nat) (x : Stream) : (t.putStream n x).busy = t.busy := rfl
@[simp] theorem Thread.putStream_back (t : Thread) (n : Nat) (x : Stream) : (t.putStream n x).back = t.back := rfl
@[simp] theorem Thread.putStream_passed (t : Thread) (n : Nat) (x : Stream) : (t.putStream n x).passed = t.passed := rfl
@[simp] theorem Thread.putStream_pend (t : Thread) (n : Nat) (x : Stream) : (t.putStream n x).pend = t.pend := rfl
@[simp] theorem Thread.putStream_stop (t : Thread) (n : Nat) (x : Stream) : (t.putStream n x).stop = t.stop := rfl
@[simp] theorem Thread.putStream_later (t : Thread) (n : Nat) (x : Stream) : (t.putStream n x).later = t.later := rfl
@[simp] theorem Thread.putStream_yieldUntil (t : Thread) (n : Nat) (x : Stream) : (t.putStream n x).yieldUntil = t.yieldUntil := rfl
@[simp] theorem Thread.putStream_fetchPark (t : Thread) (n : Nat) (x : Stream) : (t.putStream n x).fetchPark = t.fetchPark := rfl
@[simp] theorem Thread.putStream_told (t : Thread) (n : Nat) (x : Stream) : (t.putStream n x).told = t.told := rfl
@[simp] theorem Thread.putStream_frozen (t : Thread) (n : Nat) (x : Stream) : (t.putStream n x).frozen = t.frozen := rfl
@[simp] theorem Thread.putStream_arrayIds (t : Thread) (n : Nat) (x : Stream) : (t.putStream n x).arrayIds = t.arrayIds := rfl

@[simp] theorem Thread.raise_st (t : Thread) (l : BitVec 5) : (t.raise l).st = t.st := rfl
@[simp] theorem Thread.raise_held (t : Thread) (l : BitVec 5) : (t.raise l).held = t.held := rfl
@[simp] theorem Thread.raise_pc (t : Thread) (l : BitVec 5) : (t.raise l).pc = t.pc := rfl
@[simp] theorem Thread.raise_x (t : Thread) (l : BitVec 5) : (t.raise l).x = t.x := rfl
@[simp] theorem Thread.raise_f (t : Thread) (l : BitVec 5) : (t.raise l).f = t.f := rfl
@[simp] theorem Thread.raise_g (t : Thread) (l : BitVec 5) : (t.raise l).g = t.g := rfl
@[simp] theorem Thread.raise_streams (t : Thread) (l : BitVec 5) : (t.raise l).streams = t.streams := rfl
@[simp] theorem Thread.raise_bs (t : Thread) (l : BitVec 5) : (t.raise l).bs = t.bs := rfl
@[simp] theorem Thread.raise_sys (t : Thread) (l : BitVec 5) : (t.raise l).sys = t.sys := rfl
@[simp] theorem Thread.raise_tm (t : Thread) (l : BitVec 5) : (t.raise l).tm = t.tm := rfl
@[simp] theorem Thread.raise_mig (t : Thread) (l : BitVec 5) : (t.raise l).mig = t.mig := rfl
@[simp] theorem Thread.raise_ovfc (t : Thread) (l : BitVec 5) : (t.raise l).ovfc = t.ovfc := rfl
@[simp] theorem Thread.raise_mxsb (t : Thread) (l : BitVec 5) : (t.raise l).mxsb = t.mxsb := rfl
@[simp] theorem Thread.raise_live (t : Thread) (l : BitVec 5) : (t.raise l).live = t.live := rfl
@[simp] theorem Thread.raise_cbk (t : Thread) (l : BitVec 5) : (t.raise l).cbk = t.cbk := rfl
@[simp] theorem Thread.raise_epc (t : Thread) (l : BitVec 5) : (t.raise l).epc = t.epc := rfl
@[simp] theorem Thread.raise_cause (t : Thread) (l : BitVec 5) : (t.raise l).cause = t.cause := rfl
@[simp] theorem Thread.raise_tval (t : Thread) (l : BitVec 5) : (t.raise l).tval = t.tval := rfl
@[simp] theorem Thread.raise_xw (t : Thread) (l : BitVec 5) : (t.raise l).xw = t.xw := rfl
@[simp] theorem Thread.raise_returned (t : Thread) (l : BitVec 5) : (t.raise l).returned = t.returned := rfl
@[simp] theorem Thread.raise_tag (t : Thread) (l : BitVec 5) : (t.raise l).tag = t.tag := rfl
@[simp] theorem Thread.raise_member (t : Thread) (l : BitVec 5) : (t.raise l).member = t.member := rfl
@[simp] theorem Thread.raise_home (t : Thread) (l : BitVec 5) : (t.raise l).home = t.home := rfl
@[simp] theorem Thread.raise_homeSlot (t : Thread) (l : BitVec 5) : (t.raise l).homeSlot = t.homeSlot := rfl
@[simp] theorem Thread.raise_args (t : Thread) (l : BitVec 5) : (t.raise l).args = t.args := rfl
@[simp] theorem Thread.raise_armed (t : Thread) (l : BitVec 5) : (t.raise l).armed = t.armed := rfl
@[simp] theorem Thread.raise_busy (t : Thread) (l : BitVec 5) : (t.raise l).busy = t.busy := rfl
@[simp] theorem Thread.raise_back (t : Thread) (l : BitVec 5) : (t.raise l).back = t.back := rfl
@[simp] theorem Thread.raise_passed (t : Thread) (l : BitVec 5) : (t.raise l).passed = t.passed := rfl
@[simp] theorem Thread.raise_pend (t : Thread) (l : BitVec 5) : (t.raise l).pend = t.pend := rfl
@[simp] theorem Thread.raise_stop (t : Thread) (l : BitVec 5) : (t.raise l).stop = t.stop := rfl
@[simp] theorem Thread.raise_later (t : Thread) (l : BitVec 5) : (t.raise l).later = t.later := rfl
@[simp] theorem Thread.raise_yieldUntil (t : Thread) (l : BitVec 5) : (t.raise l).yieldUntil = t.yieldUntil := rfl
@[simp] theorem Thread.raise_fetchPark (t : Thread) (l : BitVec 5) : (t.raise l).fetchPark = t.fetchPark := rfl
@[simp] theorem Thread.raise_told (t : Thread) (l : BitVec 5) : (t.raise l).told = t.told := rfl
@[simp] theorem Thread.raise_frozen (t : Thread) (l : BitVec 5) : (t.raise l).frozen = t.frozen := rfl
@[simp] theorem Thread.raise_arrayIds (t : Thread) (l : BitVec 5) : (t.raise l).arrayIds = t.arrayIds := rfl

@[simp] theorem Thread.modPend_st (t : Thread) (n : Nat) (h : Pending → Pending) : (t.modPend n h).st = t.st := rfl
@[simp] theorem Thread.modPend_held (t : Thread) (n : Nat) (h : Pending → Pending) : (t.modPend n h).held = t.held := rfl
@[simp] theorem Thread.modPend_pc (t : Thread) (n : Nat) (h : Pending → Pending) : (t.modPend n h).pc = t.pc := rfl
@[simp] theorem Thread.modPend_x (t : Thread) (n : Nat) (h : Pending → Pending) : (t.modPend n h).x = t.x := rfl
@[simp] theorem Thread.modPend_f (t : Thread) (n : Nat) (h : Pending → Pending) : (t.modPend n h).f = t.f := rfl
@[simp] theorem Thread.modPend_g (t : Thread) (n : Nat) (h : Pending → Pending) : (t.modPend n h).g = t.g := rfl
@[simp] theorem Thread.modPend_streams (t : Thread) (n : Nat) (h : Pending → Pending) : (t.modPend n h).streams = t.streams := rfl
@[simp] theorem Thread.modPend_bs (t : Thread) (n : Nat) (h : Pending → Pending) : (t.modPend n h).bs = t.bs := rfl
@[simp] theorem Thread.modPend_sys (t : Thread) (n : Nat) (h : Pending → Pending) : (t.modPend n h).sys = t.sys := rfl
@[simp] theorem Thread.modPend_tm (t : Thread) (n : Nat) (h : Pending → Pending) : (t.modPend n h).tm = t.tm := rfl
@[simp] theorem Thread.modPend_mig (t : Thread) (n : Nat) (h : Pending → Pending) : (t.modPend n h).mig = t.mig := rfl
@[simp] theorem Thread.modPend_fcsr (t : Thread) (n : Nat) (h : Pending → Pending) : (t.modPend n h).fcsr = t.fcsr := rfl
@[simp] theorem Thread.modPend_ovfc (t : Thread) (n : Nat) (h : Pending → Pending) : (t.modPend n h).ovfc = t.ovfc := rfl
@[simp] theorem Thread.modPend_mxsb (t : Thread) (n : Nat) (h : Pending → Pending) : (t.modPend n h).mxsb = t.mxsb := rfl
@[simp] theorem Thread.modPend_live (t : Thread) (n : Nat) (h : Pending → Pending) : (t.modPend n h).live = t.live := rfl
@[simp] theorem Thread.modPend_cbk (t : Thread) (n : Nat) (h : Pending → Pending) : (t.modPend n h).cbk = t.cbk := rfl
@[simp] theorem Thread.modPend_epc (t : Thread) (n : Nat) (h : Pending → Pending) : (t.modPend n h).epc = t.epc := rfl
@[simp] theorem Thread.modPend_cause (t : Thread) (n : Nat) (h : Pending → Pending) : (t.modPend n h).cause = t.cause := rfl
@[simp] theorem Thread.modPend_tval (t : Thread) (n : Nat) (h : Pending → Pending) : (t.modPend n h).tval = t.tval := rfl
@[simp] theorem Thread.modPend_xw (t : Thread) (n : Nat) (h : Pending → Pending) : (t.modPend n h).xw = t.xw := rfl
@[simp] theorem Thread.modPend_returned (t : Thread) (n : Nat) (h : Pending → Pending) : (t.modPend n h).returned = t.returned := rfl
@[simp] theorem Thread.modPend_tag (t : Thread) (n : Nat) (h : Pending → Pending) : (t.modPend n h).tag = t.tag := rfl
@[simp] theorem Thread.modPend_member (t : Thread) (n : Nat) (h : Pending → Pending) : (t.modPend n h).member = t.member := rfl
@[simp] theorem Thread.modPend_home (t : Thread) (n : Nat) (h : Pending → Pending) : (t.modPend n h).home = t.home := rfl
@[simp] theorem Thread.modPend_homeSlot (t : Thread) (n : Nat) (h : Pending → Pending) : (t.modPend n h).homeSlot = t.homeSlot := rfl
@[simp] theorem Thread.modPend_args (t : Thread) (n : Nat) (h : Pending → Pending) : (t.modPend n h).args = t.args := rfl
@[simp] theorem Thread.modPend_armed (t : Thread) (n : Nat) (h : Pending → Pending) : (t.modPend n h).armed = t.armed := rfl
@[simp] theorem Thread.modPend_busy (t : Thread) (n : Nat) (h : Pending → Pending) : (t.modPend n h).busy = t.busy := rfl
@[simp] theorem Thread.modPend_back (t : Thread) (n : Nat) (h : Pending → Pending) : (t.modPend n h).back = t.back := rfl
@[simp] theorem Thread.modPend_passed (t : Thread) (n : Nat) (h : Pending → Pending) : (t.modPend n h).passed = t.passed := rfl
@[simp] theorem Thread.modPend_stop (t : Thread) (n : Nat) (h : Pending → Pending) : (t.modPend n h).stop = t.stop := rfl
@[simp] theorem Thread.modPend_later (t : Thread) (n : Nat) (h : Pending → Pending) : (t.modPend n h).later = t.later := rfl
@[simp] theorem Thread.modPend_yieldUntil (t : Thread) (n : Nat) (h : Pending → Pending) : (t.modPend n h).yieldUntil = t.yieldUntil := rfl
@[simp] theorem Thread.modPend_fetchPark (t : Thread) (n : Nat) (h : Pending → Pending) : (t.modPend n h).fetchPark = t.fetchPark := rfl
@[simp] theorem Thread.modPend_told (t : Thread) (n : Nat) (h : Pending → Pending) : (t.modPend n h).told = t.told := rfl
@[simp] theorem Thread.modPend_frozen (t : Thread) (n : Nat) (h : Pending → Pending) : (t.modPend n h).frozen = t.frozen := rfl
@[simp] theorem Thread.modPend_arrayIds (t : Thread) (n : Nat) (h : Pending → Pending) : (t.modPend n h).arrayIds = t.arrayIds := rfl

@[simp] theorem Thread.dropPend_st (t : Thread) (n : Nat) : (t.dropPend n).st = t.st := rfl
@[simp] theorem Thread.dropPend_held (t : Thread) (n : Nat) : (t.dropPend n).held = t.held := rfl
@[simp] theorem Thread.dropPend_pc (t : Thread) (n : Nat) : (t.dropPend n).pc = t.pc := rfl
@[simp] theorem Thread.dropPend_x (t : Thread) (n : Nat) : (t.dropPend n).x = t.x := rfl
@[simp] theorem Thread.dropPend_f (t : Thread) (n : Nat) : (t.dropPend n).f = t.f := rfl
@[simp] theorem Thread.dropPend_g (t : Thread) (n : Nat) : (t.dropPend n).g = t.g := rfl
@[simp] theorem Thread.dropPend_streams (t : Thread) (n : Nat) : (t.dropPend n).streams = t.streams := rfl
@[simp] theorem Thread.dropPend_bs (t : Thread) (n : Nat) : (t.dropPend n).bs = t.bs := rfl
@[simp] theorem Thread.dropPend_sys (t : Thread) (n : Nat) : (t.dropPend n).sys = t.sys := rfl
@[simp] theorem Thread.dropPend_tm (t : Thread) (n : Nat) : (t.dropPend n).tm = t.tm := rfl
@[simp] theorem Thread.dropPend_mig (t : Thread) (n : Nat) : (t.dropPend n).mig = t.mig := rfl
@[simp] theorem Thread.dropPend_fcsr (t : Thread) (n : Nat) : (t.dropPend n).fcsr = t.fcsr := rfl
@[simp] theorem Thread.dropPend_ovfc (t : Thread) (n : Nat) : (t.dropPend n).ovfc = t.ovfc := rfl
@[simp] theorem Thread.dropPend_mxsb (t : Thread) (n : Nat) : (t.dropPend n).mxsb = t.mxsb := rfl
@[simp] theorem Thread.dropPend_live (t : Thread) (n : Nat) : (t.dropPend n).live = t.live := rfl
@[simp] theorem Thread.dropPend_cbk (t : Thread) (n : Nat) : (t.dropPend n).cbk = t.cbk := rfl
@[simp] theorem Thread.dropPend_epc (t : Thread) (n : Nat) : (t.dropPend n).epc = t.epc := rfl
@[simp] theorem Thread.dropPend_cause (t : Thread) (n : Nat) : (t.dropPend n).cause = t.cause := rfl
@[simp] theorem Thread.dropPend_tval (t : Thread) (n : Nat) : (t.dropPend n).tval = t.tval := rfl
@[simp] theorem Thread.dropPend_xw (t : Thread) (n : Nat) : (t.dropPend n).xw = t.xw := rfl
@[simp] theorem Thread.dropPend_returned (t : Thread) (n : Nat) : (t.dropPend n).returned = t.returned := rfl
@[simp] theorem Thread.dropPend_tag (t : Thread) (n : Nat) : (t.dropPend n).tag = t.tag := rfl
@[simp] theorem Thread.dropPend_member (t : Thread) (n : Nat) : (t.dropPend n).member = t.member := rfl
@[simp] theorem Thread.dropPend_home (t : Thread) (n : Nat) : (t.dropPend n).home = t.home := rfl
@[simp] theorem Thread.dropPend_homeSlot (t : Thread) (n : Nat) : (t.dropPend n).homeSlot = t.homeSlot := rfl
@[simp] theorem Thread.dropPend_args (t : Thread) (n : Nat) : (t.dropPend n).args = t.args := rfl
@[simp] theorem Thread.dropPend_armed (t : Thread) (n : Nat) : (t.dropPend n).armed = t.armed := rfl
@[simp] theorem Thread.dropPend_busy (t : Thread) (n : Nat) : (t.dropPend n).busy = t.busy := rfl
@[simp] theorem Thread.dropPend_back (t : Thread) (n : Nat) : (t.dropPend n).back = t.back := rfl
@[simp] theorem Thread.dropPend_passed (t : Thread) (n : Nat) : (t.dropPend n).passed = t.passed := rfl
@[simp] theorem Thread.dropPend_stop (t : Thread) (n : Nat) : (t.dropPend n).stop = t.stop := rfl
@[simp] theorem Thread.dropPend_later (t : Thread) (n : Nat) : (t.dropPend n).later = t.later := rfl
@[simp] theorem Thread.dropPend_yieldUntil (t : Thread) (n : Nat) : (t.dropPend n).yieldUntil = t.yieldUntil := rfl
@[simp] theorem Thread.dropPend_fetchPark (t : Thread) (n : Nat) : (t.dropPend n).fetchPark = t.fetchPark := rfl
@[simp] theorem Thread.dropPend_told (t : Thread) (n : Nat) : (t.dropPend n).told = t.told := rfl
@[simp] theorem Thread.dropPend_frozen (t : Thread) (n : Nat) : (t.dropPend n).frozen = t.frozen := rfl
@[simp] theorem Thread.dropPend_arrayIds (t : Thread) (n : Nat) : (t.dropPend n).arrayIds = t.arrayIds := rfl

@[simp] theorem Thread.issued_st (t : Thread) (a b n : Nat) (j : Bool) (v : Word) : (t.issued a b n j v).st = t.st := rfl
@[simp] theorem Thread.issued_held (t : Thread) (a b n : Nat) (j : Bool) (v : Word) : (t.issued a b n j v).held = t.held := rfl
@[simp] theorem Thread.issued_x (t : Thread) (a b n : Nat) (j : Bool) (v : Word) : (t.issued a b n j v).x = t.x := rfl
@[simp] theorem Thread.issued_f (t : Thread) (a b n : Nat) (j : Bool) (v : Word) : (t.issued a b n j v).f = t.f := rfl
@[simp] theorem Thread.issued_g (t : Thread) (a b n : Nat) (j : Bool) (v : Word) : (t.issued a b n j v).g = t.g := rfl
@[simp] theorem Thread.issued_streams (t : Thread) (a b n : Nat) (j : Bool) (v : Word) : (t.issued a b n j v).streams = t.streams := rfl
@[simp] theorem Thread.issued_bs (t : Thread) (a b n : Nat) (j : Bool) (v : Word) : (t.issued a b n j v).bs = t.bs := rfl
@[simp] theorem Thread.issued_sys (t : Thread) (a b n : Nat) (j : Bool) (v : Word) : (t.issued a b n j v).sys = t.sys := rfl
@[simp] theorem Thread.issued_tm (t : Thread) (a b n : Nat) (j : Bool) (v : Word) : (t.issued a b n j v).tm = t.tm := rfl
@[simp] theorem Thread.issued_mig (t : Thread) (a b n : Nat) (j : Bool) (v : Word) : (t.issued a b n j v).mig = t.mig := rfl
@[simp] theorem Thread.issued_fcsr (t : Thread) (a b n : Nat) (j : Bool) (v : Word) : (t.issued a b n j v).fcsr = t.fcsr := rfl
@[simp] theorem Thread.issued_ovfc (t : Thread) (a b n : Nat) (j : Bool) (v : Word) : (t.issued a b n j v).ovfc = t.ovfc := rfl
@[simp] theorem Thread.issued_mxsb (t : Thread) (a b n : Nat) (j : Bool) (v : Word) : (t.issued a b n j v).mxsb = t.mxsb := rfl
@[simp] theorem Thread.issued_live (t : Thread) (a b n : Nat) (j : Bool) (v : Word) : (t.issued a b n j v).live = t.live := rfl
@[simp] theorem Thread.issued_cbk (t : Thread) (a b n : Nat) (j : Bool) (v : Word) : (t.issued a b n j v).cbk = t.cbk := rfl
@[simp] theorem Thread.issued_epc (t : Thread) (a b n : Nat) (j : Bool) (v : Word) : (t.issued a b n j v).epc = t.epc := rfl
@[simp] theorem Thread.issued_cause (t : Thread) (a b n : Nat) (j : Bool) (v : Word) : (t.issued a b n j v).cause = t.cause := rfl
@[simp] theorem Thread.issued_tval (t : Thread) (a b n : Nat) (j : Bool) (v : Word) : (t.issued a b n j v).tval = t.tval := rfl
@[simp] theorem Thread.issued_returned (t : Thread) (a b n : Nat) (j : Bool) (v : Word) : (t.issued a b n j v).returned = t.returned := rfl
@[simp] theorem Thread.issued_tag (t : Thread) (a b n : Nat) (j : Bool) (v : Word) : (t.issued a b n j v).tag = t.tag := rfl
@[simp] theorem Thread.issued_member (t : Thread) (a b n : Nat) (j : Bool) (v : Word) : (t.issued a b n j v).member = t.member := rfl
@[simp] theorem Thread.issued_home (t : Thread) (a b n : Nat) (j : Bool) (v : Word) : (t.issued a b n j v).home = t.home := rfl
@[simp] theorem Thread.issued_homeSlot (t : Thread) (a b n : Nat) (j : Bool) (v : Word) : (t.issued a b n j v).homeSlot = t.homeSlot := rfl
@[simp] theorem Thread.issued_args (t : Thread) (a b n : Nat) (j : Bool) (v : Word) : (t.issued a b n j v).args = t.args := rfl
@[simp] theorem Thread.issued_armed (t : Thread) (a b n : Nat) (j : Bool) (v : Word) : (t.issued a b n j v).armed = t.armed := rfl
@[simp] theorem Thread.issued_back (t : Thread) (a b n : Nat) (j : Bool) (v : Word) : (t.issued a b n j v).back = t.back := rfl
@[simp] theorem Thread.issued_passed (t : Thread) (a b n : Nat) (j : Bool) (v : Word) : (t.issued a b n j v).passed = none := rfl
@[simp] theorem Thread.issued_stop (t : Thread) (a b n : Nat) (j : Bool) (v : Word) : (t.issued a b n j v).stop = t.stop := rfl
@[simp] theorem Thread.issued_later (t : Thread) (a b n : Nat) (j : Bool) (v : Word) : (t.issued a b n j v).later = t.later := rfl
@[simp] theorem Thread.issued_yieldUntil (t : Thread) (a b n : Nat) (j : Bool) (v : Word) : (t.issued a b n j v).yieldUntil = t.yieldUntil := rfl
@[simp] theorem Thread.issued_fetchPark (t : Thread) (a b n : Nat) (j : Bool) (v : Word) : (t.issued a b n j v).fetchPark = t.fetchPark := rfl
@[simp] theorem Thread.issued_told (t : Thread) (a b n : Nat) (j : Bool) (v : Word) : (t.issued a b n j v).told = t.told := rfl
@[simp] theorem Thread.issued_frozen (t : Thread) (a b n : Nat) (j : Bool) (v : Word) : (t.issued a b n j v).frozen = t.frozen := rfl
@[simp] theorem Thread.issued_arrayIds (t : Thread) (a b n : Nat) (j : Bool) (v : Word) : (t.issued a b n j v).arrayIds = t.arrayIds := rfl

@[simp] theorem Thread.wx_st (t : Thread) (r : Reg) (v : Word) : (t.wx r v).st = t.st := by
  unfold Thread.wx; first | rfl | (split <;> rfl)
@[simp] theorem Thread.wx_held (t : Thread) (r : Reg) (v : Word) : (t.wx r v).held = t.held := by
  unfold Thread.wx; first | rfl | (split <;> rfl)
@[simp] theorem Thread.wx_pc (t : Thread) (r : Reg) (v : Word) : (t.wx r v).pc = t.pc := by
  unfold Thread.wx; first | rfl | (split <;> rfl)
@[simp] theorem Thread.wx_f (t : Thread) (r : Reg) (v : Word) : (t.wx r v).f = t.f := by
  unfold Thread.wx; first | rfl | (split <;> rfl)
@[simp] theorem Thread.wx_g (t : Thread) (r : Reg) (v : Word) : (t.wx r v).g = t.g := by
  unfold Thread.wx; first | rfl | (split <;> rfl)
@[simp] theorem Thread.wx_streams (t : Thread) (r : Reg) (v : Word) : (t.wx r v).streams = t.streams := by
  unfold Thread.wx; first | rfl | (split <;> rfl)
@[simp] theorem Thread.wx_bs (t : Thread) (r : Reg) (v : Word) : (t.wx r v).bs = t.bs := by
  unfold Thread.wx; first | rfl | (split <;> rfl)
@[simp] theorem Thread.wx_sys (t : Thread) (r : Reg) (v : Word) : (t.wx r v).sys = t.sys := by
  unfold Thread.wx; first | rfl | (split <;> rfl)
@[simp] theorem Thread.wx_tm (t : Thread) (r : Reg) (v : Word) : (t.wx r v).tm = t.tm := by
  unfold Thread.wx; first | rfl | (split <;> rfl)
@[simp] theorem Thread.wx_mig (t : Thread) (r : Reg) (v : Word) : (t.wx r v).mig = t.mig := by
  unfold Thread.wx; first | rfl | (split <;> rfl)
@[simp] theorem Thread.wx_fcsr (t : Thread) (r : Reg) (v : Word) : (t.wx r v).fcsr = t.fcsr := by
  unfold Thread.wx; first | rfl | (split <;> rfl)
@[simp] theorem Thread.wx_ovfc (t : Thread) (r : Reg) (v : Word) : (t.wx r v).ovfc = t.ovfc := by
  unfold Thread.wx; first | rfl | (split <;> rfl)
@[simp] theorem Thread.wx_mxsb (t : Thread) (r : Reg) (v : Word) : (t.wx r v).mxsb = t.mxsb := by
  unfold Thread.wx; first | rfl | (split <;> rfl)
@[simp] theorem Thread.wx_live (t : Thread) (r : Reg) (v : Word) : (t.wx r v).live = t.live := by
  unfold Thread.wx; first | rfl | (split <;> rfl)
@[simp] theorem Thread.wx_cbk (t : Thread) (r : Reg) (v : Word) : (t.wx r v).cbk = t.cbk := by
  unfold Thread.wx; first | rfl | (split <;> rfl)
@[simp] theorem Thread.wx_epc (t : Thread) (r : Reg) (v : Word) : (t.wx r v).epc = t.epc := by
  unfold Thread.wx; first | rfl | (split <;> rfl)
@[simp] theorem Thread.wx_cause (t : Thread) (r : Reg) (v : Word) : (t.wx r v).cause = t.cause := by
  unfold Thread.wx; first | rfl | (split <;> rfl)
@[simp] theorem Thread.wx_tval (t : Thread) (r : Reg) (v : Word) : (t.wx r v).tval = t.tval := by
  unfold Thread.wx; first | rfl | (split <;> rfl)
@[simp] theorem Thread.wx_xw (t : Thread) (r : Reg) (v : Word) : (t.wx r v).xw = t.xw := by
  unfold Thread.wx; first | rfl | (split <;> rfl)
@[simp] theorem Thread.wx_returned (t : Thread) (r : Reg) (v : Word) : (t.wx r v).returned = t.returned := by
  unfold Thread.wx; first | rfl | (split <;> rfl)
@[simp] theorem Thread.wx_tag (t : Thread) (r : Reg) (v : Word) : (t.wx r v).tag = t.tag := by
  unfold Thread.wx; first | rfl | (split <;> rfl)
@[simp] theorem Thread.wx_member (t : Thread) (r : Reg) (v : Word) : (t.wx r v).member = t.member := by
  unfold Thread.wx; first | rfl | (split <;> rfl)
@[simp] theorem Thread.wx_home (t : Thread) (r : Reg) (v : Word) : (t.wx r v).home = t.home := by
  unfold Thread.wx; first | rfl | (split <;> rfl)
@[simp] theorem Thread.wx_homeSlot (t : Thread) (r : Reg) (v : Word) : (t.wx r v).homeSlot = t.homeSlot := by
  unfold Thread.wx; first | rfl | (split <;> rfl)
@[simp] theorem Thread.wx_args (t : Thread) (r : Reg) (v : Word) : (t.wx r v).args = t.args := by
  unfold Thread.wx; first | rfl | (split <;> rfl)
@[simp] theorem Thread.wx_armed (t : Thread) (r : Reg) (v : Word) : (t.wx r v).armed = t.armed := by
  unfold Thread.wx; first | rfl | (split <;> rfl)
@[simp] theorem Thread.wx_busy (t : Thread) (r : Reg) (v : Word) : (t.wx r v).busy = t.busy := by
  unfold Thread.wx; first | rfl | (split <;> rfl)
@[simp] theorem Thread.wx_back (t : Thread) (r : Reg) (v : Word) : (t.wx r v).back = t.back := by
  unfold Thread.wx; first | rfl | (split <;> rfl)
@[simp] theorem Thread.wx_passed (t : Thread) (r : Reg) (v : Word) : (t.wx r v).passed = t.passed := by
  unfold Thread.wx; first | rfl | (split <;> rfl)
@[simp] theorem Thread.wx_pend (t : Thread) (r : Reg) (v : Word) : (t.wx r v).pend = t.pend := by
  unfold Thread.wx; first | rfl | (split <;> rfl)
@[simp] theorem Thread.wx_stop (t : Thread) (r : Reg) (v : Word) : (t.wx r v).stop = t.stop := by
  unfold Thread.wx; first | rfl | (split <;> rfl)
@[simp] theorem Thread.wx_later (t : Thread) (r : Reg) (v : Word) : (t.wx r v).later = t.later := by
  unfold Thread.wx; first | rfl | (split <;> rfl)
@[simp] theorem Thread.wx_yieldUntil (t : Thread) (r : Reg) (v : Word) : (t.wx r v).yieldUntil = t.yieldUntil := by
  unfold Thread.wx; first | rfl | (split <;> rfl)
@[simp] theorem Thread.wx_fetchPark (t : Thread) (r : Reg) (v : Word) : (t.wx r v).fetchPark = t.fetchPark := by
  unfold Thread.wx; first | rfl | (split <;> rfl)
@[simp] theorem Thread.wx_frozen (t : Thread) (r : Reg) (v : Word) : (t.wx r v).frozen = t.frozen := by
  unfold Thread.wx; first | rfl | (split <;> rfl)
@[simp] theorem Thread.wx_arrayIds (t : Thread) (r : Reg) (v : Word) : (t.wx r v).arrayIds = t.arrayIds := by
  unfold Thread.wx; first | rfl | (split <;> rfl)
@[simp] theorem Thread.wx_told (t : Thread) (r : Reg) (v : Word) : (t.wx r v).told = t.told := by
  unfold Thread.wx; first | rfl | (split <;> rfl)

@[simp] theorem Thread.addOvf_st (t : Thread) (n : Nat) : (t.addOvf n).st = t.st := by
  unfold Thread.addOvf; first | rfl | (split <;> rfl)
@[simp] theorem Thread.addOvf_held (t : Thread) (n : Nat) : (t.addOvf n).held = t.held := by
  unfold Thread.addOvf; first | rfl | (split <;> rfl)
@[simp] theorem Thread.addOvf_pc (t : Thread) (n : Nat) : (t.addOvf n).pc = t.pc := by
  unfold Thread.addOvf; first | rfl | (split <;> rfl)
@[simp] theorem Thread.addOvf_x (t : Thread) (n : Nat) : (t.addOvf n).x = t.x := by
  unfold Thread.addOvf; first | rfl | (split <;> rfl)
@[simp] theorem Thread.addOvf_f (t : Thread) (n : Nat) : (t.addOvf n).f = t.f := by
  unfold Thread.addOvf; first | rfl | (split <;> rfl)
@[simp] theorem Thread.addOvf_g (t : Thread) (n : Nat) : (t.addOvf n).g = t.g := by
  unfold Thread.addOvf; first | rfl | (split <;> rfl)
@[simp] theorem Thread.addOvf_streams (t : Thread) (n : Nat) : (t.addOvf n).streams = t.streams := by
  unfold Thread.addOvf; first | rfl | (split <;> rfl)
@[simp] theorem Thread.addOvf_bs (t : Thread) (n : Nat) : (t.addOvf n).bs = t.bs := by
  unfold Thread.addOvf; first | rfl | (split <;> rfl)
@[simp] theorem Thread.addOvf_sys (t : Thread) (n : Nat) : (t.addOvf n).sys = t.sys := by
  unfold Thread.addOvf; first | rfl | (split <;> rfl)
@[simp] theorem Thread.addOvf_tm (t : Thread) (n : Nat) : (t.addOvf n).tm = t.tm := by
  unfold Thread.addOvf; first | rfl | (split <;> rfl)
@[simp] theorem Thread.addOvf_mig (t : Thread) (n : Nat) : (t.addOvf n).mig = t.mig := by
  unfold Thread.addOvf; first | rfl | (split <;> rfl)
@[simp] theorem Thread.addOvf_fcsr (t : Thread) (n : Nat) : (t.addOvf n).fcsr = t.fcsr := by
  unfold Thread.addOvf; first | rfl | (split <;> rfl)
@[simp] theorem Thread.addOvf_mxsb (t : Thread) (n : Nat) : (t.addOvf n).mxsb = t.mxsb := by
  unfold Thread.addOvf; first | rfl | (split <;> rfl)
@[simp] theorem Thread.addOvf_live (t : Thread) (n : Nat) : (t.addOvf n).live = t.live := by
  unfold Thread.addOvf; first | rfl | (split <;> rfl)
@[simp] theorem Thread.addOvf_cbk (t : Thread) (n : Nat) : (t.addOvf n).cbk = t.cbk := by
  unfold Thread.addOvf; first | rfl | (split <;> rfl)
@[simp] theorem Thread.addOvf_epc (t : Thread) (n : Nat) : (t.addOvf n).epc = t.epc := by
  unfold Thread.addOvf; first | rfl | (split <;> rfl)
@[simp] theorem Thread.addOvf_cause (t : Thread) (n : Nat) : (t.addOvf n).cause = t.cause := by
  unfold Thread.addOvf; first | rfl | (split <;> rfl)
@[simp] theorem Thread.addOvf_tval (t : Thread) (n : Nat) : (t.addOvf n).tval = t.tval := by
  unfold Thread.addOvf; first | rfl | (split <;> rfl)
@[simp] theorem Thread.addOvf_xw (t : Thread) (n : Nat) : (t.addOvf n).xw = t.xw := by
  unfold Thread.addOvf; first | rfl | (split <;> rfl)
@[simp] theorem Thread.addOvf_returned (t : Thread) (n : Nat) : (t.addOvf n).returned = t.returned := by
  unfold Thread.addOvf; first | rfl | (split <;> rfl)
@[simp] theorem Thread.addOvf_tag (t : Thread) (n : Nat) : (t.addOvf n).tag = t.tag := by
  unfold Thread.addOvf; first | rfl | (split <;> rfl)
@[simp] theorem Thread.addOvf_member (t : Thread) (n : Nat) : (t.addOvf n).member = t.member := by
  unfold Thread.addOvf; first | rfl | (split <;> rfl)
@[simp] theorem Thread.addOvf_home (t : Thread) (n : Nat) : (t.addOvf n).home = t.home := by
  unfold Thread.addOvf; first | rfl | (split <;> rfl)
@[simp] theorem Thread.addOvf_homeSlot (t : Thread) (n : Nat) : (t.addOvf n).homeSlot = t.homeSlot := by
  unfold Thread.addOvf; first | rfl | (split <;> rfl)
@[simp] theorem Thread.addOvf_args (t : Thread) (n : Nat) : (t.addOvf n).args = t.args := by
  unfold Thread.addOvf; first | rfl | (split <;> rfl)
@[simp] theorem Thread.addOvf_armed (t : Thread) (n : Nat) : (t.addOvf n).armed = t.armed := by
  unfold Thread.addOvf; first | rfl | (split <;> rfl)
@[simp] theorem Thread.addOvf_busy (t : Thread) (n : Nat) : (t.addOvf n).busy = t.busy := by
  unfold Thread.addOvf; first | rfl | (split <;> rfl)
@[simp] theorem Thread.addOvf_back (t : Thread) (n : Nat) : (t.addOvf n).back = t.back := by
  unfold Thread.addOvf; first | rfl | (split <;> rfl)
@[simp] theorem Thread.addOvf_passed (t : Thread) (n : Nat) : (t.addOvf n).passed = t.passed := by
  unfold Thread.addOvf; first | rfl | (split <;> rfl)
@[simp] theorem Thread.addOvf_pend (t : Thread) (n : Nat) : (t.addOvf n).pend = t.pend := by
  unfold Thread.addOvf; first | rfl | (split <;> rfl)
@[simp] theorem Thread.addOvf_stop (t : Thread) (n : Nat) : (t.addOvf n).stop = t.stop := by
  unfold Thread.addOvf; first | rfl | (split <;> rfl)
@[simp] theorem Thread.addOvf_later (t : Thread) (n : Nat) : (t.addOvf n).later = t.later := by
  unfold Thread.addOvf; first | rfl | (split <;> rfl)
@[simp] theorem Thread.addOvf_yieldUntil (t : Thread) (n : Nat) : (t.addOvf n).yieldUntil = t.yieldUntil := by
  unfold Thread.addOvf; first | rfl | (split <;> rfl)
@[simp] theorem Thread.addOvf_fetchPark (t : Thread) (n : Nat) : (t.addOvf n).fetchPark = t.fetchPark := by
  unfold Thread.addOvf; first | rfl | (split <;> rfl)
@[simp] theorem Thread.addOvf_frozen (t : Thread) (n : Nat) : (t.addOvf n).frozen = t.frozen := by
  unfold Thread.addOvf; first | rfl | (split <;> rfl)
@[simp] theorem Thread.addOvf_arrayIds (t : Thread) (n : Nat) : (t.addOvf n).arrayIds = t.arrayIds := by
  unfold Thread.addOvf; first | rfl | (split <;> rfl)
@[simp] theorem Thread.addOvf_told (t : Thread) (n : Nat) : (t.addOvf n).told = t.told := by
  unfold Thread.addOvf; first | rfl | (split <;> rfl)

/-- x0 is never written, and reading a register gives what was last written to it (R62, R63). -/
@[simp] theorem Thread.rx_wx (t : Thread) (r q : Reg) (v : Word) : (t.wx r v).rx q = if q = r ∧ r ≠ 0 then v else t.rx q := by
  by_cases hr : r = 0
  · simp [Thread.wx, hr]
  · have e : (t.wx r v).x = t.x.set r.toNat v (by have := r.isLt; omega) := by simp only [Thread.wx, if_neg hr]
    simp only [Thread.rx, e, ne_eq, hr, not_false_eq_true, and_true]
    by_cases hq : q = r
    · subst hq; simp only [if_neg hr, if_true, Vector.getElem_set_self]
    · have hn : ¬ r.toNat = q.toNat := fun h => hq (BitVec.eq_of_toNat_eq h.symm)
      simp only [if_neg hq, Vector.getElem_set, hn, if_false]
@[simp] theorem Thread.rx_zero (t : Thread) : t.rx 0 = 0 := rfl

/-! ## Fields of a core -/

@[simp] theorem Core.putSlot_lend (x : Core) (n : Nat) (t : Thread) : (x.putSlot n t).lend = x.lend := rfl
@[simp] theorem Core.putSlot_banks (x : Core) (n : Nat) (t : Thread) : (x.putSlot n t).banks = x.banks := rfl
@[simp] theorem Core.putSlot_inbox (x : Core) (n : Nat) (t : Thread) : (x.putSlot n t).inbox = x.inbox := rfl
@[simp] theorem Core.putSlot_dqWaiters (x : Core) (n : Nat) (t : Thread) : (x.putSlot n t).dqWaiters = x.dqWaiters := rfl
@[simp] theorem Core.putSlot_hwHeld (x : Core) (n : Nat) (t : Thread) : (x.putSlot n t).hwHeld = x.hwHeld := rfl
@[simp] theorem Core.putSlot_depc (x : Core) (n : Nat) (t : Thread) : (x.putSlot n t).depc = x.depc := rfl
@[simp] theorem Core.putSlot_dcause (x : Core) (n : Nat) (t : Thread) : (x.putSlot n t).dcause = x.dcause := rfl
@[simp] theorem Core.putSlot_stopped (x : Core) (n : Nat) (t : Thread) : (x.putSlot n t).stopped = x.stopped := rfl
@[simp] theorem Core.putSlot_tccBase (x : Core) (n : Nat) (t : Thread) : (x.putSlot n t).tccBase = x.tccBase := rfl
@[simp] theorem Core.putSlot_tccCtl (x : Core) (n : Nat) (t : Thread) : (x.putSlot n t).tccCtl = x.tccCtl := rfl
@[simp] theorem Core.putSlot_tccErr (x : Core) (n : Nat) (t : Thread) : (x.putSlot n t).tccErr = x.tccErr := rfl
@[simp] theorem Core.putSlot_tcc (x : Core) (n : Nat) (t : Thread) : (x.putSlot n t).tcc = x.tcc := rfl
@[simp] theorem Core.putSlot_resident (x : Core) (n : Nat) (t : Thread) : (x.putSlot n t).resident = x.resident := rfl
@[simp] theorem Core.putSlot_backPaid (x : Core) (n : Nat) (t : Thread) : (x.putSlot n t).backPaid = x.backPaid := rfl
@[simp] theorem Core.putSlot_snapCtl (x : Core) (n : Nat) (t : Thread) : (x.putSlot n t).snapCtl = x.snapCtl := rfl
@[simp] theorem Core.putSlot_snap (x : Core) (n : Nat) (t : Thread) : (x.putSlot n t).snap = x.snap := rfl
@[simp] theorem Core.putSlot_qhbm (x : Core) (n : Nat) (t : Thread) : (x.putSlot n t).qhbm = x.qhbm := rfl
@[simp] theorem Core.putSlot_qnet (x : Core) (n : Nat) (t : Thread) : (x.putSlot n t).qnet = x.qnet := rfl
@[simp] theorem Core.putSlot_qwgt (x : Core) (n : Nat) (t : Thread) : (x.putSlot n t).qwgt = x.qwgt := rfl
@[simp] theorem Core.putSlot_qhbmNow (x : Core) (n : Nat) (t : Thread) : (x.putSlot n t).qhbmNow = x.qhbmNow := rfl
@[simp] theorem Core.putSlot_qnetNow (x : Core) (n : Nat) (t : Thread) : (x.putSlot n t).qnetNow = x.qnetNow := rfl
@[simp] theorem Core.putSlot_hbmTok (x : Core) (n : Nat) (t : Thread) : (x.putSlot n t).hbmTok = x.hbmTok := rfl
@[simp] theorem Core.putSlot_netTok (x : Core) (n : Nat) (t : Thread) : (x.putSlot n t).netTok = x.netTok := rfl
@[simp] theorem Core.putSlot_sfu (x : Core) (n : Nat) (t : Thread) : (x.putSlot n t).sfu = x.sfu := rfl
@[simp] theorem Core.putSlot_tiles (x : Core) (n : Nat) (t : Thread) : (x.putSlot n t).tiles = x.tiles := rfl
@[simp] theorem Core.putSlot_arrivals (x : Core) (n : Nat) (t : Thread) : (x.putSlot n t).arrivals = x.arrivals := rfl
@[simp] theorem Core.putSlot_offers (x : Core) (n : Nat) (t : Thread) : (x.putSlot n t).offers = x.offers := rfl
@[simp] theorem Core.putSlot_svc (x : Core) (n : Nat) (t : Thread) : (x.putSlot n t).svc = x.svc := rfl
@[simp] theorem Core.putSlot_svcLast (x : Core) (n : Nat) (t : Thread) : (x.putSlot n t).svcLast = x.svcLast := rfl
@[simp] theorem Core.putSlot_routines (x : Core) (n : Nat) (t : Thread) : (x.putSlot n t).routines = x.routines := rfl
@[simp] theorem Core.putSlot_firmware (x : Core) (n : Nat) (t : Thread) : (x.putSlot n t).firmware = x.firmware := rfl
@[simp] theorem Core.putSlot_serving (x : Core) (n : Nat) (t : Thread) : (x.putSlot n t).serving = x.serving := rfl
@[simp] theorem Core.putSlot_lvt (x : Core) (n : Nat) (t : Thread) : (x.putSlot n t).lvt = x.lvt := rfl
@[simp] theorem Core.putSlot_gvtCopy (x : Core) (n : Nat) (t : Thread) : (x.putSlot n t).gvtCopy = x.gvtCopy := rfl
@[simp] theorem Core.putSlot_sendCount (x : Core) (n : Nat) (t : Thread) : (x.putSlot n t).sendCount = x.sendCount := rfl
@[simp] theorem Core.putSlot_vt (x : Core) (n : Nat) (t : Thread) : (x.putSlot n t).vt = x.vt := rfl
@[simp] theorem Core.putSlot_count0 (x : Core) (n : Nat) (t : Thread) : (x.putSlot n t).count0 = x.count0 := rfl
@[simp] theorem Core.putSlot_count1 (x : Core) (n : Nat) (t : Thread) : (x.putSlot n t).count1 = x.count1 := rfl
@[simp] theorem Core.putSlot_leastSent (x : Core) (n : Nat) (t : Thread) : (x.putSlot n t).leastSent = x.leastSent := rfl
@[simp] theorem Core.putSlot_colour (x : Core) (n : Nat) (t : Thread) : (x.putSlot n t).colour = x.colour := rfl
@[simp] theorem Core.putSlot_icache (x : Core) (n : Nat) (t : Thread) : (x.putSlot n t).icache = x.icache := rfl
@[simp] theorem Core.putBank_slots (x : Core) (n : Nat) (t : Bank) : (x.putBank n t).slots = x.slots := rfl
@[simp] theorem Core.putBank_lend (x : Core) (n : Nat) (t : Bank) : (x.putBank n t).lend = x.lend := rfl
@[simp] theorem Core.putBank_inbox (x : Core) (n : Nat) (t : Bank) : (x.putBank n t).inbox = x.inbox := rfl
@[simp] theorem Core.putBank_dqWaiters (x : Core) (n : Nat) (t : Bank) : (x.putBank n t).dqWaiters = x.dqWaiters := rfl
@[simp] theorem Core.putBank_hwHeld (x : Core) (n : Nat) (t : Bank) : (x.putBank n t).hwHeld = x.hwHeld := rfl
@[simp] theorem Core.putBank_depc (x : Core) (n : Nat) (t : Bank) : (x.putBank n t).depc = x.depc := rfl
@[simp] theorem Core.putBank_dcause (x : Core) (n : Nat) (t : Bank) : (x.putBank n t).dcause = x.dcause := rfl
@[simp] theorem Core.putBank_stopped (x : Core) (n : Nat) (t : Bank) : (x.putBank n t).stopped = x.stopped := rfl
@[simp] theorem Core.putBank_tccBase (x : Core) (n : Nat) (t : Bank) : (x.putBank n t).tccBase = x.tccBase := rfl
@[simp] theorem Core.putBank_tccCtl (x : Core) (n : Nat) (t : Bank) : (x.putBank n t).tccCtl = x.tccCtl := rfl
@[simp] theorem Core.putBank_tccErr (x : Core) (n : Nat) (t : Bank) : (x.putBank n t).tccErr = x.tccErr := rfl
@[simp] theorem Core.putBank_tcc (x : Core) (n : Nat) (t : Bank) : (x.putBank n t).tcc = x.tcc := rfl
@[simp] theorem Core.putBank_resident (x : Core) (n : Nat) (t : Bank) : (x.putBank n t).resident = x.resident := rfl
@[simp] theorem Core.putBank_backPaid (x : Core) (n : Nat) (t : Bank) : (x.putBank n t).backPaid = x.backPaid := rfl
@[simp] theorem Core.putBank_snapCtl (x : Core) (n : Nat) (t : Bank) : (x.putBank n t).snapCtl = x.snapCtl := rfl
@[simp] theorem Core.putBank_snap (x : Core) (n : Nat) (t : Bank) : (x.putBank n t).snap = x.snap := rfl
@[simp] theorem Core.putBank_qhbm (x : Core) (n : Nat) (t : Bank) : (x.putBank n t).qhbm = x.qhbm := rfl
@[simp] theorem Core.putBank_qnet (x : Core) (n : Nat) (t : Bank) : (x.putBank n t).qnet = x.qnet := rfl
@[simp] theorem Core.putBank_qwgt (x : Core) (n : Nat) (t : Bank) : (x.putBank n t).qwgt = x.qwgt := rfl
@[simp] theorem Core.putBank_qhbmNow (x : Core) (n : Nat) (t : Bank) : (x.putBank n t).qhbmNow = x.qhbmNow := rfl
@[simp] theorem Core.putBank_qnetNow (x : Core) (n : Nat) (t : Bank) : (x.putBank n t).qnetNow = x.qnetNow := rfl
@[simp] theorem Core.putBank_hbmTok (x : Core) (n : Nat) (t : Bank) : (x.putBank n t).hbmTok = x.hbmTok := rfl
@[simp] theorem Core.putBank_netTok (x : Core) (n : Nat) (t : Bank) : (x.putBank n t).netTok = x.netTok := rfl
@[simp] theorem Core.putBank_sfu (x : Core) (n : Nat) (t : Bank) : (x.putBank n t).sfu = x.sfu := rfl
@[simp] theorem Core.putBank_tiles (x : Core) (n : Nat) (t : Bank) : (x.putBank n t).tiles = x.tiles := rfl
@[simp] theorem Core.putBank_arrivals (x : Core) (n : Nat) (t : Bank) : (x.putBank n t).arrivals = x.arrivals := rfl
@[simp] theorem Core.putBank_offers (x : Core) (n : Nat) (t : Bank) : (x.putBank n t).offers = x.offers := rfl
@[simp] theorem Core.putBank_svc (x : Core) (n : Nat) (t : Bank) : (x.putBank n t).svc = x.svc := rfl
@[simp] theorem Core.putBank_svcLast (x : Core) (n : Nat) (t : Bank) : (x.putBank n t).svcLast = x.svcLast := rfl
@[simp] theorem Core.putBank_routines (x : Core) (n : Nat) (t : Bank) : (x.putBank n t).routines = x.routines := rfl
@[simp] theorem Core.putBank_firmware (x : Core) (n : Nat) (t : Bank) : (x.putBank n t).firmware = x.firmware := rfl
@[simp] theorem Core.putBank_serving (x : Core) (n : Nat) (t : Bank) : (x.putBank n t).serving = x.serving := rfl
@[simp] theorem Core.putBank_lvt (x : Core) (n : Nat) (t : Bank) : (x.putBank n t).lvt = x.lvt := rfl
@[simp] theorem Core.putBank_gvtCopy (x : Core) (n : Nat) (t : Bank) : (x.putBank n t).gvtCopy = x.gvtCopy := rfl
@[simp] theorem Core.putBank_sendCount (x : Core) (n : Nat) (t : Bank) : (x.putBank n t).sendCount = x.sendCount := rfl
@[simp] theorem Core.putBank_vt (x : Core) (n : Nat) (t : Bank) : (x.putBank n t).vt = x.vt := rfl
@[simp] theorem Core.putBank_count0 (x : Core) (n : Nat) (t : Bank) : (x.putBank n t).count0 = x.count0 := rfl
@[simp] theorem Core.putBank_count1 (x : Core) (n : Nat) (t : Bank) : (x.putBank n t).count1 = x.count1 := rfl
@[simp] theorem Core.putBank_leastSent (x : Core) (n : Nat) (t : Bank) : (x.putBank n t).leastSent = x.leastSent := rfl
@[simp] theorem Core.putBank_colour (x : Core) (n : Nat) (t : Bank) : (x.putBank n t).colour = x.colour := rfl
@[simp] theorem Core.putBank_icache (x : Core) (n : Nat) (t : Bank) : (x.putBank n t).icache = x.icache := rfl

end Sys2Proof.Machine
end

