-- ==== Sys2Proof/Laws/Memory.lean ====
section
/-!
SUPPORT. Laws/Memory.lean: reading after writing a byte, and the canonical form of memory: every operation keeps it, and two
memories in that form with the same bytes are the same.
-/
namespace Sys2Proof.Machine

/-! ## Bytes -/

theorem cellGet_filter (l : List Host.Cell) (a b : Nat) :
    cellGet (l.filter (fun p => p.1 != a)) b = if b = a then Config.unwritten else cellGet l b := by
  induction l with
  | nil => simp [cellGet]
  | cons p r ih =>
    obtain ⟨k, w⟩ := p
    by_cases h : k = a
    · subst h
      simp only [List.filter, bne_self_eq_false, ih, cellGet]
      by_cases hb : b = k
      · simp [hb]
      · simp [hb, eq_comm]
    · have hk : (k != a) = true := by simpa using h
      simp only [List.filter, hk, cellGet, ih]
      by_cases hb : k = b
      · have : b ≠ a := by omega
        simp [hb, this]
      · simp [hb]

theorem cellGet_put (l : List Host.Cell) (a b : Nat) (v : Byte) : cellGet (cellPut l a v) b = if b = a then v else cellGet l b := by
  induction l with
  | nil => simp only [cellPut, cellGet, eq_comm]
  | cons p r ih =>
    obtain ⟨k, w⟩ := p
    simp only [cellPut]
    split
    · subst k; simp only [cellGet]; by_cases h : a = b <;> simp [h, eq_comm]
    · split
      · simp only [cellGet]; by_cases h : a = b <;> simp [h, eq_comm]
      · simp only [cellGet, ih]
        by_cases h : k = b
        · have : b ≠ a := by omega
          simp [h, this]
        · simp [h]

/-- A byte reads as what was last written to it, and other bytes as before. -/
@[simp] theorem Memory.byte_writeByte (m : Memory) (a b : Nat) (v : Byte) :
    (m.writeByte a v).byte b = if b = a then v else m.byte b := by
  simp only [Memory.byte, Memory.writeByte, cellWrite]
  split
  · rw [cellGet_filter]; simp only [*]
  · rw [cellGet_put]

/-- Clearing a range leaves the bytes outside it. -/
theorem cellGet_keep (l : List Host.Cell) (q : Nat → Bool) (b : Nat) :
    cellGet (l.filter (fun c => q c.1)) b = if q b then cellGet l b else Config.unwritten := by
  induction l with
  | nil => simp [cellGet]
  | cons p r ih =>
    obtain ⟨k, w⟩ := p
    by_cases hq : q k = true
    · simp only [List.filter, hq, cellGet, ih]
      by_cases hb : k = b
      · subst hb; simp [hq]
      · simp [hb]
    · simp only [List.filter, hq, cellGet, ih]
      by_cases hb : k = b
      · subst hb; simp [hq]
      · simp [hb]

/-- Clearing a range of memory (R127): its bytes read as unwritten ones, the others as before. -/
theorem State.byte_clear (s : State) (a n b : Nat) :
    (s.clear a n).mem.byte b = if a ≤ b ∧ b < a + n then Config.unwritten else s.mem.byte b := by
  simp only [State.clear, Memory.byte, cellGet_keep s.mem.cells (fun p => !(decide (a ≤ p) && decide (p < a + n)))]
  by_cases h : a ≤ b ∧ b < a + n
  · simp [h]
  · simp only [if_neg h]
    rw [if_pos]
    simp only [Bool.not_and, Bool.or_eq_true, Bool.not_eq_true', decide_eq_false_iff_not]
    omega

/-! ## The canonical form -/

theorem cellsWf_mono {l : List Host.Cell} {lo hi : Nat} (h : cellsWf hi l = true) (hl : lo ≤ hi) : cellsWf lo l = true := by
  cases l with
  | nil => rfl
  | cons p r =>
    simp only [cellsWf, Bool.and_eq_true, decide_eq_true_eq] at h ⊢
    exact ⟨⟨by omega, h.1.2⟩, h.2⟩

theorem cellsWf_keep (q : Host.Cell → Bool) : ∀ {l : List Host.Cell} {lo : Nat}, cellsWf lo l = true → cellsWf lo (l.filter q) = true
  | [], _, _ => rfl
  | (k, v) :: r, lo, h => by
    simp only [cellsWf, Bool.and_eq_true, decide_eq_true_eq] at h
    simp only [List.filter]
    split
    · simp only [cellsWf, Bool.and_eq_true, decide_eq_true_eq]
      exact ⟨h.1, cellsWf_keep q h.2⟩
    · exact cellsWf_mono (cellsWf_keep q h.2) (by omega)

theorem cellsWf_put {a : Nat} {v : Byte} (hv : v ≠ Config.unwritten) :
    ∀ {l : List Host.Cell} {lo : Nat}, cellsWf lo l = true → lo ≤ a → cellsWf lo (cellPut l a v) = true
  | [], lo, _, ha => by simp [cellPut, cellsWf, ha, hv]
  | (k, w) :: r, lo, h, ha => by
    simp only [cellsWf, Bool.and_eq_true, decide_eq_true_eq] at h
    simp only [cellPut]
    split
    · subst k; simp [cellsWf, ha, hv, h.2]
    · split
      · simp only [cellsWf, Bool.and_eq_true, decide_eq_true_eq]
        exact ⟨⟨ha, by simpa using hv⟩, ⟨by omega, h.1.2⟩, h.2⟩
      · simp only [cellsWf, Bool.and_eq_true, decide_eq_true_eq]
        exact ⟨h.1, cellsWf_put hv h.2 (by omega)⟩

/-- Writing a byte keeps the canonical form. -/
theorem Memory.wf_writeByte {m : Memory} (h : m.wf = true) (a : Nat) (v : Byte) : (m.writeByte a v).wf = true := by
  simp only [Memory.wf, Memory.writeByte, cellWrite] at h ⊢
  split
  · exact cellsWf_keep _ h
  · exact cellsWf_put (by assumption) h (Nat.zero_le a)

/-- Writing bytes keeps the canonical form. -/
theorem Memory.wf_write : ∀ (n : Nat) {m : Memory} (_ : m.wf = true) (a v : Nat), (m.write a n v).wf = true
  | 0, _, h, _, _ => h
  | n + 1, _, h, a, v => Memory.wf_write n (Memory.wf_writeByte h a _) (a + 1) (v / 256)

theorem State.wf_write {s : State} (h : s.mem.wf = true) (a n v : Nat) : (s.write a n v).mem.wf = true := Memory.wf_write n h a v
theorem State.wf_store {s : State} (h : s.mem.wf = true) (a n v : Nat) : (s.store a n v).mem.wf = true := by
  simpa using Memory.wf_write n h a v
theorem State.wf_putEntry {s : State} (h : s.mem.wf = true) (a : Nat) (e : Entry) : (s.putEntry a e).mem.wf = true :=
  Memory.wf_write 8 h a e.d.toNat
theorem State.wf_clear {s : State} (h : s.mem.wf = true) (a n : Nat) : (s.clear a n).mem.wf = true := cellsWf_keep _ h

/-- Memory at reset has the canonical form. -/
theorem State.wf_reset : State.reset.mem.wf = true := rfl

/-! ## The form is canonical -/

theorem cellGet_below : ∀ {l : List Host.Cell} {lo b : Nat}, cellsWf lo l = true → b < lo → cellGet l b = Config.unwritten
  | [], _, _, _, _ => rfl
  | (k, v) :: r, lo, b, h, hb => by
    simp only [cellsWf, Bool.and_eq_true, decide_eq_true_eq] at h
    have hk : ¬ k = b := by omega
    simp only [cellGet, if_neg hk]
    exact cellGet_below h.2 (by omega)

theorem cells_ext : ∀ {l r : List Host.Cell} {lo : Nat}, cellsWf lo l = true → cellsWf lo r = true →
    (∀ b, cellGet l b = cellGet r b) → l = r
  | [], [], _, _, _, _ => rfl
  | [], (k, v) :: r, lo, _, h, e => by
    have := e k
    simp only [cellsWf, Bool.and_eq_true, decide_eq_true_eq] at h
    simp [cellGet] at this
    simp [this] at h
  | (k, v) :: l, [], lo, h, _, e => by
    have := e k
    simp only [cellsWf, Bool.and_eq_true, decide_eq_true_eq] at h
    simp [cellGet] at this
    simp [this] at h
  | (k, v) :: l, (j, w) :: r, lo, hl, hr, e => by
    have hl' := hl
    have hr' := hr
    simp only [cellsWf, Bool.and_eq_true, decide_eq_true_eq, bne_iff_ne, ne_eq] at hl hr
    have hkj : k = j := by
      rcases Nat.lt_trichotomy k j with h | h | h
      · have h2 := e k
        rw [cellGet_below (lo := j) (l := (j, w) :: r) (by simp [cellsWf, hr]) h] at h2
        simp only [cellGet, if_true] at h2
        exact absurd h2 hl.1.2
      · exact h
      · have h2 := e j
        rw [cellGet_below (lo := k) (l := (k, v) :: l) (by simp [cellsWf, hl]) h] at h2
        simp only [cellGet, if_true] at h2
        exact absurd h2.symm hr.1.2
    subst hkj
    have hv : v = w := by have := e k; simpa [cellGet] using this
    subst hv
    have : l = r := cells_ext hl.2 hr.2 (fun b => by
      by_cases hb : b < k + 1
      · rw [cellGet_below hl.2 hb, cellGet_below hr.2 hb]
      · have := e b
        have hk : ¬ k = b := by omega
        simpa only [cellGet, if_neg hk] using this)
    rw [this]

/-- Two memories in the canonical form with the same bytes are the same memory. -/
theorem Memory.ext_of_wf {m n : Memory} (hm : m.wf = true) (hn : n.wf = true) (h : ∀ b, m.byte b = n.byte b) : m = n := by
  have : m.cells = n.cells := cells_ext hm hn h
  cases m; cases n; simp_all

end Sys2Proof.Machine
end

