-- ==== Sys2Proof/Laws/Ops.lean ====
section
/-!
SUPPORT. Laws/Ops.lean: what the shared operations can do: an issue, an access, an instruction in flight, a trap.
-/
namespace Sys2Proof.Machine

/-! ## Issue -/

/-- Whatever a meaning gives, the machine goes on. -/
theorem settle_next (i : Instr) (s : State) (a : Act) : ∃ t, settle i s a = .next t := by
  cases a <;> exact ⟨_, rfl⟩

/-- Everything that an issue can come to: held back; refused as ill-formed, as barred to the timed thread, or by an early check;
or the outcome of the instruction's own meaning. -/
theorem issue_cases (i : Instr) (s : State) (body : Thread → State → Act) :
    (held i s = true ∧ issue i s body = .next s) ∨
    (held i s = false ∧ i.wf = false ∧ issue i s body = .next (s.trapped cILLOP (wordVal i))) ∨
    (held i s = false ∧ i.wf = true ∧ (s.me.tm && !(cls i).timed) = true ∧ issue i s body = .next (s.trapped cPRIV (wordVal i))) ∨
    (∃ f, held i s = false ∧ i.wf = true ∧ (s.me.tm && !(cls i).timed) = false ∧ earlyCheck i s = some f ∧
      issue i s body = .next (s.failNow f)) ∨
    (Issues i s ∧ issue i s body = settle i s (body s.me s)) := by
  cases h1 : held i s
  · right
    cases h2 : i.wf
    · left; exact ⟨rfl, rfl, by simp [issue, h1, h2, settle, Act.illop, Act.fail, State.trapped]⟩
    · right
      cases h3 : (s.me.tm && !(cls i).timed)
      · right
        cases h4 : earlyCheck i s with
        | none => right; have h : Issues i s := ⟨h1, h2, h3, h4⟩; exact ⟨h, issue_of_issues h body⟩
        | some f => left; exact ⟨f, rfl, rfl, rfl, rfl, by simp [issue, h1, h2, h3, h4, settle]⟩
      · left; exact ⟨rfl, rfl, rfl, by simp [issue, h1, h2, h3, settle, Act.priv, Act.fail, State.trapped]⟩
  · left; exact ⟨rfl, by simp [issue, h1]⟩

/-- An issue answers a next state. -/
theorem issue_next (i : Instr) (s : State) (body : Thread → State → Act) : ∃ t, issue i s body = .next t := by
  rcases issue_cases i s body with ⟨_, h⟩ | ⟨_, _, h⟩ | ⟨_, _, _, h⟩ | ⟨_, _, _, _, _, h⟩ | ⟨_, h⟩
  · exact ⟨_, h⟩
  · exact ⟨_, h⟩
  · exact ⟨_, h⟩
  · exact ⟨_, h⟩
  · obtain ⟨t, ht⟩ := settle_next i s (body s.me s); exact ⟨t, h.trans ht⟩

/-- What going on after an issue leaves as it was. -/
@[simp] theorem State.onward_mem (s : State) (i : Instr) (s' : State) : (s.onward i s').mem = s'.mem := rfl
@[simp] theorem State.onward_empties (s : State) (i : Instr) (s' : State) : (s.onward i s').empties = s'.empties := rfl
@[simp] theorem State.onward_poisons (s : State) (i : Instr) (s' : State) : (s.onward i s').poisons = s'.poisons := rfl
@[simp] theorem State.onward_clusters (s : State) (i : Instr) (s' : State) : (s.onward i s').clusters = s'.clusters := rfl
@[simp] theorem State.onward_curCore (s : State) (i : Instr) (s' : State) : (s.onward i s').curCore = s'.curCore := rfl
@[simp] theorem State.onward_curSlot (s : State) (i : Instr) (s' : State) : (s.onward i s').curSlot = s'.curSlot := rfl
@[simp] theorem State.jumped_mem (s : State) (i : Instr) (s' : State) (v : Word) : (s.jumped i s' v).mem = s'.mem := rfl
@[simp] theorem State.jumped_empties (s : State) (i : Instr) (s' : State) (v : Word) : (s.jumped i s' v).empties = s'.empties := rfl
@[simp] theorem State.jumped_poisons (s : State) (i : Instr) (s' : State) (v : Word) : (s.jumped i s' v).poisons = s'.poisons := rfl
@[simp] theorem State.trapped_mem (s : State) (c : Byte) (v : Word) : (s.trapped c v).mem = s.mem := by simp [State.trapped]
@[simp] theorem State.trapped_empties (s : State) (c : Byte) (v : Word) : (s.trapped c v).empties = s.empties := by simp [State.trapped]

/-- The executing thread after it has gone on. -/
theorem State.me_onward (s : State) (i : Instr) (s' : State) (hc : s'.curCore = s.curCore) (hk : s'.curSlot = s.curSlot)
    (h : s.curSlot < 16) :
    (s.onward i s').me = s'.me.issued s.cycle s.nextId (cls i).occ false (nextPc i s.me.pc) := by
  simp only [State.me, State.onward, State.modThr, State.putThr_curCore, State.putThr_curSlot, hc, hk, State.thr_putThr, h,
    and_self, if_true]

/-! ## Accesses -/

/-- Everything that issuing an access can come to: refused by a check (R119, R125); on its way to another core with its thread
(R123); or in flight. -/
theorem access_cases (i : Instr) (nd : Need) (fill : Operands → Operands) (t : Thread) (s : State) :
    (∃ tr, access i nd fill t s = .trap ⟨tr, none⟩ ∧ (resolve s s.curCore t nd = .error tr ∨
      ∃ ta dst o, resolve s s.curCore t nd = .ok (ta, .foreign dst o) ∧ s.mayLeave s.curCore s.curSlot nd.ea = some tr)) ∨
    (∃ ta dst o, resolve s s.curCore t nd = .ok (ta, .foreign dst o) ∧
      access i nd fill t s = .ok (s.flyAway i (fill (baseOps s t nd ta (.foreign dst o))) true ((cls i).mem == .relaxed) dst)) ∨
    (∃ ta tgt, resolve s s.curCore t nd = .ok (ta, tgt) ∧
      access i nd fill t s = .ok (s.fly i (fill (baseOps s t nd ta tgt)) true ((cls i).mem == .relaxed) .flight)) := by
  cases h : resolve s s.curCore t nd with
  | error tr => left; exact ⟨tr, by simp only [access, h], .inl rfl⟩
  | ok p =>
    obtain ⟨ta, tgt⟩ := p
    cases tgt with
    | foreign dst o =>
      cases h2 : s.mayLeave s.curCore s.curSlot nd.ea with
      | some tr => left; exact ⟨tr, by simp only [access, h, h2], .inr ⟨ta, dst, o, rfl, rfl⟩⟩
      | none => right; left; exact ⟨ta, dst, o, rfl, by simp only [access, h, h2]⟩
    | _ => right; right; exact ⟨ta, _, rfl, by simp only [access, h]⟩

/-! ## Instructions in flight -/

theorem Thread.pending_modPend (t : Thread) (id : Nat) (f : Pending → Pending) (hf : ∀ p, (f p).id = p.id) :
    (t.modPend id f).pending id = (t.pending id).map f := by
  simp only [Thread.pending, Thread.modPend]
  induction t.pend with
  | nil => rfl
  | cons p r ih =>
    by_cases h : p.id = id
    · simp [h, hf]
    · simp only [List.map_cons, if_neg h, List.find?_cons]
      have : (p.id == id) = false := by simpa using h
      simp only [this, ih]

/-- Coming back to rotation changes nothing that is in flight. -/
@[simp] theorem Thread.pend_backFrom (t u : Thread) (n : Nat) : (t.backFrom u n).pend = t.pend := by
  simp only [Thread.backFrom]; split <;> rfl
theorem Thread.pending_backFrom (t u : Thread) (n id : Nat) : (t.backFrom u n).pending id = t.pending id := by
  simp [Thread.pending]

/-- A new phase is the phase of that instruction and of nothing else. -/
theorem State.pending_setPhase (s : State) (r : Ref) (ph : Phase) (h : r.slot < 16) :
    (s.setPhase r ph).pending r = (s.pending r).map (fun p => { p with phase := ph }) := by
  simp only [State.pending, State.setPhase, State.modPend, State.modThr, State.thr_putThr, h, and_self, if_true]
  rw [Thread.pending_backFrom]
  exact Thread.pending_modPend _ _ _ (fun _ => rfl)

theorem State.thr_setPhase (s : State) (r : Ref) (ph : Phase) (c k : Nat) (h : c ≠ r.core ∨ k ≠ r.slot) :
    (s.setPhase r ph).thr c k = s.thr c k := by
  simp only [State.setPhase, State.modPend, State.modThr, State.thr_putThr]
  rw [if_neg]
  rintro ⟨h1, h2, _⟩
  rcases h with h | h
  · exact h h1
  · exact h h2

theorem State.thr_putMe (s : State) (t : Thread) (c k : Nat) (h : c ≠ s.curCore ∨ k ≠ s.curSlot) :
    (s.putMe t).thr c k = s.thr c k := by
  simp only [State.putMe, State.thr_putThr]
  rw [if_neg]
  rintro ⟨h1, h2, _⟩
  rcases h with h | h
  · exact h h1
  · exact h h2

/-! ## Traps -/

/-- Taking a trap in a slot other than 15 (R310): EPC, CAUSE and TVAL, the state Trapped, and no request returned. -/
theorem State.takeTrap_thr (s : State) (c k : Nat) (code : Byte) (tval epc : Word) (late : Bool) (lad : Nat) (xw : Option Word32)
    (h : k < 15) :
    let t := (s.takeTrap c k code tval epc late lad xw).thr c k
    t.st = .trapped ∧ t.returned = false ∧ t.epc = epc ∧ t.pc = epc ∧ t.tval = tval ∧ t.cause = causeWord code late lad ∧
      t.xw = xw ∧ t.stop = none := by
  have hk : ¬ k = 15 := by omega
  have h16 : k < 16 := by omega
  simp only [State.takeTrap, if_neg hk, State.modThr, State.thr_putThr, h16, and_self, if_true]

/-- A double trap stops its core and writes its two debug registers (R313). -/
theorem State.doubleTrap_core (s : State) (c : Nat) (epc cause : Word) :
    ((s.doubleTrap c epc cause).core c).depc = epc ∧ ((s.doubleTrap c epc cause).core c).dcause = cause ∧
      ((s.doubleTrap c epc cause).core c).stopped = true := by
  have h : ∀ (u : State) (f : Thread → Thread), ((u.modThr c 15 f).core c) = (u.core c).putSlot 15 (f (u.thr c 15)) := by
    intro u f; simp [State.modThr, State.putThr]
  have h2 : (s.modCore c (fun k => { k with depc := epc, dcause := cause, stopped := true })).core c =
      { s.core c with depc := epc, dcause := cause, stopped := true } := by simp [State.modCore]
  have h3 : (s.doubleTrap c epc cause).core c = ((s.modCore c (fun k => { k with depc := epc, dcause := cause, stopped := true })).modThr
      c 15 (fun t => { t with stop := none })).core c := rfl
  rw [h3, h, h2]; exact ⟨rfl, rfl, rfl⟩

end Sys2Proof.Machine
end

