-- ==== Sys2Proof/Laws/PerInstr.lean ====
section
/-!
SUPPORT. Laws/PerInstr.lean: for every instruction, decoding its encoding gives it back (R54 to R76).
-/
set_option Elab.async false
set_option linter.unusedSimpArgs false

namespace Sys2Proof.Laws

theorem fldN_mk (n lo len : Nat) (h : n < 4294967296) : fldN (mkWord n) lo len = n / 2 ^ lo % 2 ^ len := by
  unfold fldN mkWord; rw [BitVec.toNat_ofNat, Nat.mod_eq_of_lt h]

theorem fldN_is {n lo len v : Nat} (h : n < 4294967296) (hv : n / 2 ^ lo % 2 ^ len = v) : fldN (mkWord n) lo len = v := by
  rw [fldN_mk n lo len h, hv]

theorem fld_mk {k : Nat} (x : BitVec k) (n lo : Nat) (h : n < 4294967296) (hn : n / 2 ^ lo % 2 ^ k = x.toNat) :
    fld (mkWord n) lo k = x := by
  unfold fld mkWord; rw [BitVec.toNat_ofNat, Nat.mod_eq_of_lt h]
  exact BitVec.eq_of_toNat_eq (by rw [BitVec.toNat_ofNat]; exact hn)

theorem one_of {w : Word32} {i : Instr} {m : Nat} (hm : fldN w 26 6 = m) (hl : isLMajor m = false)
    (h : decodeOne w = some i) : decodeWords [w] = .ok (i, 1) := by
  unfold decodeWords; simp only [hm, hl, h, Bool.false_eq_true, if_false]

theorem five_of {w : Word32} {i : Instr} {m : Nat} {p : Params} (hm : fldN w 26 6 = m) (hl : isLMajor m = true)
    (h : decodeL w p = some i) : decodeWords [w, p.w0, p.w1, p.w2, p.w3] = .ok (i, 5) := by
  have : decodeL w ⟨p.w0, p.w1, p.w2, p.w3⟩ = some i := h
  rw [decodeWords, hm, hl]; simp only [if_true, this]

/-- The words of a well-formed instruction decode to it, and to all of them. -/
def RoundTrip.Statement (i : Instr) : Prop :=
  i.wf = true → i.isStep = false → decodeWords (encode i) = .ok (i, (encode i).length)

theorem RoundTrip.add (d : BitVec 5) (a : BitVec 5) (b : BitVec 5) : RoundTrip.Statement (.add d a b) := by
  intro hw _
  have := d.isLt; have := a.isLt; have := b.isLt
  simp only [encode, Instr.params, Instr.word]
  generalize hn : 0x04000000 + d.toNat * 2097152 + a.toNat * 65536 + b.toNat * 2048 = n
  have hl : n < 4294967296 := by omega
  have hm : fldN (mkWord n) 26 6 = 0x01 := fldN_is hl (by omega)
  have c0_11 : fldN (mkWord n) 0 11 = 0 := fldN_is hl (by omega)
  refine one_of hm rfl ?_
  simp only [decodeOne, hm, decodeMajor01, c0_11, Nat.reduceEqDiff, reduceIte, and_true, true_and, and_false, false_and, and_self]
  congr 2 <;> exact fld_mk _ _ _ hl (by omega)

theorem RoundTrip.sub (d : BitVec 5) (a : BitVec 5) (b : BitVec 5) : RoundTrip.Statement (.sub d a b) := by
  intro hw _
  have := d.isLt; have := a.isLt; have := b.isLt
  simp only [encode, Instr.params, Instr.word]
  generalize hn : 0x04000001 + d.toNat * 2097152 + a.toNat * 65536 + b.toNat * 2048 = n
  have hl : n < 4294967296 := by omega
  have hm : fldN (mkWord n) 26 6 = 0x01 := fldN_is hl (by omega)
  have c0_11 : fldN (mkWord n) 0 11 = 1 := fldN_is hl (by omega)
  refine one_of hm rfl ?_
  simp only [decodeOne, hm, decodeMajor01, c0_11, Nat.reduceEqDiff, reduceIte, and_true, true_and, and_false, false_and, and_self]
  congr 2 <;> exact fld_mk _ _ _ hl (by omega)

theorem RoundTrip.and (d : BitVec 5) (a : BitVec 5) (b : BitVec 5) : RoundTrip.Statement (.and d a b) := by
  intro hw _
  have := d.isLt; have := a.isLt; have := b.isLt
  simp only [encode, Instr.params, Instr.word]
  generalize hn : 0x04000002 + d.toNat * 2097152 + a.toNat * 65536 + b.toNat * 2048 = n
  have hl : n < 4294967296 := by omega
  have hm : fldN (mkWord n) 26 6 = 0x01 := fldN_is hl (by omega)
  have c0_11 : fldN (mkWord n) 0 11 = 2 := fldN_is hl (by omega)
  refine one_of hm rfl ?_
  simp only [decodeOne, hm, decodeMajor01, c0_11, Nat.reduceEqDiff, reduceIte, and_true, true_and, and_false, false_and, and_self]
  congr 2 <;> exact fld_mk _ _ _ hl (by omega)

theorem RoundTrip.or (d : BitVec 5) (a : BitVec 5) (b : BitVec 5) : RoundTrip.Statement (.or d a b) := by
  intro hw _
  have := d.isLt; have := a.isLt; have := b.isLt
  simp only [encode, Instr.params, Instr.word]
  generalize hn : 0x04000003 + d.toNat * 2097152 + a.toNat * 65536 + b.toNat * 2048 = n
  have hl : n < 4294967296 := by omega
  have hm : fldN (mkWord n) 26 6 = 0x01 := fldN_is hl (by omega)
  have c0_11 : fldN (mkWord n) 0 11 = 3 := fldN_is hl (by omega)
  refine one_of hm rfl ?_
  simp only [decodeOne, hm, decodeMajor01, c0_11, Nat.reduceEqDiff, reduceIte, and_true, true_and, and_false, false_and, and_self]
  congr 2 <;> exact fld_mk _ _ _ hl (by omega)

theorem RoundTrip.xor (d : BitVec 5) (a : BitVec 5) (b : BitVec 5) : RoundTrip.Statement (.xor d a b) := by
  intro hw _
  have := d.isLt; have := a.isLt; have := b.isLt
  simp only [encode, Instr.params, Instr.word]
  generalize hn : 0x04000004 + d.toNat * 2097152 + a.toNat * 65536 + b.toNat * 2048 = n
  have hl : n < 4294967296 := by omega
  have hm : fldN (mkWord n) 26 6 = 0x01 := fldN_is hl (by omega)
  have c0_11 : fldN (mkWord n) 0 11 = 4 := fldN_is hl (by omega)
  refine one_of hm rfl ?_
  simp only [decodeOne, hm, decodeMajor01, c0_11, Nat.reduceEqDiff, reduceIte, and_true, true_and, and_false, false_and, and_self]
  congr 2 <;> exact fld_mk _ _ _ hl (by omega)

theorem RoundTrip.sll (d : BitVec 5) (a : BitVec 5) (b : BitVec 5) : RoundTrip.Statement (.sll d a b) := by
  intro hw _
  have := d.isLt; have := a.isLt; have := b.isLt
  simp only [encode, Instr.params, Instr.word]
  generalize hn : 0x04000005 + d.toNat * 2097152 + a.toNat * 65536 + b.toNat * 2048 = n
  have hl : n < 4294967296 := by omega
  have hm : fldN (mkWord n) 26 6 = 0x01 := fldN_is hl (by omega)
  have c0_11 : fldN (mkWord n) 0 11 = 5 := fldN_is hl (by omega)
  refine one_of hm rfl ?_
  simp only [decodeOne, hm, decodeMajor01, c0_11, Nat.reduceEqDiff, reduceIte, and_true, true_and, and_false, false_and, and_self]
  congr 2 <;> exact fld_mk _ _ _ hl (by omega)

theorem RoundTrip.srl (d : BitVec 5) (a : BitVec 5) (b : BitVec 5) : RoundTrip.Statement (.srl d a b) := by
  intro hw _
  have := d.isLt; have := a.isLt; have := b.isLt
  simp only [encode, Instr.params, Instr.word]
  generalize hn : 0x04000006 + d.toNat * 2097152 + a.toNat * 65536 + b.toNat * 2048 = n
  have hl : n < 4294967296 := by omega
  have hm : fldN (mkWord n) 26 6 = 0x01 := fldN_is hl (by omega)
  have c0_11 : fldN (mkWord n) 0 11 = 6 := fldN_is hl (by omega)
  refine one_of hm rfl ?_
  simp only [decodeOne, hm, decodeMajor01, c0_11, Nat.reduceEqDiff, reduceIte, and_true, true_and, and_false, false_and, and_self]
  congr 2 <;> exact fld_mk _ _ _ hl (by omega)

theorem RoundTrip.sra (d : BitVec 5) (a : BitVec 5) (b : BitVec 5) : RoundTrip.Statement (.sra d a b) := by
  intro hw _
  have := d.isLt; have := a.isLt; have := b.isLt
  simp only [encode, Instr.params, Instr.word]
  generalize hn : 0x04000007 + d.toNat * 2097152 + a.toNat * 65536 + b.toNat * 2048 = n
  have hl : n < 4294967296 := by omega
  have hm : fldN (mkWord n) 26 6 = 0x01 := fldN_is hl (by omega)
  have c0_11 : fldN (mkWord n) 0 11 = 7 := fldN_is hl (by omega)
  refine one_of hm rfl ?_
  simp only [decodeOne, hm, decodeMajor01, c0_11, Nat.reduceEqDiff, reduceIte, and_true, true_and, and_false, false_and, and_self]
  congr 2 <;> exact fld_mk _ _ _ hl (by omega)

theorem RoundTrip.slt (d : BitVec 5) (a : BitVec 5) (b : BitVec 5) : RoundTrip.Statement (.slt d a b) := by
  intro hw _
  have := d.isLt; have := a.isLt; have := b.isLt
  simp only [encode, Instr.params, Instr.word]
  generalize hn : 0x04000008 + d.toNat * 2097152 + a.toNat * 65536 + b.toNat * 2048 = n
  have hl : n < 4294967296 := by omega
  have hm : fldN (mkWord n) 26 6 = 0x01 := fldN_is hl (by omega)
  have c0_11 : fldN (mkWord n) 0 11 = 8 := fldN_is hl (by omega)
  refine one_of hm rfl ?_
  simp only [decodeOne, hm, decodeMajor01, c0_11, Nat.reduceEqDiff, reduceIte, and_true, true_and, and_false, false_and, and_self]
  congr 2 <;> exact fld_mk _ _ _ hl (by omega)

theorem RoundTrip.sltu (d : BitVec 5) (a : BitVec 5) (b : BitVec 5) : RoundTrip.Statement (.sltu d a b) := by
  intro hw _
  have := d.isLt; have := a.isLt; have := b.isLt
  simp only [encode, Instr.params, Instr.word]
  generalize hn : 0x04000009 + d.toNat * 2097152 + a.toNat * 65536 + b.toNat * 2048 = n
  have hl : n < 4294967296 := by omega
  have hm : fldN (mkWord n) 26 6 = 0x01 := fldN_is hl (by omega)
  have c0_11 : fldN (mkWord n) 0 11 = 9 := fldN_is hl (by omega)
  refine one_of hm rfl ?_
  simp only [decodeOne, hm, decodeMajor01, c0_11, Nat.reduceEqDiff, reduceIte, and_true, true_and, and_false, false_and, and_self]
  congr 2 <;> exact fld_mk _ _ _ hl (by omega)

theorem RoundTrip.min (d : BitVec 5) (a : BitVec 5) (b : BitVec 5) : RoundTrip.Statement (.min d a b) := by
  intro hw _
  have := d.isLt; have := a.isLt; have := b.isLt
  simp only [encode, Instr.params, Instr.word]
  generalize hn : 0x0400000A + d.toNat * 2097152 + a.toNat * 65536 + b.toNat * 2048 = n
  have hl : n < 4294967296 := by omega
  have hm : fldN (mkWord n) 26 6 = 0x01 := fldN_is hl (by omega)
  have c0_11 : fldN (mkWord n) 0 11 = 10 := fldN_is hl (by omega)
  refine one_of hm rfl ?_
  simp only [decodeOne, hm, decodeMajor01, c0_11, Nat.reduceEqDiff, reduceIte, and_true, true_and, and_false, false_and, and_self]
  congr 2 <;> exact fld_mk _ _ _ hl (by omega)

theorem RoundTrip.max (d : BitVec 5) (a : BitVec 5) (b : BitVec 5) : RoundTrip.Statement (.max d a b) := by
  intro hw _
  have := d.isLt; have := a.isLt; have := b.isLt
  simp only [encode, Instr.params, Instr.word]
  generalize hn : 0x0400000B + d.toNat * 2097152 + a.toNat * 65536 + b.toNat * 2048 = n
  have hl : n < 4294967296 := by omega
  have hm : fldN (mkWord n) 26 6 = 0x01 := fldN_is hl (by omega)
  have c0_11 : fldN (mkWord n) 0 11 = 11 := fldN_is hl (by omega)
  refine one_of hm rfl ?_
  simp only [decodeOne, hm, decodeMajor01, c0_11, Nat.reduceEqDiff, reduceIte, and_true, true_and, and_false, false_and, and_self]
  congr 2 <;> exact fld_mk _ _ _ hl (by omega)

theorem RoundTrip.minu (d : BitVec 5) (a : BitVec 5) (b : BitVec 5) : RoundTrip.Statement (.minu d a b) := by
  intro hw _
  have := d.isLt; have := a.isLt; have := b.isLt
  simp only [encode, Instr.params, Instr.word]
  generalize hn : 0x0400000C + d.toNat * 2097152 + a.toNat * 65536 + b.toNat * 2048 = n
  have hl : n < 4294967296 := by omega
  have hm : fldN (mkWord n) 26 6 = 0x01 := fldN_is hl (by omega)
  have c0_11 : fldN (mkWord n) 0 11 = 12 := fldN_is hl (by omega)
  refine one_of hm rfl ?_
  simp only [decodeOne, hm, decodeMajor01, c0_11, Nat.reduceEqDiff, reduceIte, and_true, true_and, and_false, false_and, and_self]
  congr 2 <;> exact fld_mk _ _ _ hl (by omega)

theorem RoundTrip.maxu (d : BitVec 5) (a : BitVec 5) (b : BitVec 5) : RoundTrip.Statement (.maxu d a b) := by
  intro hw _
  have := d.isLt; have := a.isLt; have := b.isLt
  simp only [encode, Instr.params, Instr.word]
  generalize hn : 0x0400000D + d.toNat * 2097152 + a.toNat * 65536 + b.toNat * 2048 = n
  have hl : n < 4294967296 := by omega
  have hm : fldN (mkWord n) 26 6 = 0x01 := fldN_is hl (by omega)
  have c0_11 : fldN (mkWord n) 0 11 = 13 := fldN_is hl (by omega)
  refine one_of hm rfl ?_
  simp only [decodeOne, hm, decodeMajor01, c0_11, Nat.reduceEqDiff, reduceIte, and_true, true_and, and_false, false_and, and_self]
  congr 2 <;> exact fld_mk _ _ _ hl (by omega)

theorem RoundTrip.mul (d : BitVec 5) (a : BitVec 5) (b : BitVec 5) : RoundTrip.Statement (.mul d a b) := by
  intro hw _
  have := d.isLt; have := a.isLt; have := b.isLt
  simp only [encode, Instr.params, Instr.word]
  generalize hn : 0x08000000 + d.toNat * 2097152 + a.toNat * 65536 + b.toNat * 2048 = n
  have hl : n < 4294967296 := by omega
  have hm : fldN (mkWord n) 26 6 = 0x02 := fldN_is hl (by omega)
  have c0_11 : fldN (mkWord n) 0 11 = 0 := fldN_is hl (by omega)
  refine one_of hm rfl ?_
  simp only [decodeOne, hm, decodeMajor02, c0_11, Nat.reduceEqDiff, reduceIte, and_true, true_and, and_false, false_and, and_self]
  congr 2 <;> exact fld_mk _ _ _ hl (by omega)

theorem RoundTrip.mulh (d : BitVec 5) (a : BitVec 5) (b : BitVec 5) : RoundTrip.Statement (.mulh d a b) := by
  intro hw _
  have := d.isLt; have := a.isLt; have := b.isLt
  simp only [encode, Instr.params, Instr.word]
  generalize hn : 0x08000001 + d.toNat * 2097152 + a.toNat * 65536 + b.toNat * 2048 = n
  have hl : n < 4294967296 := by omega
  have hm : fldN (mkWord n) 26 6 = 0x02 := fldN_is hl (by omega)
  have c0_11 : fldN (mkWord n) 0 11 = 1 := fldN_is hl (by omega)
  refine one_of hm rfl ?_
  simp only [decodeOne, hm, decodeMajor02, c0_11, Nat.reduceEqDiff, reduceIte, and_true, true_and, and_false, false_and, and_self]
  congr 2 <;> exact fld_mk _ _ _ hl (by omega)

theorem RoundTrip.mulhu (d : BitVec 5) (a : BitVec 5) (b : BitVec 5) : RoundTrip.Statement (.mulhu d a b) := by
  intro hw _
  have := d.isLt; have := a.isLt; have := b.isLt
  simp only [encode, Instr.params, Instr.word]
  generalize hn : 0x08000002 + d.toNat * 2097152 + a.toNat * 65536 + b.toNat * 2048 = n
  have hl : n < 4294967296 := by omega
  have hm : fldN (mkWord n) 26 6 = 0x02 := fldN_is hl (by omega)
  have c0_11 : fldN (mkWord n) 0 11 = 2 := fldN_is hl (by omega)
  refine one_of hm rfl ?_
  simp only [decodeOne, hm, decodeMajor02, c0_11, Nat.reduceEqDiff, reduceIte, and_true, true_and, and_false, false_and, and_self]
  congr 2 <;> exact fld_mk _ _ _ hl (by omega)

theorem RoundTrip.div (d : BitVec 5) (a : BitVec 5) (b : BitVec 5) : RoundTrip.Statement (.div d a b) := by
  intro hw _
  have := d.isLt; have := a.isLt; have := b.isLt
  simp only [encode, Instr.params, Instr.word]
  generalize hn : 0x08000003 + d.toNat * 2097152 + a.toNat * 65536 + b.toNat * 2048 = n
  have hl : n < 4294967296 := by omega
  have hm : fldN (mkWord n) 26 6 = 0x02 := fldN_is hl (by omega)
  have c0_11 : fldN (mkWord n) 0 11 = 3 := fldN_is hl (by omega)
  refine one_of hm rfl ?_
  simp only [decodeOne, hm, decodeMajor02, c0_11, Nat.reduceEqDiff, reduceIte, and_true, true_and, and_false, false_and, and_self]
  congr 2 <;> exact fld_mk _ _ _ hl (by omega)

theorem RoundTrip.divu (d : BitVec 5) (a : BitVec 5) (b : BitVec 5) : RoundTrip.Statement (.divu d a b) := by
  intro hw _
  have := d.isLt; have := a.isLt; have := b.isLt
  simp only [encode, Instr.params, Instr.word]
  generalize hn : 0x08000004 + d.toNat * 2097152 + a.toNat * 65536 + b.toNat * 2048 = n
  have hl : n < 4294967296 := by omega
  have hm : fldN (mkWord n) 26 6 = 0x02 := fldN_is hl (by omega)
  have c0_11 : fldN (mkWord n) 0 11 = 4 := fldN_is hl (by omega)
  refine one_of hm rfl ?_
  simp only [decodeOne, hm, decodeMajor02, c0_11, Nat.reduceEqDiff, reduceIte, and_true, true_and, and_false, false_and, and_self]
  congr 2 <;> exact fld_mk _ _ _ hl (by omega)

theorem RoundTrip.rem (d : BitVec 5) (a : BitVec 5) (b : BitVec 5) : RoundTrip.Statement (.rem d a b) := by
  intro hw _
  have := d.isLt; have := a.isLt; have := b.isLt
  simp only [encode, Instr.params, Instr.word]
  generalize hn : 0x08000005 + d.toNat * 2097152 + a.toNat * 65536 + b.toNat * 2048 = n
  have hl : n < 4294967296 := by omega
  have hm : fldN (mkWord n) 26 6 = 0x02 := fldN_is hl (by omega)
  have c0_11 : fldN (mkWord n) 0 11 = 5 := fldN_is hl (by omega)
  refine one_of hm rfl ?_
  simp only [decodeOne, hm, decodeMajor02, c0_11, Nat.reduceEqDiff, reduceIte, and_true, true_and, and_false, false_and, and_self]
  congr 2 <;> exact fld_mk _ _ _ hl (by omega)

theorem RoundTrip.remu (d : BitVec 5) (a : BitVec 5) (b : BitVec 5) : RoundTrip.Statement (.remu d a b) := by
  intro hw _
  have := d.isLt; have := a.isLt; have := b.isLt
  simp only [encode, Instr.params, Instr.word]
  generalize hn : 0x08000006 + d.toNat * 2097152 + a.toNat * 65536 + b.toNat * 2048 = n
  have hl : n < 4294967296 := by omega
  have hm : fldN (mkWord n) 26 6 = 0x02 := fldN_is hl (by omega)
  have c0_11 : fldN (mkWord n) 0 11 = 6 := fldN_is hl (by omega)
  refine one_of hm rfl ?_
  simp only [decodeOne, hm, decodeMajor02, c0_11, Nat.reduceEqDiff, reduceIte, and_true, true_and, and_false, false_and, and_self]
  congr 2 <;> exact fld_mk _ _ _ hl (by omega)

theorem RoundTrip.clz (d : BitVec 5) (a : BitVec 5) : RoundTrip.Statement (.clz d a) := by
  intro hw _
  have := d.isLt; have := a.isLt
  simp only [encode, Instr.params, Instr.word]
  generalize hn : 0x0C000000 + d.toNat * 2097152 + a.toNat * 65536 = n
  have hl : n < 4294967296 := by omega
  have hm : fldN (mkWord n) 26 6 = 0x03 := fldN_is hl (by omega)
  have c0_6 : fldN (mkWord n) 0 6 = 0 := fldN_is hl (by omega)
  have c0_16 : fldN (mkWord n) 0 16 = 0 := fldN_is hl (by omega)
  refine one_of hm rfl ?_
  simp only [decodeOne, hm, decodeMajor03, c0_6, c0_16, Nat.reduceEqDiff, reduceIte, and_true, true_and, and_false, false_and, and_self]
  congr 2 <;> exact fld_mk _ _ _ hl (by omega)

theorem RoundTrip.ctz (d : BitVec 5) (a : BitVec 5) : RoundTrip.Statement (.ctz d a) := by
  intro hw _
  have := d.isLt; have := a.isLt
  simp only [encode, Instr.params, Instr.word]
  generalize hn : 0x0C000001 + d.toNat * 2097152 + a.toNat * 65536 = n
  have hl : n < 4294967296 := by omega
  have hm : fldN (mkWord n) 26 6 = 0x03 := fldN_is hl (by omega)
  have c0_6 : fldN (mkWord n) 0 6 = 1 := fldN_is hl (by omega)
  have c0_16 : fldN (mkWord n) 0 16 = 1 := fldN_is hl (by omega)
  refine one_of hm rfl ?_
  simp only [decodeOne, hm, decodeMajor03, c0_6, c0_16, Nat.reduceEqDiff, reduceIte, and_true, true_and, and_false, false_and, and_self]
  congr 2 <;> exact fld_mk _ _ _ hl (by omega)

theorem RoundTrip.popc (d : BitVec 5) (a : BitVec 5) : RoundTrip.Statement (.popc d a) := by
  intro hw _
  have := d.isLt; have := a.isLt
  simp only [encode, Instr.params, Instr.word]
  generalize hn : 0x0C000002 + d.toNat * 2097152 + a.toNat * 65536 = n
  have hl : n < 4294967296 := by omega
  have hm : fldN (mkWord n) 26 6 = 0x03 := fldN_is hl (by omega)
  have c0_6 : fldN (mkWord n) 0 6 = 2 := fldN_is hl (by omega)
  have c0_16 : fldN (mkWord n) 0 16 = 2 := fldN_is hl (by omega)
  refine one_of hm rfl ?_
  simp only [decodeOne, hm, decodeMajor03, c0_6, c0_16, Nat.reduceEqDiff, reduceIte, and_true, true_and, and_false, false_and, and_self]
  congr 2 <;> exact fld_mk _ _ _ hl (by omega)

theorem RoundTrip.sel (d : BitVec 5) (a : BitVec 5) (b : BitVec 5) (c : BitVec 5) : RoundTrip.Statement (.sel d a b c) := by
  intro hw _
  have := d.isLt; have := a.isLt; have := b.isLt; have := c.isLt
  simp only [encode, Instr.params, Instr.word]
  generalize hn : 0x0C000003 + d.toNat * 2097152 + a.toNat * 65536 + b.toNat * 2048 + c.toNat * 64 = n
  have hl : n < 4294967296 := by omega
  have hm : fldN (mkWord n) 26 6 = 0x03 := fldN_is hl (by omega)
  have c0_6 : fldN (mkWord n) 0 6 = 3 := fldN_is hl (by omega)
  refine one_of hm rfl ?_
  simp only [decodeOne, hm, decodeMajor03, c0_6, Nat.reduceEqDiff, reduceIte, and_true, true_and, and_false, false_and, and_self]
  rw [if_neg (by rw [fldN_mk _ _ _ hl]; omega)]
  rw [if_neg (by rw [fldN_mk _ _ _ hl]; omega)]
  rw [if_neg (by rw [fldN_mk _ _ _ hl]; omega)]
  congr 2 <;> exact fld_mk _ _ _ hl (by omega)

theorem RoundTrip.addi (d : BitVec 5) (a : BitVec 5) (i : BitVec 16) : RoundTrip.Statement (.addi d a i) := by
  intro hw _
  have := d.isLt; have := a.isLt; have := i.isLt
  simp only [encode, Instr.params, Instr.word]
  generalize hn : 0x10000000 + d.toNat * 2097152 + a.toNat * 65536 + i.toNat = n
  have hl : n < 4294967296 := by omega
  have hm : fldN (mkWord n) 26 6 = 0x04 := fldN_is hl (by omega)
  refine one_of hm rfl ?_
  simp only [decodeOne, hm, decodeMajor04]
  congr 2 <;> exact fld_mk _ _ _ hl (by omega)

theorem RoundTrip.andi (d : BitVec 5) (a : BitVec 5) (i : BitVec 16) : RoundTrip.Statement (.andi d a i) := by
  intro hw _
  have := d.isLt; have := a.isLt; have := i.isLt
  simp only [encode, Instr.params, Instr.word]
  generalize hn : 0x14000000 + d.toNat * 2097152 + a.toNat * 65536 + i.toNat = n
  have hl : n < 4294967296 := by omega
  have hm : fldN (mkWord n) 26 6 = 0x05 := fldN_is hl (by omega)
  refine one_of hm rfl ?_
  simp only [decodeOne, hm, decodeMajor05]
  congr 2 <;> exact fld_mk _ _ _ hl (by omega)

theorem RoundTrip.ori (d : BitVec 5) (a : BitVec 5) (i : BitVec 16) : RoundTrip.Statement (.ori d a i) := by
  intro hw _
  have := d.isLt; have := a.isLt; have := i.isLt
  simp only [encode, Instr.params, Instr.word]
  generalize hn : 0x18000000 + d.toNat * 2097152 + a.toNat * 65536 + i.toNat = n
  have hl : n < 4294967296 := by omega
  have hm : fldN (mkWord n) 26 6 = 0x06 := fldN_is hl (by omega)
  refine one_of hm rfl ?_
  simp only [decodeOne, hm, decodeMajor06]
  congr 2 <;> exact fld_mk _ _ _ hl (by omega)

theorem RoundTrip.xori (d : BitVec 5) (a : BitVec 5) (i : BitVec 16) : RoundTrip.Statement (.xori d a i) := by
  intro hw _
  have := d.isLt; have := a.isLt; have := i.isLt
  simp only [encode, Instr.params, Instr.word]
  generalize hn : 0x1C000000 + d.toNat * 2097152 + a.toNat * 65536 + i.toNat = n
  have hl : n < 4294967296 := by omega
  have hm : fldN (mkWord n) 26 6 = 0x07 := fldN_is hl (by omega)
  refine one_of hm rfl ?_
  simp only [decodeOne, hm, decodeMajor07]
  congr 2 <;> exact fld_mk _ _ _ hl (by omega)

theorem RoundTrip.slti (d : BitVec 5) (a : BitVec 5) (i : BitVec 16) : RoundTrip.Statement (.slti d a i) := by
  intro hw _
  have := d.isLt; have := a.isLt; have := i.isLt
  simp only [encode, Instr.params, Instr.word]
  generalize hn : 0x20000000 + d.toNat * 2097152 + a.toNat * 65536 + i.toNat = n
  have hl : n < 4294967296 := by omega
  have hm : fldN (mkWord n) 26 6 = 0x08 := fldN_is hl (by omega)
  refine one_of hm rfl ?_
  simp only [decodeOne, hm, decodeMajor08]
  congr 2 <;> exact fld_mk _ _ _ hl (by omega)

theorem RoundTrip.sltiu (d : BitVec 5) (a : BitVec 5) (i : BitVec 16) : RoundTrip.Statement (.sltiu d a i) := by
  intro hw _
  have := d.isLt; have := a.isLt; have := i.isLt
  simp only [encode, Instr.params, Instr.word]
  generalize hn : 0x24000000 + d.toNat * 2097152 + a.toNat * 65536 + i.toNat = n
  have hl : n < 4294967296 := by omega
  have hm : fldN (mkWord n) 26 6 = 0x09 := fldN_is hl (by omega)
  refine one_of hm rfl ?_
  simp only [decodeOne, hm, decodeMajor09]
  congr 2 <;> exact fld_mk _ _ _ hl (by omega)

theorem RoundTrip.slli (d : BitVec 5) (a : BitVec 5) (n : BitVec 6) : RoundTrip.Statement (.slli d a n) := by
  intro hw _
  have := d.isLt; have := a.isLt; have := n.isLt
  simp only [encode, Instr.params, Instr.word]
  generalize hn : 0x28000000 + d.toNat * 2097152 + a.toNat * 65536 + n.toNat = n
  have hl : n < 4294967296 := by omega
  have hm : fldN (mkWord n) 26 6 = 0x0A := fldN_is hl (by omega)
  have c6_10 : fldN (mkWord n) 6 10 = 0 := fldN_is hl (by omega)
  have c12_4 : fldN (mkWord n) 12 4 = 0 := fldN_is hl (by omega)
  refine one_of hm rfl ?_
  simp only [decodeOne, hm, decodeMajor0A, c6_10, c12_4, Nat.reduceEqDiff, reduceIte, and_true, true_and, and_false, false_and, and_self]
  congr 2 <;> exact fld_mk _ _ _ hl (by omega)

theorem RoundTrip.srli (d : BitVec 5) (a : BitVec 5) (n : BitVec 6) : RoundTrip.Statement (.srli d a n) := by
  intro hw _
  have := d.isLt; have := a.isLt; have := n.isLt
  simp only [encode, Instr.params, Instr.word]
  generalize hn : 0x28004000 + d.toNat * 2097152 + a.toNat * 65536 + n.toNat = n
  have hl : n < 4294967296 := by omega
  have hm : fldN (mkWord n) 26 6 = 0x0A := fldN_is hl (by omega)
  have c6_10 : fldN (mkWord n) 6 10 = 256 := fldN_is hl (by omega)
  have c12_4 : fldN (mkWord n) 12 4 = 4 := fldN_is hl (by omega)
  refine one_of hm rfl ?_
  simp only [decodeOne, hm, decodeMajor0A, c6_10, c12_4, Nat.reduceEqDiff, reduceIte, and_true, true_and, and_false, false_and, and_self]
  congr 2 <;> exact fld_mk _ _ _ hl (by omega)

theorem RoundTrip.srai (d : BitVec 5) (a : BitVec 5) (n : BitVec 6) : RoundTrip.Statement (.srai d a n) := by
  intro hw _
  have := d.isLt; have := a.isLt; have := n.isLt
  simp only [encode, Instr.params, Instr.word]
  generalize hn : 0x28008000 + d.toNat * 2097152 + a.toNat * 65536 + n.toNat = n
  have hl : n < 4294967296 := by omega
  have hm : fldN (mkWord n) 26 6 = 0x0A := fldN_is hl (by omega)
  have c6_10 : fldN (mkWord n) 6 10 = 512 := fldN_is hl (by omega)
  have c12_4 : fldN (mkWord n) 12 4 = 8 := fldN_is hl (by omega)
  refine one_of hm rfl ?_
  simp only [decodeOne, hm, decodeMajor0A, c6_10, c12_4, Nat.reduceEqDiff, reduceIte, and_true, true_and, and_false, false_and, and_self]
  congr 2 <;> exact fld_mk _ _ _ hl (by omega)

theorem RoundTrip.extr (d : BitVec 5) (a : BitVec 5) (w : BitVec 6) (p : BitVec 6) : RoundTrip.Statement (.extr d a w p) := by
  intro hw _
  have := d.isLt; have := a.isLt; have := w.isLt; have := p.isLt
  simp only [encode, Instr.params, Instr.word]
  generalize hn : 0x2800C000 + d.toNat * 2097152 + a.toNat * 65536 + w.toNat * 64 + p.toNat = n
  have hl : n < 4294967296 := by omega
  have hm : fldN (mkWord n) 26 6 = 0x0A := fldN_is hl (by omega)
  have c12_4 : fldN (mkWord n) 12 4 = 12 := fldN_is hl (by omega)
  refine one_of hm rfl ?_
  simp only [decodeOne, hm, decodeMajor0A, c12_4, Nat.reduceEqDiff, reduceIte, and_true, true_and, and_false, false_and, and_self]
  rw [if_neg (by rw [fldN_mk _ _ _ hl]; omega)]
  rw [if_neg (by rw [fldN_mk _ _ _ hl]; omega)]
  rw [if_neg (by rw [fldN_mk _ _ _ hl]; omega)]
  congr 2 <;> exact fld_mk _ _ _ hl (by omega)

theorem RoundTrip.insr (d : BitVec 5) (a : BitVec 5) (w : BitVec 6) (p : BitVec 6) : RoundTrip.Statement (.insr d a w p) := by
  intro hw _
  have := d.isLt; have := a.isLt; have := w.isLt; have := p.isLt
  simp only [encode, Instr.params, Instr.word]
  generalize hn : 0x2800E000 + d.toNat * 2097152 + a.toNat * 65536 + w.toNat * 64 + p.toNat = n
  have hl : n < 4294967296 := by omega
  have hm : fldN (mkWord n) 26 6 = 0x0A := fldN_is hl (by omega)
  have c12_4 : fldN (mkWord n) 12 4 = 14 := fldN_is hl (by omega)
  refine one_of hm rfl ?_
  simp only [decodeOne, hm, decodeMajor0A, c12_4, Nat.reduceEqDiff, reduceIte, and_true, true_and, and_false, false_and, and_self]
  rw [if_neg (by rw [fldN_mk _ _ _ hl]; omega)]
  rw [if_neg (by rw [fldN_mk _ _ _ hl]; omega)]
  rw [if_neg (by rw [fldN_mk _ _ _ hl]; omega)]
  congr 2 <;> exact fld_mk _ _ _ hl (by omega)

theorem RoundTrip.lui (d : BitVec 5) (i : BitVec 16) : RoundTrip.Statement (.lui d i) := by
  intro hw _
  have := d.isLt; have := i.isLt
  simp only [encode, Instr.params, Instr.word]
  generalize hn : 0x2C000000 + d.toNat * 2097152 + i.toNat = n
  have hl : n < 4294967296 := by omega
  have hm : fldN (mkWord n) 26 6 = 0x0B := fldN_is hl (by omega)
  have c16_5 : fldN (mkWord n) 16 5 = 0 := fldN_is hl (by omega)
  refine one_of hm rfl ?_
  simp only [decodeOne, hm, decodeMajor0B, c16_5, Nat.reduceEqDiff, reduceIte, and_true, true_and, and_false, false_and, and_self]
  congr 2 <;> exact fld_mk _ _ _ hl (by omega)

theorem RoundTrip.addpc (d : BitVec 5) (i : BitVec 16) : RoundTrip.Statement (.addpc d i) := by
  intro hw _
  have := d.isLt; have := i.isLt
  simp only [encode, Instr.params, Instr.word]
  generalize hn : 0x30000000 + d.toNat * 2097152 + i.toNat = n
  have hl : n < 4294967296 := by omega
  have hm : fldN (mkWord n) 26 6 = 0x0C := fldN_is hl (by omega)
  have c16_5 : fldN (mkWord n) 16 5 = 0 := fldN_is hl (by omega)
  refine one_of hm rfl ?_
  simp only [decodeOne, hm, decodeMajor0C, c16_5, Nat.reduceEqDiff, reduceIte, and_true, true_and, and_false, false_and, and_self]
  congr 2 <;> exact fld_mk _ _ _ hl (by omega)

theorem RoundTrip.beq (a : BitVec 5) (b : BitVec 5) (i : BitVec 16) : RoundTrip.Statement (.beq a b i) := by
  intro hw _
  have := a.isLt; have := b.isLt; have := i.isLt
  simp only [encode, Instr.params, Instr.word]
  generalize hn : 0x40000000 + a.toNat * 2097152 + b.toNat * 65536 + i.toNat = n
  have hl : n < 4294967296 := by omega
  have hm : fldN (mkWord n) 26 6 = 0x10 := fldN_is hl (by omega)
  refine one_of hm rfl ?_
  simp only [decodeOne, hm, decodeMajor10]
  congr 2 <;> exact fld_mk _ _ _ hl (by omega)

theorem RoundTrip.bne (a : BitVec 5) (b : BitVec 5) (i : BitVec 16) : RoundTrip.Statement (.bne a b i) := by
  intro hw _
  have := a.isLt; have := b.isLt; have := i.isLt
  simp only [encode, Instr.params, Instr.word]
  generalize hn : 0x44000000 + a.toNat * 2097152 + b.toNat * 65536 + i.toNat = n
  have hl : n < 4294967296 := by omega
  have hm : fldN (mkWord n) 26 6 = 0x11 := fldN_is hl (by omega)
  refine one_of hm rfl ?_
  simp only [decodeOne, hm, decodeMajor11]
  congr 2 <;> exact fld_mk _ _ _ hl (by omega)

theorem RoundTrip.blt (a : BitVec 5) (b : BitVec 5) (i : BitVec 16) : RoundTrip.Statement (.blt a b i) := by
  intro hw _
  have := a.isLt; have := b.isLt; have := i.isLt
  simp only [encode, Instr.params, Instr.word]
  generalize hn : 0x48000000 + a.toNat * 2097152 + b.toNat * 65536 + i.toNat = n
  have hl : n < 4294967296 := by omega
  have hm : fldN (mkWord n) 26 6 = 0x12 := fldN_is hl (by omega)
  refine one_of hm rfl ?_
  simp only [decodeOne, hm, decodeMajor12]
  congr 2 <;> exact fld_mk _ _ _ hl (by omega)

theorem RoundTrip.bge (a : BitVec 5) (b : BitVec 5) (i : BitVec 16) : RoundTrip.Statement (.bge a b i) := by
  intro hw _
  have := a.isLt; have := b.isLt; have := i.isLt
  simp only [encode, Instr.params, Instr.word]
  generalize hn : 0x4C000000 + a.toNat * 2097152 + b.toNat * 65536 + i.toNat = n
  have hl : n < 4294967296 := by omega
  have hm : fldN (mkWord n) 26 6 = 0x13 := fldN_is hl (by omega)
  refine one_of hm rfl ?_
  simp only [decodeOne, hm, decodeMajor13]
  congr 2 <;> exact fld_mk _ _ _ hl (by omega)

theorem RoundTrip.bltu (a : BitVec 5) (b : BitVec 5) (i : BitVec 16) : RoundTrip.Statement (.bltu a b i) := by
  intro hw _
  have := a.isLt; have := b.isLt; have := i.isLt
  simp only [encode, Instr.params, Instr.word]
  generalize hn : 0x50000000 + a.toNat * 2097152 + b.toNat * 65536 + i.toNat = n
  have hl : n < 4294967296 := by omega
  have hm : fldN (mkWord n) 26 6 = 0x14 := fldN_is hl (by omega)
  refine one_of hm rfl ?_
  simp only [decodeOne, hm, decodeMajor14]
  congr 2 <;> exact fld_mk _ _ _ hl (by omega)

theorem RoundTrip.bgeu (a : BitVec 5) (b : BitVec 5) (i : BitVec 16) : RoundTrip.Statement (.bgeu a b i) := by
  intro hw _
  have := a.isLt; have := b.isLt; have := i.isLt
  simp only [encode, Instr.params, Instr.word]
  generalize hn : 0x54000000 + a.toNat * 2097152 + b.toNat * 65536 + i.toNat = n
  have hl : n < 4294967296 := by omega
  have hm : fldN (mkWord n) 26 6 = 0x15 := fldN_is hl (by omega)
  refine one_of hm rfl ?_
  simp only [decodeOne, hm, decodeMajor15]
  congr 2 <;> exact fld_mk _ _ _ hl (by omega)

theorem RoundTrip.jal (d : BitVec 5) (i : BitVec 21) : RoundTrip.Statement (.jal d i) := by
  intro hw _
  have := d.isLt; have := i.isLt
  simp only [encode, Instr.params, Instr.word]
  generalize hn : 0x58000000 + d.toNat * 2097152 + i.toNat = n
  have hl : n < 4294967296 := by omega
  have hm : fldN (mkWord n) 26 6 = 0x16 := fldN_is hl (by omega)
  refine one_of hm rfl ?_
  simp only [decodeOne, hm, decodeMajor16]
  congr 2 <;> exact fld_mk _ _ _ hl (by omega)

theorem RoundTrip.jalr (d : BitVec 5) (a : BitVec 5) (i : BitVec 16) : RoundTrip.Statement (.jalr d a i) := by
  intro hw _
  have := d.isLt; have := a.isLt; have := i.isLt
  simp only [encode, Instr.params, Instr.word]
  generalize hn : 0x5C000000 + d.toNat * 2097152 + a.toNat * 65536 + i.toNat = n
  have hl : n < 4294967296 := by omega
  have hm : fldN (mkWord n) 26 6 = 0x17 := fldN_is hl (by omega)
  refine one_of hm rfl ?_
  simp only [decodeOne, hm, decodeMajor17]
  congr 2 <;> exact fld_mk _ _ _ hl (by omega)

theorem RoundTrip.bst (c : BitVec 3) (i : BitVec 16) : RoundTrip.Statement (.bst c i) := by
  intro hw _
  have := c.isLt; have := i.isLt
  simp only [encode, Instr.params, Instr.word]
  generalize hn : 0x60000000 + c.toNat * 2097152 + i.toNat = n
  have hl : n < 4294967296 := by omega
  have hm : fldN (mkWord n) 26 6 = 0x18 := fldN_is hl (by omega)
  have c16_5 : fldN (mkWord n) 16 5 = 0 := fldN_is hl (by omega)
  have c24_2 : fldN (mkWord n) 24 2 = 0 := fldN_is hl (by omega)
  refine one_of hm rfl ?_
  simp only [decodeOne, hm, decodeMajor18, c16_5, c24_2, Nat.reduceEqDiff, reduceIte, and_true, true_and, and_false, false_and, and_self]
  congr 2 <;> exact fld_mk _ _ _ hl (by omega)

theorem RoundTrip.bstN (c : BitVec 3) (i : BitVec 16) : RoundTrip.Statement (.bstN c i) := by
  intro hw _
  have := c.isLt; have := i.isLt
  simp only [encode, Instr.params, Instr.word]
  generalize hn : 0x61000000 + c.toNat * 2097152 + i.toNat = n
  have hl : n < 4294967296 := by omega
  have hm : fldN (mkWord n) 26 6 = 0x18 := fldN_is hl (by omega)
  have c16_5 : fldN (mkWord n) 16 5 = 0 := fldN_is hl (by omega)
  have c24_2 : fldN (mkWord n) 24 2 = 1 := fldN_is hl (by omega)
  refine one_of hm rfl ?_
  simp only [decodeOne, hm, decodeMajor18, c16_5, c24_2, Nat.reduceEqDiff, reduceIte, and_true, true_and, and_false, false_and, and_self]
  congr 2 <;> exact fld_mk _ _ _ hl (by omega)

theorem RoundTrip.fadd (d : BitVec 5) (a : BitVec 5) (b : BitVec 5) (m : BitVec 3) : RoundTrip.Statement (.fadd d a b m) := by
  intro hw _
  have := d.isLt; have := a.isLt; have := b.isLt; have := m.isLt
  simp only [encode, Instr.params, Instr.word]
  generalize hn : 0xA0000000 + d.toNat * 2097152 + a.toNat * 65536 + b.toNat * 2048 + m.toNat * 256 = n
  have hl : n < 4294967296 := by omega
  have hm : fldN (mkWord n) 26 6 = 0x28 := fldN_is hl (by omega)
  have c0_5 : fldN (mkWord n) 0 5 = 0 := fldN_is hl (by omega)
  have c0_8 : fldN (mkWord n) 0 8 = 0 := fldN_is hl (by omega)
  refine one_of hm rfl ?_
  simp only [decodeOne, hm, decodeMajor28, c0_5, c0_8, Nat.reduceEqDiff, reduceIte, and_true, true_and, and_false, false_and, and_self]
  congr 2 <;> exact fld_mk _ _ _ hl (by omega)

theorem RoundTrip.fsub (d : BitVec 5) (a : BitVec 5) (b : BitVec 5) (m : BitVec 3) : RoundTrip.Statement (.fsub d a b m) := by
  intro hw _
  have := d.isLt; have := a.isLt; have := b.isLt; have := m.isLt
  simp only [encode, Instr.params, Instr.word]
  generalize hn : 0xA0000001 + d.toNat * 2097152 + a.toNat * 65536 + b.toNat * 2048 + m.toNat * 256 = n
  have hl : n < 4294967296 := by omega
  have hm : fldN (mkWord n) 26 6 = 0x28 := fldN_is hl (by omega)
  have c0_5 : fldN (mkWord n) 0 5 = 1 := fldN_is hl (by omega)
  have c0_8 : fldN (mkWord n) 0 8 = 1 := fldN_is hl (by omega)
  refine one_of hm rfl ?_
  simp only [decodeOne, hm, decodeMajor28, c0_5, c0_8, Nat.reduceEqDiff, reduceIte, and_true, true_and, and_false, false_and, and_self]
  congr 2 <;> exact fld_mk _ _ _ hl (by omega)

theorem RoundTrip.fmul (d : BitVec 5) (a : BitVec 5) (b : BitVec 5) (m : BitVec 3) : RoundTrip.Statement (.fmul d a b m) := by
  intro hw _
  have := d.isLt; have := a.isLt; have := b.isLt; have := m.isLt
  simp only [encode, Instr.params, Instr.word]
  generalize hn : 0xA0000002 + d.toNat * 2097152 + a.toNat * 65536 + b.toNat * 2048 + m.toNat * 256 = n
  have hl : n < 4294967296 := by omega
  have hm : fldN (mkWord n) 26 6 = 0x28 := fldN_is hl (by omega)
  have c0_5 : fldN (mkWord n) 0 5 = 2 := fldN_is hl (by omega)
  have c0_8 : fldN (mkWord n) 0 8 = 2 := fldN_is hl (by omega)
  refine one_of hm rfl ?_
  simp only [decodeOne, hm, decodeMajor28, c0_5, c0_8, Nat.reduceEqDiff, reduceIte, and_true, true_and, and_false, false_and, and_self]
  congr 2 <;> exact fld_mk _ _ _ hl (by omega)

theorem RoundTrip.fdiv (d : BitVec 5) (a : BitVec 5) (b : BitVec 5) (m : BitVec 3) : RoundTrip.Statement (.fdiv d a b m) := by
  intro hw _
  have := d.isLt; have := a.isLt; have := b.isLt; have := m.isLt
  simp only [encode, Instr.params, Instr.word]
  generalize hn : 0xA0000003 + d.toNat * 2097152 + a.toNat * 65536 + b.toNat * 2048 + m.toNat * 256 = n
  have hl : n < 4294967296 := by omega
  have hm : fldN (mkWord n) 26 6 = 0x28 := fldN_is hl (by omega)
  have c0_5 : fldN (mkWord n) 0 5 = 3 := fldN_is hl (by omega)
  have c0_8 : fldN (mkWord n) 0 8 = 3 := fldN_is hl (by omega)
  refine one_of hm rfl ?_
  simp only [decodeOne, hm, decodeMajor28, c0_5, c0_8, Nat.reduceEqDiff, reduceIte, and_true, true_and, and_false, false_and, and_self]
  congr 2 <;> exact fld_mk _ _ _ hl (by omega)

theorem RoundTrip.fsqrt (d : BitVec 5) (a : BitVec 5) (m : BitVec 3) : RoundTrip.Statement (.fsqrt d a m) := by
  intro hw _
  have := d.isLt; have := a.isLt; have := m.isLt
  simp only [encode, Instr.params, Instr.word]
  generalize hn : 0xA0000004 + d.toNat * 2097152 + a.toNat * 65536 + m.toNat * 256 = n
  have hl : n < 4294967296 := by omega
  have hm : fldN (mkWord n) 26 6 = 0x28 := fldN_is hl (by omega)
  have c0_5 : fldN (mkWord n) 0 5 = 4 := fldN_is hl (by omega)
  have c0_8 : fldN (mkWord n) 0 8 = 4 := fldN_is hl (by omega)
  have c11_5 : fldN (mkWord n) 11 5 = 0 := fldN_is hl (by omega)
  refine one_of hm rfl ?_
  simp only [decodeOne, hm, decodeMajor28, c0_5, c0_8, c11_5, Nat.reduceEqDiff, reduceIte, and_true, true_and, and_false, false_and, and_self]
  congr 2 <;> exact fld_mk _ _ _ hl (by omega)

theorem RoundTrip.fmin (d : BitVec 5) (a : BitVec 5) (b : BitVec 5) : RoundTrip.Statement (.fmin d a b) := by
  intro hw _
  have := d.isLt; have := a.isLt; have := b.isLt
  simp only [encode, Instr.params, Instr.word]
  generalize hn : 0xA0000005 + d.toNat * 2097152 + a.toNat * 65536 + b.toNat * 2048 = n
  have hl : n < 4294967296 := by omega
  have hm : fldN (mkWord n) 26 6 = 0x28 := fldN_is hl (by omega)
  have c0_5 : fldN (mkWord n) 0 5 = 5 := fldN_is hl (by omega)
  have c0_8 : fldN (mkWord n) 0 8 = 5 := fldN_is hl (by omega)
  have c0_11 : fldN (mkWord n) 0 11 = 5 := fldN_is hl (by omega)
  have c8_3 : fldN (mkWord n) 8 3 = 0 := fldN_is hl (by omega)
  refine one_of hm rfl ?_
  simp only [decodeOne, hm, decodeMajor28, c0_5, c0_8, c0_11, c8_3, Nat.reduceEqDiff, reduceIte, and_true, true_and, and_false, false_and, and_self]
  congr 2 <;> exact fld_mk _ _ _ hl (by omega)

theorem RoundTrip.fmax (d : BitVec 5) (a : BitVec 5) (b : BitVec 5) : RoundTrip.Statement (.fmax d a b) := by
  intro hw _
  have := d.isLt; have := a.isLt; have := b.isLt
  simp only [encode, Instr.params, Instr.word]
  generalize hn : 0xA0000006 + d.toNat * 2097152 + a.toNat * 65536 + b.toNat * 2048 = n
  have hl : n < 4294967296 := by omega
  have hm : fldN (mkWord n) 26 6 = 0x28 := fldN_is hl (by omega)
  have c0_5 : fldN (mkWord n) 0 5 = 6 := fldN_is hl (by omega)
  have c0_8 : fldN (mkWord n) 0 8 = 6 := fldN_is hl (by omega)
  have c0_11 : fldN (mkWord n) 0 11 = 6 := fldN_is hl (by omega)
  have c8_3 : fldN (mkWord n) 8 3 = 0 := fldN_is hl (by omega)
  refine one_of hm rfl ?_
  simp only [decodeOne, hm, decodeMajor28, c0_5, c0_8, c0_11, c8_3, Nat.reduceEqDiff, reduceIte, and_true, true_and, and_false, false_and, and_self]
  congr 2 <;> exact fld_mk _ _ _ hl (by omega)

theorem RoundTrip.feq (d : BitVec 5) (a : BitVec 5) (b : BitVec 5) : RoundTrip.Statement (.feq d a b) := by
  intro hw _
  have := d.isLt; have := a.isLt; have := b.isLt
  simp only [encode, Instr.params, Instr.word]
  generalize hn : 0xA0000007 + d.toNat * 2097152 + a.toNat * 65536 + b.toNat * 2048 = n
  have hl : n < 4294967296 := by omega
  have hm : fldN (mkWord n) 26 6 = 0x28 := fldN_is hl (by omega)
  have c0_5 : fldN (mkWord n) 0 5 = 7 := fldN_is hl (by omega)
  have c0_8 : fldN (mkWord n) 0 8 = 7 := fldN_is hl (by omega)
  have c0_11 : fldN (mkWord n) 0 11 = 7 := fldN_is hl (by omega)
  have c8_3 : fldN (mkWord n) 8 3 = 0 := fldN_is hl (by omega)
  refine one_of hm rfl ?_
  simp only [decodeOne, hm, decodeMajor28, c0_5, c0_8, c0_11, c8_3, Nat.reduceEqDiff, reduceIte, and_true, true_and, and_false, false_and, and_self]
  congr 2 <;> exact fld_mk _ _ _ hl (by omega)

theorem RoundTrip.flt (d : BitVec 5) (a : BitVec 5) (b : BitVec 5) : RoundTrip.Statement (.flt d a b) := by
  intro hw _
  have := d.isLt; have := a.isLt; have := b.isLt
  simp only [encode, Instr.params, Instr.word]
  generalize hn : 0xA0000008 + d.toNat * 2097152 + a.toNat * 65536 + b.toNat * 2048 = n
  have hl : n < 4294967296 := by omega
  have hm : fldN (mkWord n) 26 6 = 0x28 := fldN_is hl (by omega)
  have c0_5 : fldN (mkWord n) 0 5 = 8 := fldN_is hl (by omega)
  have c0_8 : fldN (mkWord n) 0 8 = 8 := fldN_is hl (by omega)
  have c0_11 : fldN (mkWord n) 0 11 = 8 := fldN_is hl (by omega)
  have c8_3 : fldN (mkWord n) 8 3 = 0 := fldN_is hl (by omega)
  refine one_of hm rfl ?_
  simp only [decodeOne, hm, decodeMajor28, c0_5, c0_8, c0_11, c8_3, Nat.reduceEqDiff, reduceIte, and_true, true_and, and_false, false_and, and_self]
  congr 2 <;> exact fld_mk _ _ _ hl (by omega)

theorem RoundTrip.fle (d : BitVec 5) (a : BitVec 5) (b : BitVec 5) : RoundTrip.Statement (.fle d a b) := by
  intro hw _
  have := d.isLt; have := a.isLt; have := b.isLt
  simp only [encode, Instr.params, Instr.word]
  generalize hn : 0xA0000009 + d.toNat * 2097152 + a.toNat * 65536 + b.toNat * 2048 = n
  have hl : n < 4294967296 := by omega
  have hm : fldN (mkWord n) 26 6 = 0x28 := fldN_is hl (by omega)
  have c0_5 : fldN (mkWord n) 0 5 = 9 := fldN_is hl (by omega)
  have c0_8 : fldN (mkWord n) 0 8 = 9 := fldN_is hl (by omega)
  have c0_11 : fldN (mkWord n) 0 11 = 9 := fldN_is hl (by omega)
  have c8_3 : fldN (mkWord n) 8 3 = 0 := fldN_is hl (by omega)
  refine one_of hm rfl ?_
  simp only [decodeOne, hm, decodeMajor28, c0_5, c0_8, c0_11, c8_3, Nat.reduceEqDiff, reduceIte, and_true, true_and, and_false, false_and, and_self]
  congr 2 <;> exact fld_mk _ _ _ hl (by omega)

theorem RoundTrip.fclass (d : BitVec 5) (a : BitVec 5) : RoundTrip.Statement (.fclass d a) := by
  intro hw _
  have := d.isLt; have := a.isLt
  simp only [encode, Instr.params, Instr.word]
  generalize hn : 0xA000000A + d.toNat * 2097152 + a.toNat * 65536 = n
  have hl : n < 4294967296 := by omega
  have hm : fldN (mkWord n) 26 6 = 0x28 := fldN_is hl (by omega)
  have c0_5 : fldN (mkWord n) 0 5 = 10 := fldN_is hl (by omega)
  have c0_8 : fldN (mkWord n) 0 8 = 10 := fldN_is hl (by omega)
  have c0_11 : fldN (mkWord n) 0 11 = 10 := fldN_is hl (by omega)
  have c0_16 : fldN (mkWord n) 0 16 = 10 := fldN_is hl (by omega)
  have c8_3 : fldN (mkWord n) 8 3 = 0 := fldN_is hl (by omega)
  have c11_5 : fldN (mkWord n) 11 5 = 0 := fldN_is hl (by omega)
  refine one_of hm rfl ?_
  simp only [decodeOne, hm, decodeMajor28, c0_5, c0_8, c0_11, c0_16, c8_3, c11_5, Nat.reduceEqDiff, reduceIte, and_true, true_and, and_false, false_and, and_self]
  congr 2 <;> exact fld_mk _ _ _ hl (by omega)

theorem RoundTrip.fsgn (d : BitVec 5) (a : BitVec 5) (b : BitVec 5) (s : BitVec 3) : RoundTrip.Statement (.fsgn d a b s) := by
  intro hw _
  have := d.isLt; have := a.isLt; have := b.isLt; have := s.isLt
  simp only [encode, Instr.params, Instr.word]
  generalize hn : 0xA000000B + d.toNat * 2097152 + a.toNat * 65536 + b.toNat * 2048 + s.toNat * 32 = n
  have hl : n < 4294967296 := by omega
  have hm : fldN (mkWord n) 26 6 = 0x28 := fldN_is hl (by omega)
  have c0_5 : fldN (mkWord n) 0 5 = 11 := fldN_is hl (by omega)
  have c8_3 : fldN (mkWord n) 8 3 = 0 := fldN_is hl (by omega)
  refine one_of hm rfl ?_
  simp only [decodeOne, hm, decodeMajor28, c0_5, c8_3, Nat.reduceEqDiff, reduceIte, and_true, true_and, and_false, false_and, and_self]
  rw [if_neg (by rw [fldN_mk _ _ _ hl]; omega)]
  rw [if_neg (by rw [fldN_mk _ _ _ hl]; omega)]
  rw [if_neg (by rw [fldN_mk _ _ _ hl]; omega)]
  rw [if_neg (by rw [fldN_mk _ _ _ hl]; omega)]
  rw [if_neg (by rw [fldN_mk _ _ _ hl]; omega)]
  rw [if_neg (by rw [fldN_mk _ _ _ hl]; omega)]
  rw [if_neg (by rw [fldN_mk _ _ _ hl]; omega)]
  rw [if_neg (by rw [fldN_mk _ _ _ hl]; omega)]
  rw [if_neg (by rw [fldN_mk _ _ _ hl]; omega)]
  rw [if_neg (by rw [fldN_mk _ _ _ hl]; omega)]
  rw [if_neg (by rw [fldN_mk _ _ _ hl]; omega)]
  congr 2 <;> exact fld_mk _ _ _ hl (by omega)

theorem RoundTrip.fcvt (d : BitVec 5) (a : BitVec 5) (m : BitVec 3) (s : BitVec 3) : RoundTrip.Statement (.fcvt d a m s) := by
  intro hw _
  have := d.isLt; have := a.isLt; have := m.isLt; have := s.isLt
  simp only [encode, Instr.params, Instr.word]
  generalize hn : 0xA000000C + d.toNat * 2097152 + a.toNat * 65536 + m.toNat * 256 + s.toNat * 32 = n
  have hl : n < 4294967296 := by omega
  have hm : fldN (mkWord n) 26 6 = 0x28 := fldN_is hl (by omega)
  have c0_5 : fldN (mkWord n) 0 5 = 12 := fldN_is hl (by omega)
  have c11_5 : fldN (mkWord n) 11 5 = 0 := fldN_is hl (by omega)
  refine one_of hm rfl ?_
  simp only [decodeOne, hm, decodeMajor28, c0_5, c11_5, Nat.reduceEqDiff, reduceIte, and_true, true_and, and_false, false_and, and_self]
  rw [if_neg (by rw [fldN_mk _ _ _ hl]; omega)]
  rw [if_neg (by rw [fldN_mk _ _ _ hl]; omega)]
  rw [if_neg (by rw [fldN_mk _ _ _ hl]; omega)]
  rw [if_neg (by rw [fldN_mk _ _ _ hl]; omega)]
  rw [if_neg (by rw [fldN_mk _ _ _ hl]; omega)]
  rw [if_neg (by rw [fldN_mk _ _ _ hl]; omega)]
  rw [if_neg (by rw [fldN_mk _ _ _ hl]; omega)]
  rw [if_neg (by rw [fldN_mk _ _ _ hl]; omega)]
  rw [if_neg (by rw [fldN_mk _ _ _ hl]; omega)]
  rw [if_neg (by rw [fldN_mk _ _ _ hl]; omega)]
  rw [if_neg (by rw [fldN_mk _ _ _ hl]; omega)]
  congr 2 <;> exact fld_mk _ _ _ hl (by omega)

theorem RoundTrip.fmvxf (d : BitVec 5) (a : BitVec 5) : RoundTrip.Statement (.fmvxf d a) := by
  intro hw _
  have := d.isLt; have := a.isLt
  simp only [encode, Instr.params, Instr.word]
  generalize hn : 0xA000000D + d.toNat * 2097152 + a.toNat * 65536 = n
  have hl : n < 4294967296 := by omega
  have hm : fldN (mkWord n) 26 6 = 0x28 := fldN_is hl (by omega)
  have c0_5 : fldN (mkWord n) 0 5 = 13 := fldN_is hl (by omega)
  have c0_8 : fldN (mkWord n) 0 8 = 13 := fldN_is hl (by omega)
  have c0_11 : fldN (mkWord n) 0 11 = 13 := fldN_is hl (by omega)
  have c0_16 : fldN (mkWord n) 0 16 = 13 := fldN_is hl (by omega)
  have c8_3 : fldN (mkWord n) 8 3 = 0 := fldN_is hl (by omega)
  have c11_5 : fldN (mkWord n) 11 5 = 0 := fldN_is hl (by omega)
  refine one_of hm rfl ?_
  simp only [decodeOne, hm, decodeMajor28, c0_5, c0_8, c0_11, c0_16, c8_3, c11_5, Nat.reduceEqDiff, reduceIte, and_true, true_and, and_false, false_and, and_self]
  congr 2 <;> exact fld_mk _ _ _ hl (by omega)

theorem RoundTrip.fmvfx (d : BitVec 5) (a : BitVec 5) : RoundTrip.Statement (.fmvfx d a) := by
  intro hw _
  have := d.isLt; have := a.isLt
  simp only [encode, Instr.params, Instr.word]
  generalize hn : 0xA000000E + d.toNat * 2097152 + a.toNat * 65536 = n
  have hl : n < 4294967296 := by omega
  have hm : fldN (mkWord n) 26 6 = 0x28 := fldN_is hl (by omega)
  have c0_5 : fldN (mkWord n) 0 5 = 14 := fldN_is hl (by omega)
  have c0_8 : fldN (mkWord n) 0 8 = 14 := fldN_is hl (by omega)
  have c0_11 : fldN (mkWord n) 0 11 = 14 := fldN_is hl (by omega)
  have c0_16 : fldN (mkWord n) 0 16 = 14 := fldN_is hl (by omega)
  have c8_3 : fldN (mkWord n) 8 3 = 0 := fldN_is hl (by omega)
  have c11_5 : fldN (mkWord n) 11 5 = 0 := fldN_is hl (by omega)
  refine one_of hm rfl ?_
  simp only [decodeOne, hm, decodeMajor28, c0_5, c0_8, c0_11, c0_16, c8_3, c11_5, Nat.reduceEqDiff, reduceIte, and_true, true_and, and_false, false_and, and_self]
  congr 2 <;> exact fld_mk _ _ _ hl (by omega)

theorem RoundTrip.fma (d : BitVec 5) (a : BitVec 5) (b : BitVec 5) (c : BitVec 5) (m : BitVec 3) : RoundTrip.Statement (.fma d a b c m) := by
  intro hw _
  have := d.isLt; have := a.isLt; have := b.isLt; have := c.isLt; have := m.isLt
  simp only [encode, Instr.params, Instr.word]
  generalize hn : 0xA4000000 + d.toNat * 2097152 + a.toNat * 65536 + b.toNat * 2048 + c.toNat * 64 + m.toNat * 8 = n
  have hl : n < 4294967296 := by omega
  have hm : fldN (mkWord n) 26 6 = 0x29 := fldN_is hl (by omega)
  have c0_3 : fldN (mkWord n) 0 3 = 0 := fldN_is hl (by omega)
  refine one_of hm rfl ?_
  simp only [decodeOne, hm, decodeMajor29, c0_3, Nat.reduceEqDiff, reduceIte, and_true, true_and, and_false, false_and, and_self]
  congr 2 <;> exact fld_mk _ _ _ hl (by omega)

theorem RoundTrip.fms (d : BitVec 5) (a : BitVec 5) (b : BitVec 5) (c : BitVec 5) (m : BitVec 3) : RoundTrip.Statement (.fms d a b c m) := by
  intro hw _
  have := d.isLt; have := a.isLt; have := b.isLt; have := c.isLt; have := m.isLt
  simp only [encode, Instr.params, Instr.word]
  generalize hn : 0xA4000001 + d.toNat * 2097152 + a.toNat * 65536 + b.toNat * 2048 + c.toNat * 64 + m.toNat * 8 = n
  have hl : n < 4294967296 := by omega
  have hm : fldN (mkWord n) 26 6 = 0x29 := fldN_is hl (by omega)
  have c0_3 : fldN (mkWord n) 0 3 = 1 := fldN_is hl (by omega)
  refine one_of hm rfl ?_
  simp only [decodeOne, hm, decodeMajor29, c0_3, Nat.reduceEqDiff, reduceIte, and_true, true_and, and_false, false_and, and_self]
  congr 2 <;> exact fld_mk _ _ _ hl (by omega)

theorem RoundTrip.fnma (d : BitVec 5) (a : BitVec 5) (b : BitVec 5) (c : BitVec 5) (m : BitVec 3) : RoundTrip.Statement (.fnma d a b c m) := by
  intro hw _
  have := d.isLt; have := a.isLt; have := b.isLt; have := c.isLt; have := m.isLt
  simp only [encode, Instr.params, Instr.word]
  generalize hn : 0xA4000002 + d.toNat * 2097152 + a.toNat * 65536 + b.toNat * 2048 + c.toNat * 64 + m.toNat * 8 = n
  have hl : n < 4294967296 := by omega
  have hm : fldN (mkWord n) 26 6 = 0x29 := fldN_is hl (by omega)
  have c0_3 : fldN (mkWord n) 0 3 = 2 := fldN_is hl (by omega)
  refine one_of hm rfl ?_
  simp only [decodeOne, hm, decodeMajor29, c0_3, Nat.reduceEqDiff, reduceIte, and_true, true_and, and_false, false_and, and_self]
  congr 2 <;> exact fld_mk _ _ _ hl (by omega)

theorem RoundTrip.fnms (d : BitVec 5) (a : BitVec 5) (b : BitVec 5) (c : BitVec 5) (m : BitVec 3) : RoundTrip.Statement (.fnms d a b c m) := by
  intro hw _
  have := d.isLt; have := a.isLt; have := b.isLt; have := c.isLt; have := m.isLt
  simp only [encode, Instr.params, Instr.word]
  generalize hn : 0xA4000003 + d.toNat * 2097152 + a.toNat * 65536 + b.toNat * 2048 + c.toNat * 64 + m.toNat * 8 = n
  have hl : n < 4294967296 := by omega
  have hm : fldN (mkWord n) 26 6 = 0x29 := fldN_is hl (by omega)
  have c0_3 : fldN (mkWord n) 0 3 = 3 := fldN_is hl (by omega)
  refine one_of hm rfl ?_
  simp only [decodeOne, hm, decodeMajor29, c0_3, Nat.reduceEqDiff, reduceIte, and_true, true_and, and_false, false_and, and_self]
  congr 2 <;> exact fld_mk _ _ _ hl (by omega)

theorem RoundTrip.fexp (d : BitVec 5) (a : BitVec 5) (l : BitVec 4) (m : BitVec 3) : RoundTrip.Statement (.fexp d a l m) := by
  intro hw _
  have := d.isLt; have := a.isLt; have := l.isLt; have := m.isLt
  simp only [encode, Instr.params, Instr.word]
  generalize hn : 0xB8000000 + d.toNat * 2097152 + a.toNat * 65536 + l.toNat * 128 + m.toNat * 16 = n
  have hl : n < 4294967296 := by omega
  have hm : fldN (mkWord n) 26 6 = 0x2E := fldN_is hl (by omega)
  have c0_4 : fldN (mkWord n) 0 4 = 0 := fldN_is hl (by omega)
  have c11_5 : fldN (mkWord n) 11 5 = 0 := fldN_is hl (by omega)
  refine one_of hm rfl ?_
  simp only [decodeOne, hm, decodeMajor2E, c0_4, c11_5, Nat.reduceEqDiff, reduceIte, and_true, true_and, and_false, false_and, and_self]
  congr 2 <;> exact fld_mk _ _ _ hl (by omega)

theorem RoundTrip.flog (d : BitVec 5) (a : BitVec 5) (l : BitVec 4) (m : BitVec 3) : RoundTrip.Statement (.flog d a l m) := by
  intro hw _
  have := d.isLt; have := a.isLt; have := l.isLt; have := m.isLt
  simp only [encode, Instr.params, Instr.word]
  generalize hn : 0xB8000001 + d.toNat * 2097152 + a.toNat * 65536 + l.toNat * 128 + m.toNat * 16 = n
  have hl : n < 4294967296 := by omega
  have hm : fldN (mkWord n) 26 6 = 0x2E := fldN_is hl (by omega)
  have c0_4 : fldN (mkWord n) 0 4 = 1 := fldN_is hl (by omega)
  have c11_5 : fldN (mkWord n) 11 5 = 0 := fldN_is hl (by omega)
  refine one_of hm rfl ?_
  simp only [decodeOne, hm, decodeMajor2E, c0_4, c11_5, Nat.reduceEqDiff, reduceIte, and_true, true_and, and_false, false_and, and_self]
  congr 2 <;> exact fld_mk _ _ _ hl (by omega)

theorem RoundTrip.frcp (d : BitVec 5) (a : BitVec 5) (l : BitVec 4) (m : BitVec 3) : RoundTrip.Statement (.frcp d a l m) := by
  intro hw _
  have := d.isLt; have := a.isLt; have := l.isLt; have := m.isLt
  simp only [encode, Instr.params, Instr.word]
  generalize hn : 0xB8000002 + d.toNat * 2097152 + a.toNat * 65536 + l.toNat * 128 + m.toNat * 16 = n
  have hl : n < 4294967296 := by omega
  have hm : fldN (mkWord n) 26 6 = 0x2E := fldN_is hl (by omega)
  have c0_4 : fldN (mkWord n) 0 4 = 2 := fldN_is hl (by omega)
  have c11_5 : fldN (mkWord n) 11 5 = 0 := fldN_is hl (by omega)
  refine one_of hm rfl ?_
  simp only [decodeOne, hm, decodeMajor2E, c0_4, c11_5, Nat.reduceEqDiff, reduceIte, and_true, true_and, and_false, false_and, and_self]
  congr 2 <;> exact fld_mk _ _ _ hl (by omega)

theorem RoundTrip.frsq (d : BitVec 5) (a : BitVec 5) (l : BitVec 4) (m : BitVec 3) : RoundTrip.Statement (.frsq d a l m) := by
  intro hw _
  have := d.isLt; have := a.isLt; have := l.isLt; have := m.isLt
  simp only [encode, Instr.params, Instr.word]
  generalize hn : 0xB8000003 + d.toNat * 2097152 + a.toNat * 65536 + l.toNat * 128 + m.toNat * 16 = n
  have hl : n < 4294967296 := by omega
  have hm : fldN (mkWord n) 26 6 = 0x2E := fldN_is hl (by omega)
  have c0_4 : fldN (mkWord n) 0 4 = 3 := fldN_is hl (by omega)
  have c11_5 : fldN (mkWord n) 11 5 = 0 := fldN_is hl (by omega)
  refine one_of hm rfl ?_
  simp only [decodeOne, hm, decodeMajor2E, c0_4, c11_5, Nat.reduceEqDiff, reduceIte, and_true, true_and, and_false, false_and, and_self]
  congr 2 <;> exact fld_mk _ _ _ hl (by omega)

theorem RoundTrip.ftanh (d : BitVec 5) (a : BitVec 5) (l : BitVec 4) (m : BitVec 3) : RoundTrip.Statement (.ftanh d a l m) := by
  intro hw _
  have := d.isLt; have := a.isLt; have := l.isLt; have := m.isLt
  simp only [encode, Instr.params, Instr.word]
  generalize hn : 0xB8000004 + d.toNat * 2097152 + a.toNat * 65536 + l.toNat * 128 + m.toNat * 16 = n
  have hl : n < 4294967296 := by omega
  have hm : fldN (mkWord n) 26 6 = 0x2E := fldN_is hl (by omega)
  have c0_4 : fldN (mkWord n) 0 4 = 4 := fldN_is hl (by omega)
  have c11_5 : fldN (mkWord n) 11 5 = 0 := fldN_is hl (by omega)
  refine one_of hm rfl ?_
  simp only [decodeOne, hm, decodeMajor2E, c0_4, c11_5, Nat.reduceEqDiff, reduceIte, and_true, true_and, and_false, false_and, and_self]
  congr 2 <;> exact fld_mk _ _ _ hl (by omega)

theorem RoundTrip.fsigm (d : BitVec 5) (a : BitVec 5) (l : BitVec 4) (m : BitVec 3) : RoundTrip.Statement (.fsigm d a l m) := by
  intro hw _
  have := d.isLt; have := a.isLt; have := l.isLt; have := m.isLt
  simp only [encode, Instr.params, Instr.word]
  generalize hn : 0xB8000005 + d.toNat * 2097152 + a.toNat * 65536 + l.toNat * 128 + m.toNat * 16 = n
  have hl : n < 4294967296 := by omega
  have hm : fldN (mkWord n) 26 6 = 0x2E := fldN_is hl (by omega)
  have c0_4 : fldN (mkWord n) 0 4 = 5 := fldN_is hl (by omega)
  have c11_5 : fldN (mkWord n) 11 5 = 0 := fldN_is hl (by omega)
  refine one_of hm rfl ?_
  simp only [decodeOne, hm, decodeMajor2E, c0_4, c11_5, Nat.reduceEqDiff, reduceIte, and_true, true_and, and_false, false_and, and_self]
  congr 2 <;> exact fld_mk _ _ _ hl (by omega)

theorem RoundTrip.ld (d : BitVec 5) (a : BitVec 5) (l : BitVec 4) (x : BitVec 1) (s : BitVec 3) (i : BitVec 8) : RoundTrip.Statement (.ld d a l x s i) := by
  intro hw _
  have := d.isLt; have := a.isLt; have := l.isLt; have := x.isLt; have := s.isLt; have := i.isLt
  simp only [encode, Instr.params, Instr.word]
  generalize hn : 0x80000000 + d.toNat * 2097152 + a.toNat * 65536 + l.toNat * 4096 + x.toNat * 2048 + s.toNat * 256 + i.toNat = n
  have hl : n < 4294967296 := by omega
  have hm : fldN (mkWord n) 26 6 = 0x20 := fldN_is hl (by omega)
  refine one_of hm rfl ?_
  simp only [decodeOne, hm, decodeMajor20]
  congr 2 <;> exact fld_mk _ _ _ hl (by omega)

theorem RoundTrip.st (t : BitVec 5) (a : BitVec 5) (l : BitVec 4) (x : BitVec 1) (s : BitVec 3) (i : BitVec 8) : RoundTrip.Statement (.st t a l x s i) := by
  intro hw _
  have := t.isLt; have := a.isLt; have := l.isLt; have := x.isLt; have := s.isLt; have := i.isLt
  simp only [encode, Instr.params, Instr.word]
  generalize hn : 0x84000000 + t.toNat * 2097152 + a.toNat * 65536 + l.toNat * 4096 + x.toNat * 2048 + s.toNat * 256 + i.toNat = n
  have hl : n < 4294967296 := by omega
  have hm : fldN (mkWord n) 26 6 = 0x21 := fldN_is hl (by omega)
  refine one_of hm rfl ?_
  simp only [decodeOne, hm, decodeMajor21]
  congr 2 <;> exact fld_mk _ _ _ hl (by omega)

theorem RoundTrip.ldf (d : BitVec 5) (a : BitVec 5) (l : BitVec 4) (x : BitVec 1) (s : BitVec 3) (i : BitVec 8) : RoundTrip.Statement (.ldf d a l x s i) := by
  intro hw _
  have := d.isLt; have := a.isLt; have := l.isLt; have := x.isLt; have := s.isLt; have := i.isLt
  simp only [encode, Instr.params, Instr.word]
  generalize hn : 0x88000000 + d.toNat * 2097152 + a.toNat * 65536 + l.toNat * 4096 + x.toNat * 2048 + s.toNat * 256 + i.toNat = n
  have hl : n < 4294967296 := by omega
  have hm : fldN (mkWord n) 26 6 = 0x22 := fldN_is hl (by omega)
  refine one_of hm rfl ?_
  simp only [decodeOne, hm, decodeMajor22]
  congr 2 <;> exact fld_mk _ _ _ hl (by omega)

theorem RoundTrip.stf (t : BitVec 5) (a : BitVec 5) (l : BitVec 4) (x : BitVec 1) (s : BitVec 3) (i : BitVec 8) : RoundTrip.Statement (.stf t a l x s i) := by
  intro hw _
  have := t.isLt; have := a.isLt; have := l.isLt; have := x.isLt; have := s.isLt; have := i.isLt
  simp only [encode, Instr.params, Instr.word]
  generalize hn : 0x8C000000 + t.toNat * 2097152 + a.toNat * 65536 + l.toNat * 4096 + x.toNat * 2048 + s.toNat * 256 + i.toNat = n
  have hl : n < 4294967296 := by omega
  have hm : fldN (mkWord n) 26 6 = 0x23 := fldN_is hl (by omega)
  refine one_of hm rfl ?_
  simp only [decodeOne, hm, decodeMajor23]
  congr 2 <;> exact fld_mk _ _ _ hl (by omega)

theorem RoundTrip.ldfe (d : BitVec 5) (a : BitVec 5) (l : BitVec 4) (i : BitVec 8) : RoundTrip.Statement (.ldfe d a l i) := by
  intro hw _
  have := d.isLt; have := a.isLt; have := l.isLt; have := i.isLt
  simp only [encode, Instr.params, Instr.word]
  generalize hn : 0x90000000 + d.toNat * 2097152 + a.toNat * 65536 + l.toNat * 4096 + i.toNat = n
  have hl : n < 4294967296 := by omega
  have hm : fldN (mkWord n) 26 6 = 0x24 := fldN_is hl (by omega)
  have c8_4 : fldN (mkWord n) 8 4 = 0 := fldN_is hl (by omega)
  refine one_of hm rfl ?_
  simp only [decodeOne, hm, decodeMajor24, c8_4, Nat.reduceEqDiff, reduceIte, and_true, true_and, and_false, false_and, and_self]
  congr 2 <;> exact fld_mk _ _ _ hl (by omega)

theorem RoundTrip.ldff (d : BitVec 5) (a : BitVec 5) (l : BitVec 4) (i : BitVec 8) : RoundTrip.Statement (.ldff d a l i) := by
  intro hw _
  have := d.isLt; have := a.isLt; have := l.isLt; have := i.isLt
  simp only [encode, Instr.params, Instr.word]
  generalize hn : 0x90000100 + d.toNat * 2097152 + a.toNat * 65536 + l.toNat * 4096 + i.toNat = n
  have hl : n < 4294967296 := by omega
  have hm : fldN (mkWord n) 26 6 = 0x24 := fldN_is hl (by omega)
  have c8_4 : fldN (mkWord n) 8 4 = 1 := fldN_is hl (by omega)
  refine one_of hm rfl ?_
  simp only [decodeOne, hm, decodeMajor24, c8_4, Nat.reduceEqDiff, reduceIte, and_true, true_and, and_false, false_and, and_self]
  congr 2 <;> exact fld_mk _ _ _ hl (by omega)

theorem RoundTrip.stef (t : BitVec 5) (a : BitVec 5) (l : BitVec 4) (i : BitVec 8) : RoundTrip.Statement (.stef t a l i) := by
  intro hw _
  have := t.isLt; have := a.isLt; have := l.isLt; have := i.isLt
  simp only [encode, Instr.params, Instr.word]
  generalize hn : 0x90000200 + t.toNat * 2097152 + a.toNat * 65536 + l.toNat * 4096 + i.toNat = n
  have hl : n < 4294967296 := by omega
  have hm : fldN (mkWord n) 26 6 = 0x24 := fldN_is hl (by omega)
  have c8_4 : fldN (mkWord n) 8 4 = 2 := fldN_is hl (by omega)
  refine one_of hm rfl ?_
  simp only [decodeOne, hm, decodeMajor24, c8_4, Nat.reduceEqDiff, reduceIte, and_true, true_and, and_false, false_and, and_self]
  congr 2 <;> exact fld_mk _ _ _ hl (by omega)

theorem RoundTrip.stff (t : BitVec 5) (a : BitVec 5) (l : BitVec 4) (i : BitVec 8) : RoundTrip.Statement (.stff t a l i) := by
  intro hw _
  have := t.isLt; have := a.isLt; have := l.isLt; have := i.isLt
  simp only [encode, Instr.params, Instr.word]
  generalize hn : 0x90000300 + t.toNat * 2097152 + a.toNat * 65536 + l.toNat * 4096 + i.toNat = n
  have hl : n < 4294967296 := by omega
  have hm : fldN (mkWord n) 26 6 = 0x24 := fldN_is hl (by omega)
  have c8_4 : fldN (mkWord n) 8 4 = 3 := fldN_is hl (by omega)
  refine one_of hm rfl ?_
  simp only [decodeOne, hm, decodeMajor24, c8_4, Nat.reduceEqDiff, reduceIte, and_true, true_and, and_false, false_and, and_self]
  congr 2 <;> exact fld_mk _ _ _ hl (by omega)

theorem RoundTrip.sete (c : BitVec 5) (a : BitVec 5) (l : BitVec 4) (i : BitVec 8) : RoundTrip.Statement (.sete c a l i) := by
  intro hw _
  have := c.isLt; have := a.isLt; have := l.isLt; have := i.isLt
  simp only [encode, Instr.params, Instr.word]
  generalize hn : 0x90000400 + c.toNat * 2097152 + a.toNat * 65536 + l.toNat * 4096 + i.toNat = n
  have hl : n < 4294967296 := by omega
  have hm : fldN (mkWord n) 26 6 = 0x24 := fldN_is hl (by omega)
  have c8_4 : fldN (mkWord n) 8 4 = 4 := fldN_is hl (by omega)
  refine one_of hm rfl ?_
  simp only [decodeOne, hm, decodeMajor24, c8_4, Nat.reduceEqDiff, reduceIte, and_true, true_and, and_false, false_and, and_self]
  congr 2 <;> exact fld_mk _ _ _ hl (by omega)

theorem RoundTrip.setf (c : BitVec 5) (a : BitVec 5) (l : BitVec 4) (i : BitVec 8) : RoundTrip.Statement (.setf c a l i) := by
  intro hw _
  have := c.isLt; have := a.isLt; have := l.isLt; have := i.isLt
  simp only [encode, Instr.params, Instr.word]
  generalize hn : 0x90000500 + c.toNat * 2097152 + a.toNat * 65536 + l.toNat * 4096 + i.toNat = n
  have hl : n < 4294967296 := by omega
  have hm : fldN (mkWord n) 26 6 = 0x24 := fldN_is hl (by omega)
  have c8_4 : fldN (mkWord n) 8 4 = 5 := fldN_is hl (by omega)
  refine one_of hm rfl ?_
  simp only [decodeOne, hm, decodeMajor24, c8_4, Nat.reduceEqDiff, reduceIte, and_true, true_and, and_false, false_and, and_self]
  congr 2 <;> exact fld_mk _ _ _ hl (by omega)

theorem RoundTrip.amoadd (d : BitVec 5) (a : BitVec 5) (b : BitVec 5) (l : BitVec 4) (z : BitVec 1) : RoundTrip.Statement (.amoadd d a b l z) := by
  intro hw _
  have := d.isLt; have := a.isLt; have := b.isLt; have := l.isLt; have := z.isLt
  simp only [encode, Instr.params, Instr.word]
  generalize hn : 0x94000000 + d.toNat * 2097152 + a.toNat * 65536 + b.toNat * 2048 + l.toNat * 128 + z.toNat * 64 = n
  have hl : n < 4294967296 := by omega
  have hm : fldN (mkWord n) 26 6 = 0x25 := fldN_is hl (by omega)
  have c0_6 : fldN (mkWord n) 0 6 = 0 := fldN_is hl (by omega)
  refine one_of hm rfl ?_
  simp only [decodeOne, hm, decodeMajor25, c0_6, Nat.reduceEqDiff, reduceIte, and_true, true_and, and_false, false_and, and_self]
  congr 2 <;> exact fld_mk _ _ _ hl (by omega)

theorem RoundTrip.amoand (d : BitVec 5) (a : BitVec 5) (b : BitVec 5) (l : BitVec 4) (z : BitVec 1) : RoundTrip.Statement (.amoand d a b l z) := by
  intro hw _
  have := d.isLt; have := a.isLt; have := b.isLt; have := l.isLt; have := z.isLt
  simp only [encode, Instr.params, Instr.word]
  generalize hn : 0x94000008 + d.toNat * 2097152 + a.toNat * 65536 + b.toNat * 2048 + l.toNat * 128 + z.toNat * 64 = n
  have hl : n < 4294967296 := by omega
  have hm : fldN (mkWord n) 26 6 = 0x25 := fldN_is hl (by omega)
  have c0_6 : fldN (mkWord n) 0 6 = 8 := fldN_is hl (by omega)
  refine one_of hm rfl ?_
  simp only [decodeOne, hm, decodeMajor25, c0_6, Nat.reduceEqDiff, reduceIte, and_true, true_and, and_false, false_and, and_self]
  congr 2 <;> exact fld_mk _ _ _ hl (by omega)

theorem RoundTrip.amoor (d : BitVec 5) (a : BitVec 5) (b : BitVec 5) (l : BitVec 4) (z : BitVec 1) : RoundTrip.Statement (.amoor d a b l z) := by
  intro hw _
  have := d.isLt; have := a.isLt; have := b.isLt; have := l.isLt; have := z.isLt
  simp only [encode, Instr.params, Instr.word]
  generalize hn : 0x94000010 + d.toNat * 2097152 + a.toNat * 65536 + b.toNat * 2048 + l.toNat * 128 + z.toNat * 64 = n
  have hl : n < 4294967296 := by omega
  have hm : fldN (mkWord n) 26 6 = 0x25 := fldN_is hl (by omega)
  have c0_6 : fldN (mkWord n) 0 6 = 16 := fldN_is hl (by omega)
  refine one_of hm rfl ?_
  simp only [decodeOne, hm, decodeMajor25, c0_6, Nat.reduceEqDiff, reduceIte, and_true, true_and, and_false, false_and, and_self]
  congr 2 <;> exact fld_mk _ _ _ hl (by omega)

theorem RoundTrip.amoxor (d : BitVec 5) (a : BitVec 5) (b : BitVec 5) (l : BitVec 4) (z : BitVec 1) : RoundTrip.Statement (.amoxor d a b l z) := by
  intro hw _
  have := d.isLt; have := a.isLt; have := b.isLt; have := l.isLt; have := z.isLt
  simp only [encode, Instr.params, Instr.word]
  generalize hn : 0x94000018 + d.toNat * 2097152 + a.toNat * 65536 + b.toNat * 2048 + l.toNat * 128 + z.toNat * 64 = n
  have hl : n < 4294967296 := by omega
  have hm : fldN (mkWord n) 26 6 = 0x25 := fldN_is hl (by omega)
  have c0_6 : fldN (mkWord n) 0 6 = 24 := fldN_is hl (by omega)
  refine one_of hm rfl ?_
  simp only [decodeOne, hm, decodeMajor25, c0_6, Nat.reduceEqDiff, reduceIte, and_true, true_and, and_false, false_and, and_self]
  congr 2 <;> exact fld_mk _ _ _ hl (by omega)

theorem RoundTrip.amomin (d : BitVec 5) (a : BitVec 5) (b : BitVec 5) (l : BitVec 4) (z : BitVec 1) : RoundTrip.Statement (.amomin d a b l z) := by
  intro hw _
  have := d.isLt; have := a.isLt; have := b.isLt; have := l.isLt; have := z.isLt
  simp only [encode, Instr.params, Instr.word]
  generalize hn : 0x94000020 + d.toNat * 2097152 + a.toNat * 65536 + b.toNat * 2048 + l.toNat * 128 + z.toNat * 64 = n
  have hl : n < 4294967296 := by omega
  have hm : fldN (mkWord n) 26 6 = 0x25 := fldN_is hl (by omega)
  have c0_6 : fldN (mkWord n) 0 6 = 32 := fldN_is hl (by omega)
  refine one_of hm rfl ?_
  simp only [decodeOne, hm, decodeMajor25, c0_6, Nat.reduceEqDiff, reduceIte, and_true, true_and, and_false, false_and, and_self]
  congr 2 <;> exact fld_mk _ _ _ hl (by omega)

theorem RoundTrip.amomax (d : BitVec 5) (a : BitVec 5) (b : BitVec 5) (l : BitVec 4) (z : BitVec 1) : RoundTrip.Statement (.amomax d a b l z) := by
  intro hw _
  have := d.isLt; have := a.isLt; have := b.isLt; have := l.isLt; have := z.isLt
  simp only [encode, Instr.params, Instr.word]
  generalize hn : 0x94000028 + d.toNat * 2097152 + a.toNat * 65536 + b.toNat * 2048 + l.toNat * 128 + z.toNat * 64 = n
  have hl : n < 4294967296 := by omega
  have hm : fldN (mkWord n) 26 6 = 0x25 := fldN_is hl (by omega)
  have c0_6 : fldN (mkWord n) 0 6 = 40 := fldN_is hl (by omega)
  refine one_of hm rfl ?_
  simp only [decodeOne, hm, decodeMajor25, c0_6, Nat.reduceEqDiff, reduceIte, and_true, true_and, and_false, false_and, and_self]
  congr 2 <;> exact fld_mk _ _ _ hl (by omega)

theorem RoundTrip.amoswap (d : BitVec 5) (a : BitVec 5) (b : BitVec 5) (l : BitVec 4) (z : BitVec 1) : RoundTrip.Statement (.amoswap d a b l z) := by
  intro hw _
  have := d.isLt; have := a.isLt; have := b.isLt; have := l.isLt; have := z.isLt
  simp only [encode, Instr.params, Instr.word]
  generalize hn : 0x94000030 + d.toNat * 2097152 + a.toNat * 65536 + b.toNat * 2048 + l.toNat * 128 + z.toNat * 64 = n
  have hl : n < 4294967296 := by omega
  have hm : fldN (mkWord n) 26 6 = 0x25 := fldN_is hl (by omega)
  have c0_6 : fldN (mkWord n) 0 6 = 48 := fldN_is hl (by omega)
  refine one_of hm rfl ?_
  simp only [decodeOne, hm, decodeMajor25, c0_6, Nat.reduceEqDiff, reduceIte, and_true, true_and, and_false, false_and, and_self]
  congr 2 <;> exact fld_mk _ _ _ hl (by omega)

theorem RoundTrip.cas (d : BitVec 5) (a : BitVec 5) (b : BitVec 5) (l : BitVec 4) (z : BitVec 1) : RoundTrip.Statement (.cas d a b l z) := by
  intro hw _
  have := d.isLt; have := a.isLt; have := b.isLt; have := l.isLt; have := z.isLt
  simp only [encode, Instr.params, Instr.word]
  generalize hn : 0x94000038 + d.toNat * 2097152 + a.toNat * 65536 + b.toNat * 2048 + l.toNat * 128 + z.toNat * 64 = n
  have hl : n < 4294967296 := by omega
  have hm : fldN (mkWord n) 26 6 = 0x25 := fldN_is hl (by omega)
  have c0_6 : fldN (mkWord n) 0 6 = 56 := fldN_is hl (by omega)
  refine one_of hm rfl ?_
  simp only [decodeOne, hm, decodeMajor25, c0_6, Nat.reduceEqDiff, reduceIte, and_true, true_and, and_false, false_and, and_self]
  congr 2 <;> exact fld_mk _ _ _ hl (by omega)

theorem RoundTrip.fence (s : BitVec 3) : RoundTrip.Statement (.fence s) := by
  intro hw _
  have := s.isLt
  simp only [encode, Instr.params, Instr.word]
  generalize hn : 0x98000000 + s.toNat * 16 = n
  have hl : n < 4294967296 := by omega
  have hm : fldN (mkWord n) 26 6 = 0x26 := fldN_is hl (by omega)
  have c0_4 : fldN (mkWord n) 0 4 = 0 := fldN_is hl (by omega)
  have c7_19 : fldN (mkWord n) 7 19 = 0 := fldN_is hl (by omega)
  have c11_5 : fldN (mkWord n) 11 5 = 0 := fldN_is hl (by omega)
  have c21_5 : fldN (mkWord n) 21 5 = 0 := fldN_is hl (by omega)
  refine one_of hm rfl ?_
  simp only [decodeOne, hm, decodeMajor26, c0_4, c7_19, c11_5, c21_5, Nat.reduceEqDiff, reduceIte, and_true, true_and, and_false, false_and, and_self]
  congr 2 <;> exact fld_mk _ _ _ hl (by omega)

theorem RoundTrip.segld (g : BitVec 5) (a : BitVec 5) (l : BitVec 4) : RoundTrip.Statement (.segld g a l) := by
  intro hw _
  have := g.isLt; have := a.isLt; have := l.isLt
  simp only [encode, Instr.params, Instr.word]
  generalize hn : 0x98000001 + g.toNat * 2097152 + a.toNat * 65536 + l.toNat * 128 = n
  have hl : n < 4294967296 := by omega
  have hm : fldN (mkWord n) 26 6 = 0x26 := fldN_is hl (by omega)
  have c0_4 : fldN (mkWord n) 0 4 = 1 := fldN_is hl (by omega)
  have c0_7 : fldN (mkWord n) 0 7 = 1 := fldN_is hl (by omega)
  have c5_2 : fldN (mkWord n) 5 2 = 0 := fldN_is hl (by omega)
  have c11_5 : fldN (mkWord n) 11 5 = 0 := fldN_is hl (by omega)
  refine one_of hm rfl ?_
  simp only [decodeOne, hm, decodeMajor26, c0_4, c0_7, c5_2, c11_5, Nat.reduceEqDiff, reduceIte, and_true, true_and, and_false, false_and, and_self]
  congr 2 <;> exact fld_mk _ _ _ hl (by omega)

theorem RoundTrip.segrd (d : BitVec 5) (g : BitVec 5) (h : BitVec 5) : RoundTrip.Statement (.segrd d g h) := by
  intro hw _
  have := d.isLt; have := g.isLt; have := h.isLt
  simp only [encode, Instr.params, Instr.word]
  generalize hn : 0x98000002 + d.toNat * 2097152 + g.toNat * 65536 + h.toNat * 2048 = n
  have hl : n < 4294967296 := by omega
  have hm : fldN (mkWord n) 26 6 = 0x26 := fldN_is hl (by omega)
  have c0_4 : fldN (mkWord n) 0 4 = 2 := fldN_is hl (by omega)
  have c0_7 : fldN (mkWord n) 0 7 = 2 := fldN_is hl (by omega)
  have c0_11 : fldN (mkWord n) 0 11 = 2 := fldN_is hl (by omega)
  have c5_2 : fldN (mkWord n) 5 2 = 0 := fldN_is hl (by omega)
  refine one_of hm rfl ?_
  simp only [decodeOne, hm, decodeMajor26, c0_4, c0_7, c0_11, c5_2, Nat.reduceEqDiff, reduceIte, and_true, true_and, and_false, false_and, and_self]
  congr 2 <;> exact fld_mk _ _ _ hl (by omega)

theorem RoundTrip.bankcfg (d : BitVec 5) (a : BitVec 5) (b : BitVec 5) (l : BitVec 4) (k : BitVec 1) : RoundTrip.Statement (.bankcfg d a b l k) := by
  intro hw _
  have := d.isLt; have := a.isLt; have := b.isLt; have := l.isLt; have := k.isLt
  simp only [encode, Instr.params, Instr.word]
  generalize hn : 0x98000003 + d.toNat * 2097152 + a.toNat * 65536 + b.toNat * 2048 + l.toNat * 128 + k.toNat * 16 = n
  have hl : n < 4294967296 := by omega
  have hm : fldN (mkWord n) 26 6 = 0x26 := fldN_is hl (by omega)
  have c0_4 : fldN (mkWord n) 0 4 = 3 := fldN_is hl (by omega)
  have c5_2 : fldN (mkWord n) 5 2 = 0 := fldN_is hl (by omega)
  refine one_of hm rfl ?_
  simp only [decodeOne, hm, decodeMajor26, c0_4, c5_2, Nat.reduceEqDiff, reduceIte, and_true, true_and, and_false, false_and, and_self]
  rw [if_neg (by rw [fldN_mk _ _ _ hl]; omega)]
  rw [if_neg (by rw [fldN_mk _ _ _ hl]; omega)]
  congr 2 <;> exact fld_mk _ _ _ hl (by omega)

theorem RoundTrip.bankConversionDone (core : Nat) (bank : Nat) : RoundTrip.Statement (.bankConversionDone core bank) := fun _ h => nomatch h

theorem RoundTrip.bankq (d : BitVec 5) (a : BitVec 5) (l : BitVec 4) : RoundTrip.Statement (.bankq d a l) := by
  intro hw _
  have := d.isLt; have := a.isLt; have := l.isLt
  simp only [encode, Instr.params, Instr.word]
  generalize hn : 0x98000004 + d.toNat * 2097152 + a.toNat * 65536 + l.toNat * 128 = n
  have hl : n < 4294967296 := by omega
  have hm : fldN (mkWord n) 26 6 = 0x26 := fldN_is hl (by omega)
  have c0_4 : fldN (mkWord n) 0 4 = 4 := fldN_is hl (by omega)
  have c0_7 : fldN (mkWord n) 0 7 = 4 := fldN_is hl (by omega)
  have c5_2 : fldN (mkWord n) 5 2 = 0 := fldN_is hl (by omega)
  have c11_5 : fldN (mkWord n) 11 5 = 0 := fldN_is hl (by omega)
  refine one_of hm rfl ?_
  simp only [decodeOne, hm, decodeMajor26, c0_4, c0_7, c5_2, c11_5, Nat.reduceEqDiff, reduceIte, and_true, true_and, and_false, false_and, and_self]
  rw [if_neg (by rw [fldN_mk _ _ _ hl]; omega)]
  congr 2 <;> exact fld_mk _ _ _ hl (by omega)

theorem RoundTrip.bankjoin (a : BitVec 5) (l : BitVec 4) : RoundTrip.Statement (.bankjoin a l) := by
  intro hw _
  have := a.isLt; have := l.isLt
  simp only [encode, Instr.params, Instr.word]
  generalize hn : 0x98000005 + a.toNat * 65536 + l.toNat * 128 = n
  have hl : n < 4294967296 := by omega
  have hm : fldN (mkWord n) 26 6 = 0x26 := fldN_is hl (by omega)
  have c0_4 : fldN (mkWord n) 0 4 = 5 := fldN_is hl (by omega)
  have c0_7 : fldN (mkWord n) 0 7 = 5 := fldN_is hl (by omega)
  have c5_2 : fldN (mkWord n) 5 2 = 0 := fldN_is hl (by omega)
  have c11_5 : fldN (mkWord n) 11 5 = 0 := fldN_is hl (by omega)
  have c21_5 : fldN (mkWord n) 21 5 = 0 := fldN_is hl (by omega)
  refine one_of hm rfl ?_
  simp only [decodeOne, hm, decodeMajor26, c0_4, c0_7, c5_2, c11_5, c21_5, Nat.reduceEqDiff, reduceIte, and_true, true_and, and_false, false_and, and_self]
  rw [if_neg (by rw [fldN_mk _ _ _ hl]; omega)]
  congr 2 <;> exact fld_mk _ _ _ hl (by omega)

theorem RoundTrip.send (t : BitVec 5) (a : BitVec 5) (l : BitVec 4) : RoundTrip.Statement (.send t a l) := by
  intro hw _
  have := t.isLt; have := a.isLt; have := l.isLt
  simp only [encode, Instr.params, Instr.word]
  generalize hn : 0x98000006 + t.toNat * 2097152 + a.toNat * 65536 + l.toNat * 128 = n
  have hl : n < 4294967296 := by omega
  have hm : fldN (mkWord n) 26 6 = 0x26 := fldN_is hl (by omega)
  have c0_4 : fldN (mkWord n) 0 4 = 6 := fldN_is hl (by omega)
  have c0_7 : fldN (mkWord n) 0 7 = 6 := fldN_is hl (by omega)
  have c5_2 : fldN (mkWord n) 5 2 = 0 := fldN_is hl (by omega)
  have c11_5 : fldN (mkWord n) 11 5 = 0 := fldN_is hl (by omega)
  refine one_of hm rfl ?_
  simp only [decodeOne, hm, decodeMajor26, c0_4, c0_7, c5_2, c11_5, Nat.reduceEqDiff, reduceIte, and_true, true_and, and_false, false_and, and_self]
  rw [if_neg (by rw [fldN_mk _ _ _ hl]; omega)]
  congr 2 <;> exact fld_mk _ _ _ hl (by omega)

theorem RoundTrip.dq (d : BitVec 5) (a : BitVec 5) (l : BitVec 4) (w : BitVec 1) : RoundTrip.Statement (.dq d a l w) := by
  intro hw _
  have := d.isLt; have := a.isLt; have := l.isLt; have := w.isLt
  simp only [encode, Instr.params, Instr.word]
  generalize hn : 0x98000007 + d.toNat * 2097152 + a.toNat * 65536 + l.toNat * 128 + w.toNat * 16 = n
  have hl : n < 4294967296 := by omega
  have hm : fldN (mkWord n) 26 6 = 0x26 := fldN_is hl (by omega)
  have c0_4 : fldN (mkWord n) 0 4 = 7 := fldN_is hl (by omega)
  have c5_2 : fldN (mkWord n) 5 2 = 0 := fldN_is hl (by omega)
  have c11_5 : fldN (mkWord n) 11 5 = 0 := fldN_is hl (by omega)
  refine one_of hm rfl ?_
  simp only [decodeOne, hm, decodeMajor26, c0_4, c5_2, c11_5, Nat.reduceEqDiff, reduceIte, and_true, true_and, and_false, false_and, and_self]
  rw [if_neg (by rw [fldN_mk _ _ _ hl]; omega)]
  rw [if_neg (by rw [fldN_mk _ _ _ hl]; omega)]
  rw [if_neg (by rw [fldN_mk _ _ _ hl]; omega)]
  rw [if_neg (by rw [fldN_mk _ _ _ hl]; omega)]
  rw [if_neg (by rw [fldN_mk _ _ _ hl]; omega)]
  congr 2 <;> exact fld_mk _ _ _ hl (by omega)

theorem RoundTrip.migrate (a : BitVec 5) : RoundTrip.Statement (.migrate a) := by
  intro hw _
  have := a.isLt
  simp only [encode, Instr.params, Instr.word]
  generalize hn : 0x98000008 + a.toNat * 65536 = n
  have hl : n < 4294967296 := by omega
  have hm : fldN (mkWord n) 26 6 = 0x26 := fldN_is hl (by omega)
  have c0_4 : fldN (mkWord n) 0 4 = 8 := fldN_is hl (by omega)
  have c0_7 : fldN (mkWord n) 0 7 = 8 := fldN_is hl (by omega)
  have c0_11 : fldN (mkWord n) 0 11 = 8 := fldN_is hl (by omega)
  have c0_16 : fldN (mkWord n) 0 16 = 8 := fldN_is hl (by omega)
  have c5_2 : fldN (mkWord n) 5 2 = 0 := fldN_is hl (by omega)
  have c11_5 : fldN (mkWord n) 11 5 = 0 := fldN_is hl (by omega)
  have c21_5 : fldN (mkWord n) 21 5 = 0 := fldN_is hl (by omega)
  refine one_of hm rfl ?_
  simp only [decodeOne, hm, decodeMajor26, c0_4, c0_7, c0_11, c0_16, c5_2, c11_5, c21_5, Nat.reduceEqDiff, reduceIte, and_true, true_and, and_false, false_and, and_self]
  congr 2 <;> exact fld_mk _ _ _ hl (by omega)

theorem RoundTrip.migrationArrival (n : Nat) : RoundTrip.Statement (.migrationArrival n) := fun _ h => nomatch h

theorem RoundTrip.arrivalQueueAdmit (core : Nat) : RoundTrip.Statement (.arrivalQueueAdmit core) := fun _ h => nomatch h

theorem RoundTrip.migrationReoffer (core : Nat) : RoundTrip.Statement (.migrationReoffer core) := fun _ h => nomatch h

theorem RoundTrip.bankAccessPerformed (core : Nat) (slot : Nat) (id : Nat) : RoundTrip.Statement (.bankAccessPerformed core slot id) := fun _ h => nomatch h

theorem RoundTrip.waiterRetry (core : Nat) (bank : Nat) : RoundTrip.Statement (.waiterRetry core bank) := fun _ h => nomatch h

theorem RoundTrip.portAccessPerformed (core : Nat) (slot : Nat) (id : Nat) : RoundTrip.Statement (.portAccessPerformed core slot id) := fun _ h => nomatch h

theorem RoundTrip.pagerWake (vf : Nat) (page : Nat) : RoundTrip.Statement (.pagerWake vf page) := fun _ h => nomatch h

theorem RoundTrip.longLatencyComplete (core : Nat) (slot : Nat) (id : Nat) : RoundTrip.Statement (.longLatencyComplete core slot id) := fun _ h => nomatch h

theorem RoundTrip.lateFault (core : Nat) (slot : Nat) : RoundTrip.Statement (.lateFault core slot) := fun _ h => nomatch h

theorem RoundTrip.hwMessageDeliver (core : Nat) : RoundTrip.Statement (.hwMessageDeliver core) := fun _ h => nomatch h

theorem RoundTrip.scfg (n : BitVec 5) (a : BitVec 5) (b : BitVec 5) (l : BitVec 4) (p : Params) : RoundTrip.Statement (.scfg n a b l p) := by
  intro hw _
  have := n.isLt; have := a.isLt; have := b.isLt; have := l.isLt
  simp only [encode, Instr.params, Instr.word]
  generalize hn : 0xB4000000 + n.toNat * 2097152 + a.toNat * 65536 + b.toNat * 2048 + l.toNat * 128 = n
  have hl : n < 4294967296 := by omega
  have hm : fldN (mkWord n) 26 6 = 0x2D := fldN_is hl (by omega)
  have c0_7 : fldN (mkWord n) 0 7 = 0 := fldN_is hl (by omega)
  refine five_of hm rfl ?_
  simp only [decodeL, hm, decodeMajor2D, c0_7, Nat.reduceEqDiff, reduceIte, and_true, true_and, and_false, false_and, and_self]
  congr 2 <;> first | rfl | exact fld_mk _ _ _ hl (by omega)

theorem RoundTrip.scfg2 (n : BitVec 5) (a : BitVec 5) (b : BitVec 5) (l : BitVec 4) (p : Params) : RoundTrip.Statement (.scfg2 n a b l p) := by
  intro hw _
  have := n.isLt; have := a.isLt; have := b.isLt; have := l.isLt
  simp only [encode, Instr.params, Instr.word]
  generalize hn : 0xB4000001 + n.toNat * 2097152 + a.toNat * 65536 + b.toNat * 2048 + l.toNat * 128 = n
  have hl : n < 4294967296 := by omega
  have hm : fldN (mkWord n) 26 6 = 0x2D := fldN_is hl (by omega)
  have c0_7 : fldN (mkWord n) 0 7 = 1 := fldN_is hl (by omega)
  refine five_of hm rfl ?_
  simp only [decodeL, hm, decodeMajor2D, c0_7, Nat.reduceEqDiff, reduceIte, and_true, true_and, and_false, false_and, and_self]
  congr 2 <;> first | rfl | exact fld_mk _ _ _ hl (by omega)

theorem RoundTrip.srel (n : BitVec 5) (l : BitVec 4) (p : Params) : RoundTrip.Statement (.srel n l p) := by
  intro hw _
  have := n.isLt; have := l.isLt
  simp only [encode, Instr.params, Instr.word]
  generalize hn : 0xB4000002 + n.toNat * 2097152 + l.toNat * 128 = n
  have hl : n < 4294967296 := by omega
  have hm : fldN (mkWord n) 26 6 = 0x2D := fldN_is hl (by omega)
  have c0_7 : fldN (mkWord n) 0 7 = 2 := fldN_is hl (by omega)
  have c11_5 : fldN (mkWord n) 11 5 = 0 := fldN_is hl (by omega)
  have c16_5 : fldN (mkWord n) 16 5 = 0 := fldN_is hl (by omega)
  refine five_of hm rfl ?_
  simp only [decodeL, hm, decodeMajor2D, c0_7, c11_5, c16_5, Nat.reduceEqDiff, reduceIte, and_true, true_and, and_false, false_and, and_self]
  congr 2 <;> first | rfl | exact fld_mk _ _ _ hl (by omega)

theorem RoundTrip.streamElementRead (core : Nat) (slot : Nat) (stream : Nat) (elem : Nat) : RoundTrip.Statement (.streamElementRead core slot stream elem) := fun _ h => nomatch h

theorem RoundTrip.streamElementWrite (core : Nat) (slot : Nat) (stream : Nat) (elem : Nat) : RoundTrip.Statement (.streamElementWrite core slot stream elem) := fun _ h => nomatch h

theorem RoundTrip.vadd (d : BitVec 3) (a : BitVec 3) (b : BitVec 3) (y : BitVec 5) (s : BitVec 2) : RoundTrip.Statement (.vadd d a b y s) := by
  intro hw _
  have := d.isLt; have := a.isLt; have := b.isLt; have := y.isLt; have := s.isLt
  simp only [encode, Instr.params, Instr.word]
  generalize hn : 0xB0000000 + d.toNat * 8388608 + a.toNat * 1048576 + b.toNat * 131072 + y.toNat * 128 + s.toNat * 32 = n
  have hl : n < 4294967296 := by omega
  have hm : fldN (mkWord n) 26 6 = 0x2C := fldN_is hl (by omega)
  have c0_5 : fldN (mkWord n) 0 5 = 0 := fldN_is hl (by omega)
  have c12_5 : fldN (mkWord n) 12 5 = 0 := fldN_is hl (by omega)
  refine one_of hm rfl ?_
  simp only [decodeOne, hm, decodeMajor2C, c0_5, c12_5, Nat.reduceEqDiff, reduceIte, and_true, true_and, and_false, false_and, and_self]
  congr 2 <;> exact fld_mk _ _ _ hl (by omega)

theorem RoundTrip.vsub (d : BitVec 3) (a : BitVec 3) (b : BitVec 3) (y : BitVec 5) (s : BitVec 2) : RoundTrip.Statement (.vsub d a b y s) := by
  intro hw _
  have := d.isLt; have := a.isLt; have := b.isLt; have := y.isLt; have := s.isLt
  simp only [encode, Instr.params, Instr.word]
  generalize hn : 0xB0000001 + d.toNat * 8388608 + a.toNat * 1048576 + b.toNat * 131072 + y.toNat * 128 + s.toNat * 32 = n
  have hl : n < 4294967296 := by omega
  have hm : fldN (mkWord n) 26 6 = 0x2C := fldN_is hl (by omega)
  have c0_5 : fldN (mkWord n) 0 5 = 1 := fldN_is hl (by omega)
  have c12_5 : fldN (mkWord n) 12 5 = 0 := fldN_is hl (by omega)
  refine one_of hm rfl ?_
  simp only [decodeOne, hm, decodeMajor2C, c0_5, c12_5, Nat.reduceEqDiff, reduceIte, and_true, true_and, and_false, false_and, and_self]
  congr 2 <;> exact fld_mk _ _ _ hl (by omega)

theorem RoundTrip.vmul (d : BitVec 3) (a : BitVec 3) (b : BitVec 3) (y : BitVec 5) (s : BitVec 2) : RoundTrip.Statement (.vmul d a b y s) := by
  intro hw _
  have := d.isLt; have := a.isLt; have := b.isLt; have := y.isLt; have := s.isLt
  simp only [encode, Instr.params, Instr.word]
  generalize hn : 0xB0000002 + d.toNat * 8388608 + a.toNat * 1048576 + b.toNat * 131072 + y.toNat * 128 + s.toNat * 32 = n
  have hl : n < 4294967296 := by omega
  have hm : fldN (mkWord n) 26 6 = 0x2C := fldN_is hl (by omega)
  have c0_5 : fldN (mkWord n) 0 5 = 2 := fldN_is hl (by omega)
  have c12_5 : fldN (mkWord n) 12 5 = 0 := fldN_is hl (by omega)
  refine one_of hm rfl ?_
  simp only [decodeOne, hm, decodeMajor2C, c0_5, c12_5, Nat.reduceEqDiff, reduceIte, and_true, true_and, and_false, false_and, and_self]
  congr 2 <;> exact fld_mk _ _ _ hl (by omega)

theorem RoundTrip.vfma (d : BitVec 3) (a : BitVec 3) (b : BitVec 3) (x : BitVec 5) (s : BitVec 2) : RoundTrip.Statement (.vfma d a b x s) := by
  intro hw _
  have := d.isLt; have := a.isLt; have := b.isLt; have := x.isLt; have := s.isLt
  simp only [encode, Instr.params, Instr.word]
  generalize hn : 0xB0000003 + d.toNat * 8388608 + a.toNat * 1048576 + b.toNat * 131072 + x.toNat * 4096 + s.toNat * 32 = n
  have hl : n < 4294967296 := by omega
  have hm : fldN (mkWord n) 26 6 = 0x2C := fldN_is hl (by omega)
  have c0_5 : fldN (mkWord n) 0 5 = 3 := fldN_is hl (by omega)
  have c7_5 : fldN (mkWord n) 7 5 = 0 := fldN_is hl (by omega)
  refine one_of hm rfl ?_
  simp only [decodeOne, hm, decodeMajor2C, c0_5, c7_5, Nat.reduceEqDiff, reduceIte, and_true, true_and, and_false, false_and, and_self]
  congr 2 <;> exact fld_mk _ _ _ hl (by omega)

theorem RoundTrip.vmin (d : BitVec 3) (a : BitVec 3) (b : BitVec 3) (y : BitVec 5) (s : BitVec 2) : RoundTrip.Statement (.vmin d a b y s) := by
  intro hw _
  have := d.isLt; have := a.isLt; have := b.isLt; have := y.isLt; have := s.isLt
  simp only [encode, Instr.params, Instr.word]
  generalize hn : 0xB0000004 + d.toNat * 8388608 + a.toNat * 1048576 + b.toNat * 131072 + y.toNat * 128 + s.toNat * 32 = n
  have hl : n < 4294967296 := by omega
  have hm : fldN (mkWord n) 26 6 = 0x2C := fldN_is hl (by omega)
  have c0_5 : fldN (mkWord n) 0 5 = 4 := fldN_is hl (by omega)
  have c12_5 : fldN (mkWord n) 12 5 = 0 := fldN_is hl (by omega)
  refine one_of hm rfl ?_
  simp only [decodeOne, hm, decodeMajor2C, c0_5, c12_5, Nat.reduceEqDiff, reduceIte, and_true, true_and, and_false, false_and, and_self]
  congr 2 <;> exact fld_mk _ _ _ hl (by omega)

theorem RoundTrip.vmax (d : BitVec 3) (a : BitVec 3) (b : BitVec 3) (y : BitVec 5) (s : BitVec 2) : RoundTrip.Statement (.vmax d a b y s) := by
  intro hw _
  have := d.isLt; have := a.isLt; have := b.isLt; have := y.isLt; have := s.isLt
  simp only [encode, Instr.params, Instr.word]
  generalize hn : 0xB0000005 + d.toNat * 8388608 + a.toNat * 1048576 + b.toNat * 131072 + y.toNat * 128 + s.toNat * 32 = n
  have hl : n < 4294967296 := by omega
  have hm : fldN (mkWord n) 26 6 = 0x2C := fldN_is hl (by omega)
  have c0_5 : fldN (mkWord n) 0 5 = 5 := fldN_is hl (by omega)
  have c12_5 : fldN (mkWord n) 12 5 = 0 := fldN_is hl (by omega)
  refine one_of hm rfl ?_
  simp only [decodeOne, hm, decodeMajor2C, c0_5, c12_5, Nat.reduceEqDiff, reduceIte, and_true, true_and, and_false, false_and, and_self]
  congr 2 <;> exact fld_mk _ _ _ hl (by omega)

theorem RoundTrip.vabs (d : BitVec 3) (a : BitVec 3) (s : BitVec 2) : RoundTrip.Statement (.vabs d a s) := by
  intro hw _
  have := d.isLt; have := a.isLt; have := s.isLt
  simp only [encode, Instr.params, Instr.word]
  generalize hn : 0xB0000006 + d.toNat * 8388608 + a.toNat * 1048576 + s.toNat * 32 = n
  have hl : n < 4294967296 := by omega
  have hm : fldN (mkWord n) 26 6 = 0x2C := fldN_is hl (by omega)
  have c0_5 : fldN (mkWord n) 0 5 = 6 := fldN_is hl (by omega)
  have c7_5 : fldN (mkWord n) 7 5 = 0 := fldN_is hl (by omega)
  have c7_13 : fldN (mkWord n) 7 13 = 0 := fldN_is hl (by omega)
  have c12_5 : fldN (mkWord n) 12 5 = 0 := fldN_is hl (by omega)
  have c12_8 : fldN (mkWord n) 12 8 = 0 := fldN_is hl (by omega)
  refine one_of hm rfl ?_
  simp only [decodeOne, hm, decodeMajor2C, c0_5, c7_5, c7_13, c12_5, c12_8, Nat.reduceEqDiff, reduceIte, and_true, true_and, and_false, false_and, and_self]
  congr 2 <;> exact fld_mk _ _ _ hl (by omega)

theorem RoundTrip.vneg (d : BitVec 3) (a : BitVec 3) (s : BitVec 2) : RoundTrip.Statement (.vneg d a s) := by
  intro hw _
  have := d.isLt; have := a.isLt; have := s.isLt
  simp only [encode, Instr.params, Instr.word]
  generalize hn : 0xB0000007 + d.toNat * 8388608 + a.toNat * 1048576 + s.toNat * 32 = n
  have hl : n < 4294967296 := by omega
  have hm : fldN (mkWord n) 26 6 = 0x2C := fldN_is hl (by omega)
  have c0_5 : fldN (mkWord n) 0 5 = 7 := fldN_is hl (by omega)
  have c7_5 : fldN (mkWord n) 7 5 = 0 := fldN_is hl (by omega)
  have c7_13 : fldN (mkWord n) 7 13 = 0 := fldN_is hl (by omega)
  have c12_5 : fldN (mkWord n) 12 5 = 0 := fldN_is hl (by omega)
  have c12_8 : fldN (mkWord n) 12 8 = 0 := fldN_is hl (by omega)
  refine one_of hm rfl ?_
  simp only [decodeOne, hm, decodeMajor2C, c0_5, c7_5, c7_13, c12_5, c12_8, Nat.reduceEqDiff, reduceIte, and_true, true_and, and_false, false_and, and_self]
  congr 2 <;> exact fld_mk _ _ _ hl (by omega)

theorem RoundTrip.vcvt (d : BitVec 3) (a : BitVec 3) (s : BitVec 2) : RoundTrip.Statement (.vcvt d a s) := by
  intro hw _
  have := d.isLt; have := a.isLt; have := s.isLt
  simp only [encode, Instr.params, Instr.word]
  generalize hn : 0xB0000008 + d.toNat * 8388608 + a.toNat * 1048576 + s.toNat * 32 = n
  have hl : n < 4294967296 := by omega
  have hm : fldN (mkWord n) 26 6 = 0x2C := fldN_is hl (by omega)
  have c0_5 : fldN (mkWord n) 0 5 = 8 := fldN_is hl (by omega)
  have c7_5 : fldN (mkWord n) 7 5 = 0 := fldN_is hl (by omega)
  have c7_13 : fldN (mkWord n) 7 13 = 0 := fldN_is hl (by omega)
  have c12_5 : fldN (mkWord n) 12 5 = 0 := fldN_is hl (by omega)
  have c12_8 : fldN (mkWord n) 12 8 = 0 := fldN_is hl (by omega)
  refine one_of hm rfl ?_
  simp only [decodeOne, hm, decodeMajor2C, c0_5, c7_5, c7_13, c12_5, c12_8, Nat.reduceEqDiff, reduceIte, and_true, true_and, and_false, false_and, and_self]
  congr 2 <;> exact fld_mk _ _ _ hl (by omega)

theorem RoundTrip.vsel (d : BitVec 3) (a : BitVec 3) (b : BitVec 3) (x : BitVec 5) : RoundTrip.Statement (.vsel d a b x) := by
  intro hw _
  have := d.isLt; have := a.isLt; have := b.isLt; have := x.isLt
  simp only [encode, Instr.params, Instr.word]
  generalize hn : 0xB0000009 + d.toNat * 8388608 + a.toNat * 1048576 + b.toNat * 131072 + x.toNat * 4096 = n
  have hl : n < 4294967296 := by omega
  have hm : fldN (mkWord n) 26 6 = 0x2C := fldN_is hl (by omega)
  have c0_5 : fldN (mkWord n) 0 5 = 9 := fldN_is hl (by omega)
  have c0_12 : fldN (mkWord n) 0 12 = 9 := fldN_is hl (by omega)
  have c7_5 : fldN (mkWord n) 7 5 = 0 := fldN_is hl (by omega)
  refine one_of hm rfl ?_
  simp only [decodeOne, hm, decodeMajor2C, c0_5, c0_12, c7_5, Nat.reduceEqDiff, reduceIte, and_true, true_and, and_false, false_and, and_self]
  congr 2 <;> exact fld_mk _ _ _ hl (by omega)

theorem RoundTrip.vcmp (d : BitVec 3) (a : BitVec 3) (b : BitVec 3) (x : BitVec 5) (y : BitVec 5) (s : BitVec 2) : RoundTrip.Statement (.vcmp d a b x y s) := by
  intro hw _
  have := d.isLt; have := a.isLt; have := b.isLt; have := x.isLt; have := y.isLt; have := s.isLt
  simp only [encode, Instr.params, Instr.word]
  generalize hn : 0xB000000A + d.toNat * 8388608 + a.toNat * 1048576 + b.toNat * 131072 + x.toNat * 4096 + y.toNat * 128 + s.toNat * 32 = n
  have hl : n < 4294967296 := by omega
  have hm : fldN (mkWord n) 26 6 = 0x2C := fldN_is hl (by omega)
  have c0_5 : fldN (mkWord n) 0 5 = 10 := fldN_is hl (by omega)
  refine one_of hm rfl ?_
  simp only [decodeOne, hm, decodeMajor2C, c0_5, Nat.reduceEqDiff, reduceIte, and_true, true_and, and_false, false_and, and_self]
  rw [if_neg (by rw [fldN_mk _ _ _ hl]; omega)]
  congr 2 <;> exact fld_mk _ _ _ hl (by omega)

theorem RoundTrip.vred (d : BitVec 3) (a : BitVec 3) (y : BitVec 5) (s : BitVec 2) : RoundTrip.Statement (.vred d a y s) := by
  intro hw _
  have := d.isLt; have := a.isLt; have := y.isLt; have := s.isLt
  simp only [encode, Instr.params, Instr.word]
  generalize hn : 0xB000000B + d.toNat * 8388608 + a.toNat * 1048576 + y.toNat * 128 + s.toNat * 32 = n
  have hl : n < 4294967296 := by omega
  have hm : fldN (mkWord n) 26 6 = 0x2C := fldN_is hl (by omega)
  have c0_5 : fldN (mkWord n) 0 5 = 11 := fldN_is hl (by omega)
  have c12_5 : fldN (mkWord n) 12 5 = 0 := fldN_is hl (by omega)
  have c12_8 : fldN (mkWord n) 12 8 = 0 := fldN_is hl (by omega)
  refine one_of hm rfl ?_
  simp only [decodeOne, hm, decodeMajor2C, c0_5, c12_5, c12_8, Nat.reduceEqDiff, reduceIte, and_true, true_and, and_false, false_and, and_self]
  rw [if_neg (by rw [fldN_mk _ _ _ hl]; omega)]
  congr 2 <;> exact fld_mk _ _ _ hl (by omega)

theorem RoundTrip.vscan (d : BitVec 3) (a : BitVec 3) (y : BitVec 5) (s : BitVec 2) : RoundTrip.Statement (.vscan d a y s) := by
  intro hw _
  have := d.isLt; have := a.isLt; have := y.isLt; have := s.isLt
  simp only [encode, Instr.params, Instr.word]
  generalize hn : 0xB000000C + d.toNat * 8388608 + a.toNat * 1048576 + y.toNat * 128 + s.toNat * 32 = n
  have hl : n < 4294967296 := by omega
  have hm : fldN (mkWord n) 26 6 = 0x2C := fldN_is hl (by omega)
  have c0_5 : fldN (mkWord n) 0 5 = 12 := fldN_is hl (by omega)
  have c12_5 : fldN (mkWord n) 12 5 = 0 := fldN_is hl (by omega)
  have c12_8 : fldN (mkWord n) 12 8 = 0 := fldN_is hl (by omega)
  refine one_of hm rfl ?_
  simp only [decodeOne, hm, decodeMajor2C, c0_5, c12_5, c12_8, Nat.reduceEqDiff, reduceIte, and_true, true_and, and_false, false_and, and_self]
  rw [if_neg (by rw [fldN_mk _ _ _ hl]; omega)]
  congr 2 <;> exact fld_mk _ _ _ hl (by omega)

theorem RoundTrip.vdot (d : BitVec 3) (a : BitVec 3) (b : BitVec 3) (y : BitVec 5) (s : BitVec 2) : RoundTrip.Statement (.vdot d a b y s) := by
  intro hw _
  have := d.isLt; have := a.isLt; have := b.isLt; have := y.isLt; have := s.isLt
  simp only [encode, Instr.params, Instr.word]
  generalize hn : 0xB000000D + d.toNat * 8388608 + a.toNat * 1048576 + b.toNat * 131072 + y.toNat * 128 + s.toNat * 32 = n
  have hl : n < 4294967296 := by omega
  have hm : fldN (mkWord n) 26 6 = 0x2C := fldN_is hl (by omega)
  have c0_5 : fldN (mkWord n) 0 5 = 13 := fldN_is hl (by omega)
  have c12_5 : fldN (mkWord n) 12 5 = 0 := fldN_is hl (by omega)
  refine one_of hm rfl ?_
  simp only [decodeOne, hm, decodeMajor2C, c0_5, c12_5, Nat.reduceEqDiff, reduceIte, and_true, true_and, and_false, false_and, and_self]
  rw [if_neg (by rw [fldN_mk _ _ _ hl]; omega)]
  congr 2 <;> exact fld_mk _ _ _ hl (by omega)

theorem RoundTrip.vexp (d : BitVec 3) (a : BitVec 3) : RoundTrip.Statement (.vexp d a) := by
  intro hw _
  have := d.isLt; have := a.isLt
  simp only [encode, Instr.params, Instr.word]
  generalize hn : 0xB0000010 + d.toNat * 8388608 + a.toNat * 1048576 = n
  have hl : n < 4294967296 := by omega
  have hm : fldN (mkWord n) 26 6 = 0x2C := fldN_is hl (by omega)
  have c0_5 : fldN (mkWord n) 0 5 = 16 := fldN_is hl (by omega)
  have c0_12 : fldN (mkWord n) 0 12 = 16 := fldN_is hl (by omega)
  have c0_20 : fldN (mkWord n) 0 20 = 16 := fldN_is hl (by omega)
  have c7_5 : fldN (mkWord n) 7 5 = 0 := fldN_is hl (by omega)
  have c7_13 : fldN (mkWord n) 7 13 = 0 := fldN_is hl (by omega)
  have c12_5 : fldN (mkWord n) 12 5 = 0 := fldN_is hl (by omega)
  have c12_8 : fldN (mkWord n) 12 8 = 0 := fldN_is hl (by omega)
  refine one_of hm rfl ?_
  simp only [decodeOne, hm, decodeMajor2C, c0_5, c0_12, c0_20, c7_5, c7_13, c12_5, c12_8, Nat.reduceEqDiff, reduceIte, and_true, true_and, and_false, false_and, and_self]
  congr 2 <;> exact fld_mk _ _ _ hl (by omega)

theorem RoundTrip.vlog (d : BitVec 3) (a : BitVec 3) : RoundTrip.Statement (.vlog d a) := by
  intro hw _
  have := d.isLt; have := a.isLt
  simp only [encode, Instr.params, Instr.word]
  generalize hn : 0xB0000011 + d.toNat * 8388608 + a.toNat * 1048576 = n
  have hl : n < 4294967296 := by omega
  have hm : fldN (mkWord n) 26 6 = 0x2C := fldN_is hl (by omega)
  have c0_5 : fldN (mkWord n) 0 5 = 17 := fldN_is hl (by omega)
  have c0_12 : fldN (mkWord n) 0 12 = 17 := fldN_is hl (by omega)
  have c0_20 : fldN (mkWord n) 0 20 = 17 := fldN_is hl (by omega)
  have c7_5 : fldN (mkWord n) 7 5 = 0 := fldN_is hl (by omega)
  have c7_13 : fldN (mkWord n) 7 13 = 0 := fldN_is hl (by omega)
  have c12_5 : fldN (mkWord n) 12 5 = 0 := fldN_is hl (by omega)
  have c12_8 : fldN (mkWord n) 12 8 = 0 := fldN_is hl (by omega)
  refine one_of hm rfl ?_
  simp only [decodeOne, hm, decodeMajor2C, c0_5, c0_12, c0_20, c7_5, c7_13, c12_5, c12_8, Nat.reduceEqDiff, reduceIte, and_true, true_and, and_false, false_and, and_self]
  congr 2 <;> exact fld_mk _ _ _ hl (by omega)

theorem RoundTrip.vrcp (d : BitVec 3) (a : BitVec 3) : RoundTrip.Statement (.vrcp d a) := by
  intro hw _
  have := d.isLt; have := a.isLt
  simp only [encode, Instr.params, Instr.word]
  generalize hn : 0xB0000012 + d.toNat * 8388608 + a.toNat * 1048576 = n
  have hl : n < 4294967296 := by omega
  have hm : fldN (mkWord n) 26 6 = 0x2C := fldN_is hl (by omega)
  have c0_5 : fldN (mkWord n) 0 5 = 18 := fldN_is hl (by omega)
  have c0_12 : fldN (mkWord n) 0 12 = 18 := fldN_is hl (by omega)
  have c0_20 : fldN (mkWord n) 0 20 = 18 := fldN_is hl (by omega)
  have c7_5 : fldN (mkWord n) 7 5 = 0 := fldN_is hl (by omega)
  have c7_13 : fldN (mkWord n) 7 13 = 0 := fldN_is hl (by omega)
  have c12_5 : fldN (mkWord n) 12 5 = 0 := fldN_is hl (by omega)
  have c12_8 : fldN (mkWord n) 12 8 = 0 := fldN_is hl (by omega)
  refine one_of hm rfl ?_
  simp only [decodeOne, hm, decodeMajor2C, c0_5, c0_12, c0_20, c7_5, c7_13, c12_5, c12_8, Nat.reduceEqDiff, reduceIte, and_true, true_and, and_false, false_and, and_self]
  congr 2 <;> exact fld_mk _ _ _ hl (by omega)

theorem RoundTrip.vrsq (d : BitVec 3) (a : BitVec 3) : RoundTrip.Statement (.vrsq d a) := by
  intro hw _
  have := d.isLt; have := a.isLt
  simp only [encode, Instr.params, Instr.word]
  generalize hn : 0xB0000013 + d.toNat * 8388608 + a.toNat * 1048576 = n
  have hl : n < 4294967296 := by omega
  have hm : fldN (mkWord n) 26 6 = 0x2C := fldN_is hl (by omega)
  have c0_5 : fldN (mkWord n) 0 5 = 19 := fldN_is hl (by omega)
  have c0_12 : fldN (mkWord n) 0 12 = 19 := fldN_is hl (by omega)
  have c0_20 : fldN (mkWord n) 0 20 = 19 := fldN_is hl (by omega)
  have c7_5 : fldN (mkWord n) 7 5 = 0 := fldN_is hl (by omega)
  have c7_13 : fldN (mkWord n) 7 13 = 0 := fldN_is hl (by omega)
  have c12_5 : fldN (mkWord n) 12 5 = 0 := fldN_is hl (by omega)
  have c12_8 : fldN (mkWord n) 12 8 = 0 := fldN_is hl (by omega)
  refine one_of hm rfl ?_
  simp only [decodeOne, hm, decodeMajor2C, c0_5, c0_12, c0_20, c7_5, c7_13, c12_5, c12_8, Nat.reduceEqDiff, reduceIte, and_true, true_and, and_false, false_and, and_self]
  congr 2 <;> exact fld_mk _ _ _ hl (by omega)

theorem RoundTrip.vtanh (d : BitVec 3) (a : BitVec 3) : RoundTrip.Statement (.vtanh d a) := by
  intro hw _
  have := d.isLt; have := a.isLt
  simp only [encode, Instr.params, Instr.word]
  generalize hn : 0xB0000014 + d.toNat * 8388608 + a.toNat * 1048576 = n
  have hl : n < 4294967296 := by omega
  have hm : fldN (mkWord n) 26 6 = 0x2C := fldN_is hl (by omega)
  have c0_5 : fldN (mkWord n) 0 5 = 20 := fldN_is hl (by omega)
  have c0_12 : fldN (mkWord n) 0 12 = 20 := fldN_is hl (by omega)
  have c0_20 : fldN (mkWord n) 0 20 = 20 := fldN_is hl (by omega)
  have c7_5 : fldN (mkWord n) 7 5 = 0 := fldN_is hl (by omega)
  have c7_13 : fldN (mkWord n) 7 13 = 0 := fldN_is hl (by omega)
  have c12_5 : fldN (mkWord n) 12 5 = 0 := fldN_is hl (by omega)
  have c12_8 : fldN (mkWord n) 12 8 = 0 := fldN_is hl (by omega)
  refine one_of hm rfl ?_
  simp only [decodeOne, hm, decodeMajor2C, c0_5, c0_12, c0_20, c7_5, c7_13, c12_5, c12_8, Nat.reduceEqDiff, reduceIte, and_true, true_and, and_false, false_and, and_self]
  congr 2 <;> exact fld_mk _ _ _ hl (by omega)

theorem RoundTrip.vsigm (d : BitVec 3) (a : BitVec 3) : RoundTrip.Statement (.vsigm d a) := by
  intro hw _
  have := d.isLt; have := a.isLt
  simp only [encode, Instr.params, Instr.word]
  generalize hn : 0xB0000015 + d.toNat * 8388608 + a.toNat * 1048576 = n
  have hl : n < 4294967296 := by omega
  have hm : fldN (mkWord n) 26 6 = 0x2C := fldN_is hl (by omega)
  have c0_5 : fldN (mkWord n) 0 5 = 21 := fldN_is hl (by omega)
  have c0_12 : fldN (mkWord n) 0 12 = 21 := fldN_is hl (by omega)
  have c0_20 : fldN (mkWord n) 0 20 = 21 := fldN_is hl (by omega)
  have c7_5 : fldN (mkWord n) 7 5 = 0 := fldN_is hl (by omega)
  have c7_13 : fldN (mkWord n) 7 13 = 0 := fldN_is hl (by omega)
  have c12_5 : fldN (mkWord n) 12 5 = 0 := fldN_is hl (by omega)
  have c12_8 : fldN (mkWord n) 12 8 = 0 := fldN_is hl (by omega)
  refine one_of hm rfl ?_
  simp only [decodeOne, hm, decodeMajor2C, c0_5, c0_12, c0_20, c7_5, c7_13, c12_5, c12_8, Nat.reduceEqDiff, reduceIte, and_true, true_and, and_false, false_and, and_self]
  congr 2 <;> exact fld_mk _ _ _ hl (by omega)

theorem RoundTrip.vfence : RoundTrip.Statement (.vfence) := by
  intro hw _
  simp only [encode, Instr.params, Instr.word]
  have hm : fldN (mkWord 0xB000001F) 26 6 = 0x2C := by decide
  have c0_5 : fldN (mkWord 0xB000001F) 0 5 = 31 := by decide
  have c0_12 : fldN (mkWord 0xB000001F) 0 12 = 31 := by decide
  have c0_20 : fldN (mkWord 0xB000001F) 0 20 = 31 := by decide
  have c0_26 : fldN (mkWord 0xB000001F) 0 26 = 31 := by decide
  have c7_5 : fldN (mkWord 0xB000001F) 7 5 = 0 := by decide
  have c7_13 : fldN (mkWord 0xB000001F) 7 13 = 0 := by decide
  have c12_5 : fldN (mkWord 0xB000001F) 12 5 = 0 := by decide
  have c12_8 : fldN (mkWord 0xB000001F) 12 8 = 0 := by decide
  refine one_of hm rfl ?_
  simp only [decodeOne, hm, decodeMajor2C, c0_5, c0_12, c0_20, c0_26, c7_5, c7_13, c12_5, c12_8, Nat.reduceEqDiff, reduceIte, and_true, true_and, and_false, false_and, and_self]

theorem RoundTrip.vectorBeat (core : Nat) (slot : Nat) : RoundTrip.Statement (.vectorBeat core slot) := fun _ h => nomatch h

theorem RoundTrip.sfuResult (core : Nat) : RoundTrip.Statement (.sfuResult core) := fun _ h => nomatch h

theorem RoundTrip.mlease (l : BitVec 4) (p : Params) : RoundTrip.Statement (.mlease l p) := by
  intro hw _
  have := l.isLt
  simp only [encode, Instr.params, Instr.word]
  generalize hn : 0xC0000000 + l.toNat * 128 = n
  have hl : n < 4294967296 := by omega
  have hm : fldN (mkWord n) 26 6 = 0x30 := fldN_is hl (by omega)
  have c0_4 : fldN (mkWord n) 0 4 = 0 := fldN_is hl (by omega)
  have c4_1 : fldN (mkWord n) 4 1 = 0 := fldN_is hl (by omega)
  have c5_2 : fldN (mkWord n) 5 2 = 0 := fldN_is hl (by omega)
  have c11_5 : fldN (mkWord n) 11 5 = 0 := fldN_is hl (by omega)
  have c16_5 : fldN (mkWord n) 16 5 = 0 := fldN_is hl (by omega)
  have c21_5 : fldN (mkWord n) 21 5 = 0 := fldN_is hl (by omega)
  refine five_of hm rfl ?_
  simp only [decodeL, hm, decodeMajor30, c0_4, c4_1, c5_2, c11_5, c16_5, c21_5, Nat.reduceEqDiff, reduceIte, and_true, true_and, and_false, false_and, and_self]
  congr 2 <;> first | rfl | exact fld_mk _ _ _ hl (by omega)

theorem RoundTrip.arrayLeaseGrant (cluster : Nat) : RoundTrip.Statement (.arrayLeaseGrant cluster) := fun _ h => nomatch h

theorem RoundTrip.leaseTimeLimit (cluster : Nat) : RoundTrip.Statement (.leaseTimeLimit cluster) := fun _ h => nomatch h

theorem RoundTrip.mfree (p : Params) : RoundTrip.Statement (.mfree p) := by
  intro hw _
  simp only [encode, Instr.params, Instr.word]
  have hm : fldN (mkWord 0xC0000001) 26 6 = 0x30 := by decide
  have c0_4 : fldN (mkWord 0xC0000001) 0 4 = 1 := by decide
  have c4_1 : fldN (mkWord 0xC0000001) 4 1 = 0 := by decide
  have c5_2 : fldN (mkWord 0xC0000001) 5 2 = 0 := by decide
  have c7_4 : fldN (mkWord 0xC0000001) 7 4 = 0 := by decide
  have c11_5 : fldN (mkWord 0xC0000001) 11 5 = 0 := by decide
  have c16_5 : fldN (mkWord 0xC0000001) 16 5 = 0 := by decide
  have c21_5 : fldN (mkWord 0xC0000001) 21 5 = 0 := by decide
  refine five_of hm rfl ?_
  simp only [decodeL, hm, decodeMajor30, c0_4, c4_1, c5_2, c7_4, c11_5, c16_5, c21_5, Nat.reduceEqDiff, reduceIte, and_true, true_and, and_false, false_and, and_self]

theorem RoundTrip.mwait (p : Params) : RoundTrip.Statement (.mwait p) := by
  intro hw _
  simp only [encode, Instr.params, Instr.word]
  have hm : fldN (mkWord 0xC000000B) 26 6 = 0x30 := by decide
  have c0_4 : fldN (mkWord 0xC000000B) 0 4 = 11 := by decide
  have c4_1 : fldN (mkWord 0xC000000B) 4 1 = 0 := by decide
  have c5_2 : fldN (mkWord 0xC000000B) 5 2 = 0 := by decide
  have c7_4 : fldN (mkWord 0xC000000B) 7 4 = 0 := by decide
  have c11_5 : fldN (mkWord 0xC000000B) 11 5 = 0 := by decide
  have c16_5 : fldN (mkWord 0xC000000B) 16 5 = 0 := by decide
  have c21_5 : fldN (mkWord 0xC000000B) 21 5 = 0 := by decide
  refine five_of hm rfl ?_
  simp only [decodeL, hm, decodeMajor30, c0_4, c4_1, c5_2, c7_4, c11_5, c16_5, c21_5, Nat.reduceEqDiff, reduceIte, and_true, true_and, and_false, false_and, and_self]

theorem RoundTrip.mloadb (a : BitVec 5) (b : BitVec 5) (l : BitVec 4) (p : Params) : RoundTrip.Statement (.mloadb a b l p) := by
  intro hw _
  have := a.isLt; have := b.isLt; have := l.isLt
  simp only [encode, Instr.params, Instr.word]
  generalize hn : 0xC0000002 + a.toNat * 65536 + b.toNat * 2048 + l.toNat * 128 = n
  have hl : n < 4294967296 := by omega
  have hm : fldN (mkWord n) 26 6 = 0x30 := fldN_is hl (by omega)
  have c0_4 : fldN (mkWord n) 0 4 = 2 := fldN_is hl (by omega)
  have c4_1 : fldN (mkWord n) 4 1 = 0 := fldN_is hl (by omega)
  have c5_2 : fldN (mkWord n) 5 2 = 0 := fldN_is hl (by omega)
  have c21_5 : fldN (mkWord n) 21 5 = 0 := fldN_is hl (by omega)
  refine five_of hm rfl ?_
  simp only [decodeL, hm, decodeMajor30, c0_4, c4_1, c5_2, c21_5, Nat.reduceEqDiff, reduceIte, and_true, true_and, and_false, false_and, and_self]
  congr 2 <;> first | rfl | exact fld_mk _ _ _ hl (by omega)

theorem RoundTrip.mloadbTransferDone (cluster : Nat) (id : Nat) : RoundTrip.Statement (.mloadbTransferDone cluster id) := fun _ h => nomatch h

theorem RoundTrip.mcb (a : BitVec 5) (l : BitVec 4) (p : Params) : RoundTrip.Statement (.mcb a l p) := by
  intro hw _
  have := a.isLt; have := l.isLt
  simp only [encode, Instr.params, Instr.word]
  generalize hn : 0xC0000003 + a.toNat * 65536 + l.toNat * 128 = n
  have hl : n < 4294967296 := by omega
  have hm : fldN (mkWord n) 26 6 = 0x30 := fldN_is hl (by omega)
  have c0_4 : fldN (mkWord n) 0 4 = 3 := fldN_is hl (by omega)
  have c4_1 : fldN (mkWord n) 4 1 = 0 := fldN_is hl (by omega)
  have c5_2 : fldN (mkWord n) 5 2 = 0 := fldN_is hl (by omega)
  have c11_5 : fldN (mkWord n) 11 5 = 0 := fldN_is hl (by omega)
  have c21_5 : fldN (mkWord n) 21 5 = 0 := fldN_is hl (by omega)
  refine five_of hm rfl ?_
  simp only [decodeL, hm, decodeMajor30, c0_4, c4_1, c5_2, c11_5, c21_5, Nat.reduceEqDiff, reduceIte, and_true, true_and, and_false, false_and, and_self]
  congr 2 <;> first | rfl | exact fld_mk _ _ _ hl (by omega)

theorem RoundTrip.mzero (d : BitVec 5) (a : BitVec 5) (l : BitVec 4) (p : Params) : RoundTrip.Statement (.mzero d a l p) := by
  intro hw _
  have := d.isLt; have := a.isLt; have := l.isLt
  simp only [encode, Instr.params, Instr.word]
  generalize hn : 0xC0000004 + d.toNat * 2097152 + a.toNat * 65536 + l.toNat * 128 = n
  have hl : n < 4294967296 := by omega
  have hm : fldN (mkWord n) 26 6 = 0x30 := fldN_is hl (by omega)
  have c0_4 : fldN (mkWord n) 0 4 = 4 := fldN_is hl (by omega)
  have c4_1 : fldN (mkWord n) 4 1 = 0 := fldN_is hl (by omega)
  have c5_2 : fldN (mkWord n) 5 2 = 0 := fldN_is hl (by omega)
  have c11_5 : fldN (mkWord n) 11 5 = 0 := fldN_is hl (by omega)
  refine five_of hm rfl ?_
  simp only [decodeL, hm, decodeMajor30, c0_4, c4_1, c5_2, c11_5, Nat.reduceEqDiff, reduceIte, and_true, true_and, and_false, false_and, and_self]
  congr 2 <;> first | rfl | exact fld_mk _ _ _ hl (by omega)

theorem RoundTrip.mma (d : BitVec 5) (a : BitVec 5) (b : BitVec 5) (l : BitVec 4) (c : BitVec 1) (p : Params) : RoundTrip.Statement (.mma d a b l c p) := by
  intro hw _
  have := d.isLt; have := a.isLt; have := b.isLt; have := l.isLt; have := c.isLt
  simp only [encode, Instr.params, Instr.word]
  generalize hn : 0xC0000005 + d.toNat * 2097152 + a.toNat * 65536 + b.toNat * 2048 + l.toNat * 128 + c.toNat * 16 = n
  have hl : n < 4294967296 := by omega
  have hm : fldN (mkWord n) 26 6 = 0x30 := fldN_is hl (by omega)
  have c0_4 : fldN (mkWord n) 0 4 = 5 := fldN_is hl (by omega)
  have c5_2 : fldN (mkWord n) 5 2 = 0 := fldN_is hl (by omega)
  refine five_of hm rfl ?_
  simp only [decodeL, hm, decodeMajor30, c0_4, c5_2, Nat.reduceEqDiff, reduceIte, and_true, true_and, and_false, false_and, and_self]
  congr 2 <;> first | rfl | exact fld_mk _ _ _ hl (by omega)

theorem RoundTrip.mmas (d : BitVec 5) (a : BitVec 5) (b : BitVec 5) (l : BitVec 4) (c : BitVec 1) (p : Params) : RoundTrip.Statement (.mmas d a b l c p) := by
  intro hw _
  have := d.isLt; have := a.isLt; have := b.isLt; have := l.isLt; have := c.isLt
  simp only [encode, Instr.params, Instr.word]
  generalize hn : 0xC0000006 + d.toNat * 2097152 + a.toNat * 65536 + b.toNat * 2048 + l.toNat * 128 + c.toNat * 16 = n
  have hl : n < 4294967296 := by omega
  have hm : fldN (mkWord n) 26 6 = 0x30 := fldN_is hl (by omega)
  have c0_4 : fldN (mkWord n) 0 4 = 6 := fldN_is hl (by omega)
  have c5_2 : fldN (mkWord n) 5 2 = 0 := fldN_is hl (by omega)
  refine five_of hm rfl ?_
  simp only [decodeL, hm, decodeMajor30, c0_4, c5_2, Nat.reduceEqDiff, reduceIte, and_true, true_and, and_false, false_and, and_self]
  congr 2 <;> first | rfl | exact fld_mk _ _ _ hl (by omega)

theorem RoundTrip.mepi (d : BitVec 5) (a : BitVec 5) (b : BitVec 5) (l : BitVec 4) (p : Params) : RoundTrip.Statement (.mepi d a b l p) := by
  intro hw _
  have := d.isLt; have := a.isLt; have := b.isLt; have := l.isLt
  simp only [encode, Instr.params, Instr.word]
  generalize hn : 0xC0000007 + d.toNat * 2097152 + a.toNat * 65536 + b.toNat * 2048 + l.toNat * 128 = n
  have hl : n < 4294967296 := by omega
  have hm : fldN (mkWord n) 26 6 = 0x30 := fldN_is hl (by omega)
  have c0_4 : fldN (mkWord n) 0 4 = 7 := fldN_is hl (by omega)
  have c4_1 : fldN (mkWord n) 4 1 = 0 := fldN_is hl (by omega)
  have c5_2 : fldN (mkWord n) 5 2 = 0 := fldN_is hl (by omega)
  refine five_of hm rfl ?_
  simp only [decodeL, hm, decodeMajor30, c0_4, c4_1, c5_2, Nat.reduceEqDiff, reduceIte, and_true, true_and, and_false, false_and, and_self]
  congr 2 <;> first | rfl | exact fld_mk _ _ _ hl (by omega)

theorem RoundTrip.mepiWritesDone (cluster : Nat) (id : Nat) : RoundTrip.Statement (.mepiWritesDone cluster id) := fun _ h => nomatch h

theorem RoundTrip.mprog (l : BitVec 4) (p : Params) : RoundTrip.Statement (.mprog l p) := by
  intro hw _
  have := l.isLt
  simp only [encode, Instr.params, Instr.word]
  generalize hn : 0xC0000008 + l.toNat * 128 = n
  have hl : n < 4294967296 := by omega
  have hm : fldN (mkWord n) 26 6 = 0x30 := fldN_is hl (by omega)
  have c0_4 : fldN (mkWord n) 0 4 = 8 := fldN_is hl (by omega)
  have c4_1 : fldN (mkWord n) 4 1 = 0 := fldN_is hl (by omega)
  have c5_2 : fldN (mkWord n) 5 2 = 0 := fldN_is hl (by omega)
  have c11_5 : fldN (mkWord n) 11 5 = 0 := fldN_is hl (by omega)
  have c16_5 : fldN (mkWord n) 16 5 = 0 := fldN_is hl (by omega)
  have c21_5 : fldN (mkWord n) 21 5 = 0 := fldN_is hl (by omega)
  refine five_of hm rfl ?_
  simp only [decodeL, hm, decodeMajor30, c0_4, c4_1, c5_2, c11_5, c16_5, c21_5, Nat.reduceEqDiff, reduceIte, and_true, true_and, and_false, false_and, and_self]
  congr 2 <;> first | rfl | exact fld_mk _ _ _ hl (by omega)

theorem RoundTrip.mrec (d : BitVec 5) (a : BitVec 5) (b : BitVec 5) (l : BitVec 4) (p : Params) : RoundTrip.Statement (.mrec d a b l p) := by
  intro hw _
  have := d.isLt; have := a.isLt; have := b.isLt; have := l.isLt
  simp only [encode, Instr.params, Instr.word]
  generalize hn : 0xC0000009 + d.toNat * 2097152 + a.toNat * 65536 + b.toNat * 2048 + l.toNat * 128 = n
  have hl : n < 4294967296 := by omega
  have hm : fldN (mkWord n) 26 6 = 0x30 := fldN_is hl (by omega)
  have c0_4 : fldN (mkWord n) 0 4 = 9 := fldN_is hl (by omega)
  have c4_1 : fldN (mkWord n) 4 1 = 0 := fldN_is hl (by omega)
  have c5_2 : fldN (mkWord n) 5 2 = 0 := fldN_is hl (by omega)
  refine five_of hm rfl ?_
  simp only [decodeL, hm, decodeMajor30, c0_4, c4_1, c5_2, Nat.reduceEqDiff, reduceIte, and_true, true_and, and_false, false_and, and_self]
  congr 2 <;> first | rfl | exact fld_mk _ _ _ hl (by omega)

theorem RoundTrip.mocmp (d : BitVec 5) (a : BitVec 5) (b : BitVec 5) (l : BitVec 4) (p : Params) : RoundTrip.Statement (.mocmp d a b l p) := by
  intro hw _
  have := d.isLt; have := a.isLt; have := b.isLt; have := l.isLt
  simp only [encode, Instr.params, Instr.word]
  generalize hn : 0xC000000A + d.toNat * 2097152 + a.toNat * 65536 + b.toNat * 2048 + l.toNat * 128 = n
  have hl : n < 4294967296 := by omega
  have hm : fldN (mkWord n) 26 6 = 0x30 := fldN_is hl (by omega)
  have c0_4 : fldN (mkWord n) 0 4 = 10 := fldN_is hl (by omega)
  have c4_1 : fldN (mkWord n) 4 1 = 0 := fldN_is hl (by omega)
  have c5_2 : fldN (mkWord n) 5 2 = 0 := fldN_is hl (by omega)
  refine five_of hm rfl ?_
  simp only [decodeL, hm, decodeMajor30, c0_4, c4_1, c5_2, Nat.reduceEqDiff, reduceIte, and_true, true_and, and_false, false_and, and_self]
  congr 2 <;> first | rfl | exact fld_mk _ _ _ hl (by omega)

theorem RoundTrip.arrayCommandComplete (cluster : Nat) : RoundTrip.Statement (.arrayCommandComplete cluster) := fun _ h => nomatch h

theorem RoundTrip.arrayOperandsConsumed (cluster : Nat) : RoundTrip.Statement (.arrayOperandsConsumed cluster) := fun _ h => nomatch h

theorem RoundTrip.btld (d : BitVec 5) (a : BitVec 5) (l : BitVec 4) : RoundTrip.Statement (.btld d a l) := by
  intro hw _
  have := d.isLt; have := a.isLt; have := l.isLt
  simp only [encode, Instr.params, Instr.word]
  generalize hn : 0xC4000000 + d.toNat * 2097152 + a.toNat * 65536 + l.toNat * 128 = n
  have hl : n < 4294967296 := by omega
  have hm : fldN (mkWord n) 26 6 = 0x31 := fldN_is hl (by omega)
  have c0_4 : fldN (mkWord n) 0 4 = 0 := fldN_is hl (by omega)
  have c0_7 : fldN (mkWord n) 0 7 = 0 := fldN_is hl (by omega)
  have c5_2 : fldN (mkWord n) 5 2 = 0 := fldN_is hl (by omega)
  have c11_5 : fldN (mkWord n) 11 5 = 0 := fldN_is hl (by omega)
  refine one_of hm rfl ?_
  simp only [decodeOne, hm, decodeMajor31, c0_4, c0_7, c5_2, c11_5, Nat.reduceEqDiff, reduceIte, and_true, true_and, and_false, false_and, and_self]
  congr 2 <;> exact fld_mk _ _ _ hl (by omega)

theorem RoundTrip.btst (s : BitVec 5) (a : BitVec 5) (l : BitVec 4) : RoundTrip.Statement (.btst s a l) := by
  intro hw _
  have := s.isLt; have := a.isLt; have := l.isLt
  simp only [encode, Instr.params, Instr.word]
  generalize hn : 0xC4000001 + s.toNat * 2097152 + a.toNat * 65536 + l.toNat * 128 = n
  have hl : n < 4294967296 := by omega
  have hm : fldN (mkWord n) 26 6 = 0x31 := fldN_is hl (by omega)
  have c0_4 : fldN (mkWord n) 0 4 = 1 := fldN_is hl (by omega)
  have c0_7 : fldN (mkWord n) 0 7 = 1 := fldN_is hl (by omega)
  have c5_2 : fldN (mkWord n) 5 2 = 0 := fldN_is hl (by omega)
  have c11_5 : fldN (mkWord n) 11 5 = 0 := fldN_is hl (by omega)
  refine one_of hm rfl ?_
  simp only [decodeOne, hm, decodeMajor31, c0_4, c0_7, c5_2, c11_5, Nat.reduceEqDiff, reduceIte, and_true, true_and, and_false, false_and, and_self]
  congr 2 <;> exact fld_mk _ _ _ hl (by omega)

theorem RoundTrip.btand (d : BitVec 5) (a : BitVec 5) (b : BitVec 5) (l : BitVec 4) : RoundTrip.Statement (.btand d a b l) := by
  intro hw _
  have := d.isLt; have := a.isLt; have := b.isLt; have := l.isLt
  simp only [encode, Instr.params, Instr.word]
  generalize hn : 0xC4000002 + d.toNat * 2097152 + a.toNat * 65536 + b.toNat * 2048 + l.toNat * 128 = n
  have hl : n < 4294967296 := by omega
  have hm : fldN (mkWord n) 26 6 = 0x31 := fldN_is hl (by omega)
  have c0_4 : fldN (mkWord n) 0 4 = 2 := fldN_is hl (by omega)
  have c0_7 : fldN (mkWord n) 0 7 = 2 := fldN_is hl (by omega)
  have c5_2 : fldN (mkWord n) 5 2 = 0 := fldN_is hl (by omega)
  refine one_of hm rfl ?_
  simp only [decodeOne, hm, decodeMajor31, c0_4, c0_7, c5_2, Nat.reduceEqDiff, reduceIte, and_true, true_and, and_false, false_and, and_self]
  congr 2 <;> exact fld_mk _ _ _ hl (by omega)

theorem RoundTrip.btor (d : BitVec 5) (a : BitVec 5) (b : BitVec 5) (l : BitVec 4) : RoundTrip.Statement (.btor d a b l) := by
  intro hw _
  have := d.isLt; have := a.isLt; have := b.isLt; have := l.isLt
  simp only [encode, Instr.params, Instr.word]
  generalize hn : 0xC4000003 + d.toNat * 2097152 + a.toNat * 65536 + b.toNat * 2048 + l.toNat * 128 = n
  have hl : n < 4294967296 := by omega
  have hm : fldN (mkWord n) 26 6 = 0x31 := fldN_is hl (by omega)
  have c0_4 : fldN (mkWord n) 0 4 = 3 := fldN_is hl (by omega)
  have c0_7 : fldN (mkWord n) 0 7 = 3 := fldN_is hl (by omega)
  have c5_2 : fldN (mkWord n) 5 2 = 0 := fldN_is hl (by omega)
  refine one_of hm rfl ?_
  simp only [decodeOne, hm, decodeMajor31, c0_4, c0_7, c5_2, Nat.reduceEqDiff, reduceIte, and_true, true_and, and_false, false_and, and_self]
  congr 2 <;> exact fld_mk _ _ _ hl (by omega)

theorem RoundTrip.btxor (d : BitVec 5) (a : BitVec 5) (b : BitVec 5) (l : BitVec 4) : RoundTrip.Statement (.btxor d a b l) := by
  intro hw _
  have := d.isLt; have := a.isLt; have := b.isLt; have := l.isLt
  simp only [encode, Instr.params, Instr.word]
  generalize hn : 0xC4000004 + d.toNat * 2097152 + a.toNat * 65536 + b.toNat * 2048 + l.toNat * 128 = n
  have hl : n < 4294967296 := by omega
  have hm : fldN (mkWord n) 26 6 = 0x31 := fldN_is hl (by omega)
  have c0_4 : fldN (mkWord n) 0 4 = 4 := fldN_is hl (by omega)
  have c0_7 : fldN (mkWord n) 0 7 = 4 := fldN_is hl (by omega)
  have c5_2 : fldN (mkWord n) 5 2 = 0 := fldN_is hl (by omega)
  refine one_of hm rfl ?_
  simp only [decodeOne, hm, decodeMajor31, c0_4, c0_7, c5_2, Nat.reduceEqDiff, reduceIte, and_true, true_and, and_false, false_and, and_self]
  congr 2 <;> exact fld_mk _ _ _ hl (by omega)

theorem RoundTrip.btnot (d : BitVec 5) (a : BitVec 5) (l : BitVec 4) : RoundTrip.Statement (.btnot d a l) := by
  intro hw _
  have := d.isLt; have := a.isLt; have := l.isLt
  simp only [encode, Instr.params, Instr.word]
  generalize hn : 0xC4000005 + d.toNat * 2097152 + a.toNat * 65536 + l.toNat * 128 = n
  have hl : n < 4294967296 := by omega
  have hm : fldN (mkWord n) 26 6 = 0x31 := fldN_is hl (by omega)
  have c0_4 : fldN (mkWord n) 0 4 = 5 := fldN_is hl (by omega)
  have c0_7 : fldN (mkWord n) 0 7 = 5 := fldN_is hl (by omega)
  have c5_2 : fldN (mkWord n) 5 2 = 0 := fldN_is hl (by omega)
  have c11_5 : fldN (mkWord n) 11 5 = 0 := fldN_is hl (by omega)
  refine one_of hm rfl ?_
  simp only [decodeOne, hm, decodeMajor31, c0_4, c0_7, c5_2, c11_5, Nat.reduceEqDiff, reduceIte, and_true, true_and, and_false, false_and, and_self]
  congr 2 <;> exact fld_mk _ _ _ hl (by omega)

theorem RoundTrip.bttrn (d : BitVec 5) (a : BitVec 5) (l : BitVec 4) : RoundTrip.Statement (.bttrn d a l) := by
  intro hw _
  have := d.isLt; have := a.isLt; have := l.isLt
  simp only [encode, Instr.params, Instr.word]
  generalize hn : 0xC4000006 + d.toNat * 2097152 + a.toNat * 65536 + l.toNat * 128 = n
  have hl : n < 4294967296 := by omega
  have hm : fldN (mkWord n) 26 6 = 0x31 := fldN_is hl (by omega)
  have c0_4 : fldN (mkWord n) 0 4 = 6 := fldN_is hl (by omega)
  have c0_7 : fldN (mkWord n) 0 7 = 6 := fldN_is hl (by omega)
  have c5_2 : fldN (mkWord n) 5 2 = 0 := fldN_is hl (by omega)
  have c11_5 : fldN (mkWord n) 11 5 = 0 := fldN_is hl (by omega)
  refine one_of hm rfl ?_
  simp only [decodeOne, hm, decodeMajor31, c0_4, c0_7, c5_2, c11_5, Nat.reduceEqDiff, reduceIte, and_true, true_and, and_false, false_and, and_self]
  congr 2 <;> exact fld_mk _ _ _ hl (by omega)

theorem RoundTrip.btcomp (d : BitVec 5) (a : BitVec 5) (b : BitVec 5) (l : BitVec 4) : RoundTrip.Statement (.btcomp d a b l) := by
  intro hw _
  have := d.isLt; have := a.isLt; have := b.isLt; have := l.isLt
  simp only [encode, Instr.params, Instr.word]
  generalize hn : 0xC4000007 + d.toNat * 2097152 + a.toNat * 65536 + b.toNat * 2048 + l.toNat * 128 = n
  have hl : n < 4294967296 := by omega
  have hm : fldN (mkWord n) 26 6 = 0x31 := fldN_is hl (by omega)
  have c0_4 : fldN (mkWord n) 0 4 = 7 := fldN_is hl (by omega)
  have c0_7 : fldN (mkWord n) 0 7 = 7 := fldN_is hl (by omega)
  have c5_2 : fldN (mkWord n) 5 2 = 0 := fldN_is hl (by omega)
  refine one_of hm rfl ?_
  simp only [decodeOne, hm, decodeMajor31, c0_4, c0_7, c5_2, Nat.reduceEqDiff, reduceIte, and_true, true_and, and_false, false_and, and_self]
  congr 2 <;> exact fld_mk _ _ _ hl (by omega)

theorem RoundTrip.btclo (d : BitVec 5) (a : BitVec 5) (l : BitVec 4) (r : BitVec 1) : RoundTrip.Statement (.btclo d a l r) := by
  intro hw _
  have := d.isLt; have := a.isLt; have := l.isLt; have := r.isLt
  simp only [encode, Instr.params, Instr.word]
  generalize hn : 0xC4000008 + d.toNat * 2097152 + a.toNat * 65536 + l.toNat * 128 + r.toNat * 16 = n
  have hl : n < 4294967296 := by omega
  have hm : fldN (mkWord n) 26 6 = 0x31 := fldN_is hl (by omega)
  have c0_4 : fldN (mkWord n) 0 4 = 8 := fldN_is hl (by omega)
  have c5_2 : fldN (mkWord n) 5 2 = 0 := fldN_is hl (by omega)
  have c11_5 : fldN (mkWord n) 11 5 = 0 := fldN_is hl (by omega)
  refine one_of hm rfl ?_
  simp only [decodeOne, hm, decodeMajor31, c0_4, c5_2, c11_5, Nat.reduceEqDiff, reduceIte, and_true, true_and, and_false, false_and, and_self]
  rw [if_neg (by rw [fldN_mk _ _ _ hl]; omega)]
  rw [if_neg (by rw [fldN_mk _ _ _ hl]; omega)]
  rw [if_neg (by rw [fldN_mk _ _ _ hl]; omega)]
  rw [if_neg (by rw [fldN_mk _ _ _ hl]; omega)]
  rw [if_neg (by rw [fldN_mk _ _ _ hl]; omega)]
  rw [if_neg (by rw [fldN_mk _ _ _ hl]; omega)]
  rw [if_neg (by rw [fldN_mk _ _ _ hl]; omega)]
  rw [if_neg (by rw [fldN_mk _ _ _ hl]; omega)]
  congr 2 <;> exact fld_mk _ _ _ hl (by omega)

theorem RoundTrip.btrc (d : BitVec 5) (a : BitVec 5) (b : BitVec 5) (l : BitVec 4) : RoundTrip.Statement (.btrc d a b l) := by
  intro hw _
  have := d.isLt; have := a.isLt; have := b.isLt; have := l.isLt
  simp only [encode, Instr.params, Instr.word]
  generalize hn : 0xC4000009 + d.toNat * 2097152 + a.toNat * 65536 + b.toNat * 2048 + l.toNat * 128 = n
  have hl : n < 4294967296 := by omega
  have hm : fldN (mkWord n) 26 6 = 0x31 := fldN_is hl (by omega)
  have c0_4 : fldN (mkWord n) 0 4 = 9 := fldN_is hl (by omega)
  have c0_7 : fldN (mkWord n) 0 7 = 9 := fldN_is hl (by omega)
  have c5_2 : fldN (mkWord n) 5 2 = 0 := fldN_is hl (by omega)
  refine one_of hm rfl ?_
  simp only [decodeOne, hm, decodeMajor31, c0_4, c0_7, c5_2, Nat.reduceEqDiff, reduceIte, and_true, true_and, and_false, false_and, and_self]
  congr 2 <;> exact fld_mk _ _ _ hl (by omega)

theorem RoundTrip.launch (d : BitVec 5) (a : BitVec 5) (b : BitVec 5) (l : BitVec 4) (p : Params) : RoundTrip.Statement (.launch d a b l p) := by
  intro hw _
  have := d.isLt; have := a.isLt; have := b.isLt; have := l.isLt
  simp only [encode, Instr.params, Instr.word]
  generalize hn : 0xD4000000 + d.toNat * 2097152 + a.toNat * 65536 + b.toNat * 2048 + l.toNat * 128 = n
  have hl : n < 4294967296 := by omega
  have hm : fldN (mkWord n) 26 6 = 0x35 := fldN_is hl (by omega)
  have c0_4 : fldN (mkWord n) 0 4 = 0 := fldN_is hl (by omega)
  have c4_1 : fldN (mkWord n) 4 1 = 0 := fldN_is hl (by omega)
  have c5_2 : fldN (mkWord n) 5 2 = 0 := fldN_is hl (by omega)
  refine five_of hm rfl ?_
  simp only [decodeL, hm, decodeMajor35, c0_4, c4_1, c5_2, Nat.reduceEqDiff, reduceIte, and_true, true_and, and_false, false_and, and_self]
  congr 2 <;> first | rfl | exact fld_mk _ _ _ hl (by omega)

theorem RoundTrip.dispatchBlockPlace (die : Nat) : RoundTrip.Statement (.dispatchBlockPlace die) := fun _ h => nomatch h

theorem RoundTrip.launchPromotion (die : Nat) (entry : Nat) : RoundTrip.Statement (.launchPromotion die entry) := fun _ h => nomatch h

theorem RoundTrip.launchReserve (die : Nat) (entry : Nat) : RoundTrip.Statement (.launchReserve die entry) := fun _ h => nomatch h

theorem RoundTrip.blockComplete (handle : Nat) (block : Nat) : RoundTrip.Statement (.blockComplete handle block) := fun _ h => nomatch h

theorem RoundTrip.launchComplete (die : Nat) (entry : Nat) : RoundTrip.Statement (.launchComplete die entry) := fun _ h => nomatch h

theorem RoundTrip.start (a : BitVec 5) (b : BitVec 5) : RoundTrip.Statement (.start a b) := by
  intro hw _
  have := a.isLt; have := b.isLt
  simp only [encode, Instr.params, Instr.word]
  generalize hn : 0xD0000000 + a.toNat * 65536 + b.toNat * 2048 = n
  have hl : n < 4294967296 := by omega
  have hm : fldN (mkWord n) 26 6 = 0x34 := fldN_is hl (by omega)
  have c0_4 : fldN (mkWord n) 0 4 = 0 := fldN_is hl (by omega)
  have c0_7 : fldN (mkWord n) 0 7 = 0 := fldN_is hl (by omega)
  have c0_11 : fldN (mkWord n) 0 11 = 0 := fldN_is hl (by omega)
  have c21_5 : fldN (mkWord n) 21 5 = 0 := fldN_is hl (by omega)
  refine one_of hm rfl ?_
  simp only [decodeOne, hm, decodeMajor34, c0_4, c0_7, c0_11, c21_5, Nat.reduceEqDiff, reduceIte, and_true, true_and, and_false, false_and, and_self]
  congr 2 <;> exact fld_mk _ _ _ hl (by omega)

theorem RoundTrip.reap (a : BitVec 5) : RoundTrip.Statement (.reap a) := by
  intro hw _
  have := a.isLt
  simp only [encode, Instr.params, Instr.word]
  generalize hn : 0xD0000001 + a.toNat * 65536 = n
  have hl : n < 4294967296 := by omega
  have hm : fldN (mkWord n) 26 6 = 0x34 := fldN_is hl (by omega)
  have c0_4 : fldN (mkWord n) 0 4 = 1 := fldN_is hl (by omega)
  have c0_7 : fldN (mkWord n) 0 7 = 1 := fldN_is hl (by omega)
  have c0_11 : fldN (mkWord n) 0 11 = 1 := fldN_is hl (by omega)
  have c0_16 : fldN (mkWord n) 0 16 = 1 := fldN_is hl (by omega)
  have c7_9 : fldN (mkWord n) 7 9 = 0 := fldN_is hl (by omega)
  have c11_5 : fldN (mkWord n) 11 5 = 0 := fldN_is hl (by omega)
  have c21_5 : fldN (mkWord n) 21 5 = 0 := fldN_is hl (by omega)
  refine one_of hm rfl ?_
  simp only [decodeOne, hm, decodeMajor34, c0_4, c0_7, c0_11, c0_16, c7_9, c11_5, c21_5, Nat.reduceEqDiff, reduceIte, and_true, true_and, and_false, false_and, and_self]
  congr 2 <;> exact fld_mk _ _ _ hl (by omega)

theorem RoundTrip.yield : RoundTrip.Statement (.yield) := by
  intro hw _
  simp only [encode, Instr.params, Instr.word]
  have hm : fldN (mkWord 0xD0000002) 26 6 = 0x34 := by decide
  have c0_4 : fldN (mkWord 0xD0000002) 0 4 = 2 := by decide
  have c0_7 : fldN (mkWord 0xD0000002) 0 7 = 2 := by decide
  have c0_11 : fldN (mkWord 0xD0000002) 0 11 = 2 := by decide
  have c0_16 : fldN (mkWord 0xD0000002) 0 16 = 2 := by decide
  have c0_26 : fldN (mkWord 0xD0000002) 0 26 = 2 := by decide
  have c7_9 : fldN (mkWord 0xD0000002) 7 9 = 0 := by decide
  have c11_5 : fldN (mkWord 0xD0000002) 11 5 = 0 := by decide
  have c21_5 : fldN (mkWord 0xD0000002) 21 5 = 0 := by decide
  refine one_of hm rfl ?_
  simp only [decodeOne, hm, decodeMajor34, c0_4, c0_7, c0_11, c0_16, c0_26, c7_9, c11_5, c21_5, Nat.reduceEqDiff, reduceIte, and_true, true_and, and_false, false_and, and_self]

theorem RoundTrip.yieldWake (core : Nat) (slot : Nat) : RoundTrip.Statement (.yieldWake core slot) := fun _ h => nomatch h

theorem RoundTrip.exit : RoundTrip.Statement (.exit) := by
  intro hw _
  simp only [encode, Instr.params, Instr.word]
  have hm : fldN (mkWord 0xD0000003) 26 6 = 0x34 := by decide
  have c0_4 : fldN (mkWord 0xD0000003) 0 4 = 3 := by decide
  have c0_7 : fldN (mkWord 0xD0000003) 0 7 = 3 := by decide
  have c0_11 : fldN (mkWord 0xD0000003) 0 11 = 3 := by decide
  have c0_16 : fldN (mkWord 0xD0000003) 0 16 = 3 := by decide
  have c0_26 : fldN (mkWord 0xD0000003) 0 26 = 3 := by decide
  have c7_9 : fldN (mkWord 0xD0000003) 7 9 = 0 := by decide
  have c11_5 : fldN (mkWord 0xD0000003) 11 5 = 0 := by decide
  have c21_5 : fldN (mkWord 0xD0000003) 21 5 = 0 := by decide
  refine one_of hm rfl ?_
  simp only [decodeOne, hm, decodeMajor34, c0_4, c0_7, c0_11, c0_16, c0_26, c7_9, c11_5, c21_5, Nat.reduceEqDiff, reduceIte, and_true, true_and, and_false, false_and, and_self]

theorem RoundTrip.bar (a : BitVec 5) (n : BitVec 3) : RoundTrip.Statement (.bar a n) := by
  intro hw _
  have := a.isLt; have := n.isLt
  simp only [encode, Instr.params, Instr.word]
  generalize hn : 0xD0000004 + a.toNat * 65536 + n.toNat * 16 = n
  have hl : n < 4294967296 := by omega
  have hm : fldN (mkWord n) 26 6 = 0x34 := fldN_is hl (by omega)
  have c0_4 : fldN (mkWord n) 0 4 = 4 := fldN_is hl (by omega)
  have c7_9 : fldN (mkWord n) 7 9 = 0 := fldN_is hl (by omega)
  have c11_5 : fldN (mkWord n) 11 5 = 0 := fldN_is hl (by omega)
  have c21_5 : fldN (mkWord n) 21 5 = 0 := fldN_is hl (by omega)
  refine one_of hm rfl ?_
  simp only [decodeOne, hm, decodeMajor34, c0_4, c7_9, c11_5, c21_5, Nat.reduceEqDiff, reduceIte, and_true, true_and, and_false, false_and, and_self]
  rw [if_neg (by rw [fldN_mk _ _ _ hl]; omega)]
  rw [if_neg (by rw [fldN_mk _ _ _ hl]; omega)]
  rw [if_neg (by rw [fldN_mk _ _ _ hl]; omega)]
  rw [if_neg (by rw [fldN_mk _ _ _ hl]; omega)]
  congr 2 <;> exact fld_mk _ _ _ hl (by omega)

theorem RoundTrip.spawn (t : BitVec 5) (a : BitVec 5) (l : BitVec 4) : RoundTrip.Statement (.spawn t a l) := by
  intro hw _
  have := t.isLt; have := a.isLt; have := l.isLt
  simp only [encode, Instr.params, Instr.word]
  generalize hn : 0xD0000005 + t.toNat * 2097152 + a.toNat * 65536 + l.toNat * 128 = n
  have hl : n < 4294967296 := by omega
  have hm : fldN (mkWord n) 26 6 = 0x34 := fldN_is hl (by omega)
  have c0_4 : fldN (mkWord n) 0 4 = 5 := fldN_is hl (by omega)
  have c0_7 : fldN (mkWord n) 0 7 = 5 := fldN_is hl (by omega)
  have c11_5 : fldN (mkWord n) 11 5 = 0 := fldN_is hl (by omega)
  refine one_of hm rfl ?_
  simp only [decodeOne, hm, decodeMajor34, c0_4, c0_7, c11_5, Nat.reduceEqDiff, reduceIte, and_true, true_and, and_false, false_and, and_self]
  rw [if_neg (by rw [fldN_mk _ _ _ hl]; omega)]
  rw [if_neg (by rw [fldN_mk _ _ _ hl]; omega)]
  rw [if_neg (by rw [fldN_mk _ _ _ hl]; omega)]
  rw [if_neg (by rw [fldN_mk _ _ _ hl]; omega)]
  congr 2 <;> exact fld_mk _ _ _ hl (by omega)

theorem RoundTrip.preempt (die : Nat) : RoundTrip.Statement (.preempt die) := fun _ h => nomatch h

theorem RoundTrip.victimRestore (victim : Nat) : RoundTrip.Statement (.victimRestore victim) := fun _ h => nomatch h

theorem RoundTrip.restoreDeadline (victim : Nat) : RoundTrip.Statement (.restoreDeadline victim) := fun _ h => nomatch h

theorem RoundTrip.tccTransferFail (core : Nat) (code : Byte) (ta : Word) : RoundTrip.Statement (.tccTransferFail core code ta) := fun _ h => nomatch h

theorem RoundTrip.copy (a : BitVec 5) (b : BitVec 5) (l : BitVec 4) (p : Params) : RoundTrip.Statement (.copy a b l p) := by
  intro hw _
  have := a.isLt; have := b.isLt; have := l.isLt
  simp only [encode, Instr.params, Instr.word]
  generalize hn : 0xD8000000 + a.toNat * 65536 + b.toNat * 2048 + l.toNat * 128 = n
  have hl : n < 4294967296 := by omega
  have hm : fldN (mkWord n) 26 6 = 0x36 := fldN_is hl (by omega)
  have c0_7 : fldN (mkWord n) 0 7 = 0 := fldN_is hl (by omega)
  have c21_5 : fldN (mkWord n) 21 5 = 0 := fldN_is hl (by omega)
  refine five_of hm rfl ?_
  simp only [decodeL, hm, decodeMajor36, c0_7, c21_5, Nat.reduceEqDiff, reduceIte, and_true, true_and, and_false, false_and, and_self]
  congr 2 <;> first | rfl | exact fld_mk _ _ _ hl (by omega)

theorem RoundTrip.gath (a : BitVec 5) (b : BitVec 5) (l : BitVec 4) (p : Params) : RoundTrip.Statement (.gath a b l p) := by
  intro hw _
  have := a.isLt; have := b.isLt; have := l.isLt
  simp only [encode, Instr.params, Instr.word]
  generalize hn : 0xD8000001 + a.toNat * 65536 + b.toNat * 2048 + l.toNat * 128 = n
  have hl : n < 4294967296 := by omega
  have hm : fldN (mkWord n) 26 6 = 0x36 := fldN_is hl (by omega)
  have c0_7 : fldN (mkWord n) 0 7 = 1 := fldN_is hl (by omega)
  have c21_5 : fldN (mkWord n) 21 5 = 0 := fldN_is hl (by omega)
  refine five_of hm rfl ?_
  simp only [decodeL, hm, decodeMajor36, c0_7, c21_5, Nat.reduceEqDiff, reduceIte, and_true, true_and, and_false, false_and, and_self]
  congr 2 <;> first | rfl | exact fld_mk _ _ _ hl (by omega)

theorem RoundTrip.scat (a : BitVec 5) (b : BitVec 5) (l : BitVec 4) (p : Params) : RoundTrip.Statement (.scat a b l p) := by
  intro hw _
  have := a.isLt; have := b.isLt; have := l.isLt
  simp only [encode, Instr.params, Instr.word]
  generalize hn : 0xD8000002 + a.toNat * 65536 + b.toNat * 2048 + l.toNat * 128 = n
  have hl : n < 4294967296 := by omega
  have hm : fldN (mkWord n) 26 6 = 0x36 := fldN_is hl (by omega)
  have c0_7 : fldN (mkWord n) 0 7 = 2 := fldN_is hl (by omega)
  have c21_5 : fldN (mkWord n) 21 5 = 0 := fldN_is hl (by omega)
  refine five_of hm rfl ?_
  simp only [decodeL, hm, decodeMajor36, c0_7, c21_5, Nat.reduceEqDiff, reduceIte, and_true, true_and, and_false, false_and, and_self]
  congr 2 <;> first | rfl | exact fld_mk _ _ _ hl (by omega)

theorem RoundTrip.enginePostAccept (core : Nat) (slot : Nat) (id : Nat) : RoundTrip.Statement (.enginePostAccept core slot id) := fun _ h => nomatch h

theorem RoundTrip.enginePostStart (cluster : Nat) : RoundTrip.Statement (.enginePostStart cluster) := fun _ h => nomatch h

theorem RoundTrip.enginePostComplete (cluster : Nat) (id : Nat) : RoundTrip.Statement (.enginePostComplete cluster id) := fun _ h => nomatch h

theorem RoundTrip.tblset (d : BitVec 5) (a : BitVec 5) (l : BitVec 4) (p : Params) : RoundTrip.Statement (.tblset d a l p) := by
  intro hw _
  have := d.isLt; have := a.isLt; have := l.isLt
  simp only [encode, Instr.params, Instr.word]
  generalize hn : 0xD8000003 + d.toNat * 2097152 + a.toNat * 65536 + l.toNat * 128 = n
  have hl : n < 4294967296 := by omega
  have hm : fldN (mkWord n) 26 6 = 0x36 := fldN_is hl (by omega)
  have c0_7 : fldN (mkWord n) 0 7 = 3 := fldN_is hl (by omega)
  have c11_5 : fldN (mkWord n) 11 5 = 0 := fldN_is hl (by omega)
  refine five_of hm rfl ?_
  simp only [decodeL, hm, decodeMajor36, c0_7, c11_5, Nat.reduceEqDiff, reduceIte, and_true, true_and, and_false, false_and, and_self]
  congr 2 <;> first | rfl | exact fld_mk _ _ _ hl (by omega)

theorem RoundTrip.tblsw (d : BitVec 5) (a : BitVec 5) (l : BitVec 4) (p : Params) : RoundTrip.Statement (.tblsw d a l p) := by
  intro hw _
  have := d.isLt; have := a.isLt; have := l.isLt
  simp only [encode, Instr.params, Instr.word]
  generalize hn : 0xD8000004 + d.toNat * 2097152 + a.toNat * 65536 + l.toNat * 128 = n
  have hl : n < 4294967296 := by omega
  have hm : fldN (mkWord n) 26 6 = 0x36 := fldN_is hl (by omega)
  have c0_7 : fldN (mkWord n) 0 7 = 4 := fldN_is hl (by omega)
  have c11_5 : fldN (mkWord n) 11 5 = 0 := fldN_is hl (by omega)
  refine five_of hm rfl ?_
  simp only [decodeL, hm, decodeMajor36, c0_7, c11_5, Nat.reduceEqDiff, reduceIte, and_true, true_and, and_false, false_and, and_self]
  congr 2 <;> first | rfl | exact fld_mk _ _ _ hl (by omega)

theorem RoundTrip.shstat (d : BitVec 5) (l : BitVec 4) (p : Params) : RoundTrip.Statement (.shstat d l p) := by
  intro hw _
  have := d.isLt; have := l.isLt
  simp only [encode, Instr.params, Instr.word]
  generalize hn : 0xD8000006 + d.toNat * 2097152 + l.toNat * 128 = n
  have hl : n < 4294967296 := by omega
  have hm : fldN (mkWord n) 26 6 = 0x36 := fldN_is hl (by omega)
  have c0_7 : fldN (mkWord n) 0 7 = 6 := fldN_is hl (by omega)
  have c11_5 : fldN (mkWord n) 11 5 = 0 := fldN_is hl (by omega)
  have c16_5 : fldN (mkWord n) 16 5 = 0 := fldN_is hl (by omega)
  refine five_of hm rfl ?_
  simp only [decodeL, hm, decodeMajor36, c0_7, c11_5, c16_5, Nat.reduceEqDiff, reduceIte, and_true, true_and, and_false, false_and, and_self]
  congr 2 <;> first | rfl | exact fld_mk _ _ _ hl (by omega)

theorem RoundTrip.rmig (d : BitVec 5) (a : BitVec 5) (b : BitVec 5) (l : BitVec 4) (p : Params) : RoundTrip.Statement (.rmig d a b l p) := by
  intro hw _
  have := d.isLt; have := a.isLt; have := b.isLt; have := l.isLt
  simp only [encode, Instr.params, Instr.word]
  generalize hn : 0xD8000005 + d.toNat * 2097152 + a.toNat * 65536 + b.toNat * 2048 + l.toNat * 128 = n
  have hl : n < 4294967296 := by omega
  have hm : fldN (mkWord n) 26 6 = 0x36 := fldN_is hl (by omega)
  have c0_7 : fldN (mkWord n) 0 7 = 5 := fldN_is hl (by omega)
  refine five_of hm rfl ?_
  simp only [decodeL, hm, decodeMajor36, c0_7, Nat.reduceEqDiff, reduceIte, and_true, true_and, and_false, false_and, and_self]
  congr 2 <;> first | rfl | exact fld_mk _ _ _ hl (by omega)

theorem RoundTrip.rowCacheAge (die : Nat) : RoundTrip.Statement (.rowCacheAge die) := fun _ h => nomatch h

theorem RoundTrip.mcgroupLoad (group : Nat) (entry : Word) : RoundTrip.Statement (.mcgroupLoad group entry) := fun _ h => nomatch h

theorem RoundTrip.trregCreate (d : BitVec 5) (a : BitVec 5) (b : BitVec 5) (l : BitVec 4) (p : Params) : RoundTrip.Statement (.trregCreate d a b l p) := by
  intro hw _
  have := d.isLt; have := a.isLt; have := b.isLt; have := l.isLt
  have hp : p.w0.toNat % 16 = 0 := by
    simp only [Instr.wf, Bool.and_eq_true, beq_iff_eq] at hw; simp [hw]
  simp only [encode, Instr.params, Instr.word]
  generalize hn : 0xD4000001 + d.toNat * 2097152 + a.toNat * 65536 + b.toNat * 2048 + l.toNat * 128 = n
  have hl : n < 4294967296 := by omega
  have hm : fldN (mkWord n) 26 6 = 0x35 := fldN_is hl (by omega)
  have c0_4 : fldN (mkWord n) 0 4 = 1 := fldN_is hl (by omega)
  have c4_1 : fldN (mkWord n) 4 1 = 0 := fldN_is hl (by omega)
  have c5_2 : fldN (mkWord n) 5 2 = 0 := fldN_is hl (by omega)
  refine five_of hm rfl ?_
  simp only [decodeL, hm, decodeMajor35, c0_4, c4_1, c5_2, hp, Nat.reduceEqDiff, reduceIte, and_true, true_and, and_false, false_and, and_self]
  congr 2 <;> first | rfl | exact fld_mk _ _ _ hl (by omega)

theorem RoundTrip.trregRegion (d : BitVec 5) (a : BitVec 5) (b : BitVec 5) (l : BitVec 4) (p : Params) : RoundTrip.Statement (.trregRegion d a b l p) := by
  intro hw _
  have := d.isLt; have := a.isLt; have := b.isLt; have := l.isLt
  have hp : p.w0.toNat % 16 = 1 := by
    simp only [Instr.wf, Bool.and_eq_true, beq_iff_eq] at hw; simp [hw]
  simp only [encode, Instr.params, Instr.word]
  generalize hn : 0xD4000001 + d.toNat * 2097152 + a.toNat * 65536 + b.toNat * 2048 + l.toNat * 128 = n
  have hl : n < 4294967296 := by omega
  have hm : fldN (mkWord n) 26 6 = 0x35 := fldN_is hl (by omega)
  have c0_4 : fldN (mkWord n) 0 4 = 1 := fldN_is hl (by omega)
  have c4_1 : fldN (mkWord n) 4 1 = 0 := fldN_is hl (by omega)
  have c5_2 : fldN (mkWord n) 5 2 = 0 := fldN_is hl (by omega)
  refine five_of hm rfl ?_
  simp only [decodeL, hm, decodeMajor35, c0_4, c4_1, c5_2, hp, Nat.reduceEqDiff, reduceIte, and_true, true_and, and_false, false_and, and_self]
  congr 2 <;> first | rfl | exact fld_mk _ _ _ hl (by omega)

theorem RoundTrip.trregArm (d : BitVec 5) (a : BitVec 5) (b : BitVec 5) (l : BitVec 4) (p : Params) : RoundTrip.Statement (.trregArm d a b l p) := by
  intro hw _
  have := d.isLt; have := a.isLt; have := b.isLt; have := l.isLt
  have hp : p.w0.toNat % 16 = 2 := by
    simp only [Instr.wf, Bool.and_eq_true, beq_iff_eq] at hw; simp [hw]
  simp only [encode, Instr.params, Instr.word]
  generalize hn : 0xD4000001 + d.toNat * 2097152 + a.toNat * 65536 + b.toNat * 2048 + l.toNat * 128 = n
  have hl : n < 4294967296 := by omega
  have hm : fldN (mkWord n) 26 6 = 0x35 := fldN_is hl (by omega)
  have c0_4 : fldN (mkWord n) 0 4 = 1 := fldN_is hl (by omega)
  have c4_1 : fldN (mkWord n) 4 1 = 0 := fldN_is hl (by omega)
  have c5_2 : fldN (mkWord n) 5 2 = 0 := fldN_is hl (by omega)
  refine five_of hm rfl ?_
  simp only [decodeL, hm, decodeMajor35, c0_4, c4_1, c5_2, hp, Nat.reduceEqDiff, reduceIte, and_true, true_and, and_false, false_and, and_self]
  congr 2 <;> first | rfl | exact fld_mk _ _ _ hl (by omega)

theorem RoundTrip.trregFree (d : BitVec 5) (a : BitVec 5) (b : BitVec 5) (l : BitVec 4) (p : Params) : RoundTrip.Statement (.trregFree d a b l p) := by
  intro hw _
  have := d.isLt; have := a.isLt; have := b.isLt; have := l.isLt
  have hp : p.w0.toNat % 16 = 3 := by
    simp only [Instr.wf, Bool.and_eq_true, beq_iff_eq] at hw; simp [hw]
  simp only [encode, Instr.params, Instr.word]
  generalize hn : 0xD4000001 + d.toNat * 2097152 + a.toNat * 65536 + b.toNat * 2048 + l.toNat * 128 = n
  have hl : n < 4294967296 := by omega
  have hm : fldN (mkWord n) 26 6 = 0x35 := fldN_is hl (by omega)
  have c0_4 : fldN (mkWord n) 0 4 = 1 := fldN_is hl (by omega)
  have c4_1 : fldN (mkWord n) 4 1 = 0 := fldN_is hl (by omega)
  have c5_2 : fldN (mkWord n) 5 2 = 0 := fldN_is hl (by omega)
  refine five_of hm rfl ?_
  simp only [decodeL, hm, decodeMajor35, c0_4, c4_1, c5_2, hp, Nat.reduceEqDiff, reduceIte, and_true, true_and, and_false, false_and, and_self]
  congr 2 <;> first | rfl | exact fld_mk _ _ _ hl (by omega)

theorem RoundTrip.relaunch (d : BitVec 5) (a : BitVec 5) (l : BitVec 4) (q : BitVec 1) (p : Params) : RoundTrip.Statement (.relaunch d a l q p) := by
  intro hw _
  have := d.isLt; have := a.isLt; have := l.isLt; have := q.isLt
  simp only [encode, Instr.params, Instr.word]
  generalize hn : 0xD4000002 + d.toNat * 2097152 + a.toNat * 65536 + l.toNat * 128 + q.toNat * 16 = n
  have hl : n < 4294967296 := by omega
  have hm : fldN (mkWord n) 26 6 = 0x35 := fldN_is hl (by omega)
  have c0_4 : fldN (mkWord n) 0 4 = 2 := fldN_is hl (by omega)
  have c5_2 : fldN (mkWord n) 5 2 = 0 := fldN_is hl (by omega)
  have c11_5 : fldN (mkWord n) 11 5 = 0 := fldN_is hl (by omega)
  refine five_of hm rfl ?_
  simp only [decodeL, hm, decodeMajor35, c0_4, c5_2, c11_5, Nat.reduceEqDiff, reduceIte, and_true, true_and, and_false, false_and, and_self]
  congr 2 <;> first | rfl | exact fld_mk _ _ _ hl (by omega)

theorem RoundTrip.relaunchRunStart (obj : Nat) : RoundTrip.Statement (.relaunchRunStart obj) := fun _ h => nomatch h

theorem RoundTrip.relaunchComplete (obj : Nat) : RoundTrip.Statement (.relaunchComplete obj) := fun _ h => nomatch h

theorem RoundTrip.trinfo (d : BitVec 5) (l : BitVec 4) (p : Params) : RoundTrip.Statement (.trinfo d l p) := by
  intro hw _
  have := d.isLt; have := l.isLt
  simp only [encode, Instr.params, Instr.word]
  generalize hn : 0xD4000003 + d.toNat * 2097152 + l.toNat * 128 = n
  have hl : n < 4294967296 := by omega
  have hm : fldN (mkWord n) 26 6 = 0x35 := fldN_is hl (by omega)
  have c0_4 : fldN (mkWord n) 0 4 = 3 := fldN_is hl (by omega)
  have c4_1 : fldN (mkWord n) 4 1 = 0 := fldN_is hl (by omega)
  have c5_2 : fldN (mkWord n) 5 2 = 0 := fldN_is hl (by omega)
  have c11_5 : fldN (mkWord n) 11 5 = 0 := fldN_is hl (by omega)
  have c16_5 : fldN (mkWord n) 16 5 = 0 := fldN_is hl (by omega)
  refine five_of hm rfl ?_
  simp only [decodeL, hm, decodeMajor35, c0_4, c4_1, c5_2, c11_5, c16_5, Nat.reduceEqDiff, reduceIte, and_true, true_and, and_false, false_and, and_self]
  congr 2 <;> first | rfl | exact fld_mk _ _ _ hl (by omega)

theorem RoundTrip.tmodeOn (a : BitVec 5) : RoundTrip.Statement (.tmodeOn a) := by
  intro hw _
  have := a.isLt
  simp only [encode, Instr.params, Instr.word]
  generalize hn : 0xDC000010 + a.toNat * 65536 = n
  have hl : n < 4294967296 := by omega
  have hm : fldN (mkWord n) 26 6 = 0x37 := fldN_is hl (by omega)
  have c0_7 : fldN (mkWord n) 0 7 = 16 := fldN_is hl (by omega)
  have c0_16 : fldN (mkWord n) 0 16 = 16 := fldN_is hl (by omega)
  have c21_5 : fldN (mkWord n) 21 5 = 0 := fldN_is hl (by omega)
  refine one_of hm rfl ?_
  simp only [decodeOne, hm, decodeMajor37, c0_7, c0_16, c21_5, Nat.reduceEqDiff, reduceIte, and_true, true_and, and_false, false_and, and_self]
  congr 2 <;> exact fld_mk _ _ _ hl (by omega)

theorem RoundTrip.tmodeOff : RoundTrip.Statement (.tmodeOff) := by
  intro hw _
  simp only [encode, Instr.params, Instr.word]
  have hm : fldN (mkWord 0xDC000000) 26 6 = 0x37 := by decide
  have c0_7 : fldN (mkWord 0xDC000000) 0 7 = 0 := by decide
  have c0_16 : fldN (mkWord 0xDC000000) 0 16 = 0 := by decide
  have c0_21 : fldN (mkWord 0xDC000000) 0 21 = 0 := by decide
  have c0_26 : fldN (mkWord 0xDC000000) 0 26 = 0 := by decide
  have c21_5 : fldN (mkWord 0xDC000000) 21 5 = 0 := by decide
  refine one_of hm rfl ?_
  simp only [decodeOne, hm, decodeMajor37, c0_7, c0_16, c0_21, c0_26, c21_5, Nat.reduceEqDiff, reduceIte, and_true, true_and, and_false, false_and, and_self]

theorem RoundTrip.tsend (t : BitVec 5) (a : BitVec 5) (b : BitVec 5) (l : BitVec 4) : RoundTrip.Statement (.tsend t a b l) := by
  intro hw _
  have := t.isLt; have := a.isLt; have := b.isLt; have := l.isLt
  simp only [encode, Instr.params, Instr.word]
  generalize hn : 0xDC000001 + t.toNat * 2097152 + a.toNat * 65536 + b.toNat * 2048 + l.toNat * 128 = n
  have hl : n < 4294967296 := by omega
  have hm : fldN (mkWord n) 26 6 = 0x37 := fldN_is hl (by omega)
  have c0_7 : fldN (mkWord n) 0 7 = 1 := fldN_is hl (by omega)
  refine one_of hm rfl ?_
  simp only [decodeOne, hm, decodeMajor37, c0_7, Nat.reduceEqDiff, reduceIte, and_true, true_and, and_false, false_and, and_self]
  rw [if_neg (by rw [fldN_mk _ _ _ hl]; omega)]
  rw [if_neg (by rw [fldN_mk _ _ _ hl]; omega)]
  congr 2 <;> exact fld_mk _ _ _ hl (by omega)

theorem RoundTrip.tnext (d : BitVec 5) (a : BitVec 5) : RoundTrip.Statement (.tnext d a) := by
  intro hw _
  have := d.isLt; have := a.isLt
  simp only [encode, Instr.params, Instr.word]
  generalize hn : 0xDC000002 + d.toNat * 2097152 + a.toNat * 65536 = n
  have hl : n < 4294967296 := by omega
  have hm : fldN (mkWord n) 26 6 = 0x37 := fldN_is hl (by omega)
  have c0_7 : fldN (mkWord n) 0 7 = 2 := fldN_is hl (by omega)
  have c0_16 : fldN (mkWord n) 0 16 = 2 := fldN_is hl (by omega)
  refine one_of hm rfl ?_
  simp only [decodeOne, hm, decodeMajor37, c0_7, c0_16, Nat.reduceEqDiff, reduceIte, and_true, true_and, and_false, false_and, and_self]
  rw [if_neg (by rw [fldN_mk _ _ _ hl]; omega)]
  congr 2 <;> exact fld_mk _ _ _ hl (by omega)

theorem RoundTrip.tout (s : BitVec 5) (a : BitVec 5) : RoundTrip.Statement (.tout s a) := by
  intro hw _
  have := s.isLt; have := a.isLt
  simp only [encode, Instr.params, Instr.word]
  generalize hn : 0xDC000003 + s.toNat * 2097152 + a.toNat * 65536 = n
  have hl : n < 4294967296 := by omega
  have hm : fldN (mkWord n) 26 6 = 0x37 := fldN_is hl (by omega)
  have c0_7 : fldN (mkWord n) 0 7 = 3 := fldN_is hl (by omega)
  have c0_16 : fldN (mkWord n) 0 16 = 3 := fldN_is hl (by omega)
  refine one_of hm rfl ?_
  simp only [decodeOne, hm, decodeMajor37, c0_7, c0_16, Nat.reduceEqDiff, reduceIte, and_true, true_and, and_false, false_and, and_self]
  rw [if_neg (by rw [fldN_mk _ _ _ hl]; omega)]
  congr 2 <;> exact fld_mk _ _ _ hl (by omega)

theorem RoundTrip.gvtrd (d : BitVec 5) : RoundTrip.Statement (.gvtrd d) := by
  intro hw _
  have := d.isLt
  simp only [encode, Instr.params, Instr.word]
  generalize hn : 0xDC000004 + d.toNat * 2097152 = n
  have hl : n < 4294967296 := by omega
  have hm : fldN (mkWord n) 26 6 = 0x37 := fldN_is hl (by omega)
  have c0_7 : fldN (mkWord n) 0 7 = 4 := fldN_is hl (by omega)
  have c0_16 : fldN (mkWord n) 0 16 = 4 := fldN_is hl (by omega)
  have c0_21 : fldN (mkWord n) 0 21 = 4 := fldN_is hl (by omega)
  refine one_of hm rfl ?_
  simp only [decodeOne, hm, decodeMajor37, c0_7, c0_16, c0_21, Nat.reduceEqDiff, reduceIte, and_true, true_and, and_false, false_and, and_self]
  rw [if_neg (by rw [fldN_mk _ _ _ hl]; omega)]
  congr 2 <;> exact fld_mk _ _ _ hl (by omega)

theorem RoundTrip.gvtrdW (d : BitVec 5) (a : BitVec 5) : RoundTrip.Statement (.gvtrdW d a) := by
  intro hw _
  have := d.isLt; have := a.isLt
  simp only [encode, Instr.params, Instr.word]
  generalize hn : 0xDC000014 + d.toNat * 2097152 + a.toNat * 65536 = n
  have hl : n < 4294967296 := by omega
  have hm : fldN (mkWord n) 26 6 = 0x37 := fldN_is hl (by omega)
  have c0_7 : fldN (mkWord n) 0 7 = 20 := fldN_is hl (by omega)
  have c0_16 : fldN (mkWord n) 0 16 = 20 := fldN_is hl (by omega)
  refine one_of hm rfl ?_
  simp only [decodeOne, hm, decodeMajor37, c0_7, c0_16, Nat.reduceEqDiff, reduceIte, and_true, true_and, and_false, false_and, and_self]
  rw [if_neg (by rw [fldN_mk _ _ _ hl]; omega)]
  rw [if_neg (by rw [fldN_mk _ _ _ hl]; omega)]
  congr 2 <;> exact fld_mk _ _ _ hl (by omega)

theorem RoundTrip.timedMessageAccept (n : Nat) : RoundTrip.Statement (.timedMessageAccept n) := fun _ h => nomatch h

theorem RoundTrip.rollback (core : Nat) : RoundTrip.Statement (.rollback core) := fun _ h => nomatch h

theorem RoundTrip.antiMessageArrive (n : Nat) : RoundTrip.Statement (.antiMessageArrive n) := fun _ h => nomatch h

theorem RoundTrip.horizonRoundStart (vf : Nat) : RoundTrip.Statement (.horizonRoundStart vf) := fun _ h => nomatch h

theorem RoundTrip.horizonReport (vf : Nat) : RoundTrip.Statement (.horizonReport vf) := fun _ h => nomatch h

theorem RoundTrip.gvtPublish (vf : Nat) : RoundTrip.Statement (.gvtPublish vf) := fun _ h => nomatch h

theorem RoundTrip.outputRelease (core : Nat) : RoundTrip.Statement (.outputRelease core) := fun _ h => nomatch h

theorem RoundTrip.gvtCopyUpdate (core : Nat) : RoundTrip.Statement (.gvtCopyUpdate core) := fun _ h => nomatch h

theorem RoundTrip.trap (n : BitVec 12) : RoundTrip.Statement (.trap n) := by
  intro hw _
  have := n.isLt
  simp only [encode, Instr.params, Instr.word]
  generalize hn : 0xF0000000 + n.toNat = n
  have hl : n < 4294967296 := by omega
  have hm : fldN (mkWord n) 26 6 = 0x3C := fldN_is hl (by omega)
  have c12_4 : fldN (mkWord n) 12 4 = 0 := fldN_is hl (by omega)
  have c12_9 : fldN (mkWord n) 12 9 = 0 := fldN_is hl (by omega)
  have c12_14 : fldN (mkWord n) 12 14 = 0 := fldN_is hl (by omega)
  have c21_5 : fldN (mkWord n) 21 5 = 0 := fldN_is hl (by omega)
  refine one_of hm rfl ?_
  simp only [decodeOne, hm, decodeMajor3C, c12_4, c12_9, c12_14, c21_5, Nat.reduceEqDiff, reduceIte, and_true, true_and, and_false, false_and, and_self]
  congr 2 <;> exact fld_mk _ _ _ hl (by omega)

theorem RoundTrip.eret (a : BitVec 5) : RoundTrip.Statement (.eret a) := by
  intro hw _
  have := a.isLt
  simp only [encode, Instr.params, Instr.word]
  generalize hn : 0xF0001000 + a.toNat * 65536 = n
  have hl : n < 4294967296 := by omega
  have hm : fldN (mkWord n) 26 6 = 0x3C := fldN_is hl (by omega)
  have c0_16 : fldN (mkWord n) 0 16 = 4096 := fldN_is hl (by omega)
  have c12_4 : fldN (mkWord n) 12 4 = 1 := fldN_is hl (by omega)
  have c21_5 : fldN (mkWord n) 21 5 = 0 := fldN_is hl (by omega)
  refine one_of hm rfl ?_
  simp only [decodeOne, hm, decodeMajor3C, c0_16, c12_4, c21_5, Nat.reduceEqDiff, reduceIte, and_true, true_and, and_false, false_and, and_self]
  rw [if_neg (by rw [fldN_mk _ _ _ hl]; omega)]
  congr 2 <;> exact fld_mk _ _ _ hl (by omega)

theorem RoundTrip.eretSys (a : BitVec 5) : RoundTrip.Statement (.eretSys a) := by
  intro hw _
  have := a.isLt
  simp only [encode, Instr.params, Instr.word]
  generalize hn : 0xF0001001 + a.toNat * 65536 = n
  have hl : n < 4294967296 := by omega
  have hm : fldN (mkWord n) 26 6 = 0x3C := fldN_is hl (by omega)
  have c0_16 : fldN (mkWord n) 0 16 = 4097 := fldN_is hl (by omega)
  have c12_4 : fldN (mkWord n) 12 4 = 1 := fldN_is hl (by omega)
  have c21_5 : fldN (mkWord n) 21 5 = 0 := fldN_is hl (by omega)
  refine one_of hm rfl ?_
  simp only [decodeOne, hm, decodeMajor3C, c0_16, c12_4, c21_5, Nat.reduceEqDiff, reduceIte, and_true, true_and, and_false, false_and, and_self]
  rw [if_neg (by rw [fldN_mk _ _ _ hl]; omega)]
  congr 2 <;> exact fld_mk _ _ _ hl (by omega)

theorem RoundTrip.eretUser (a : BitVec 5) : RoundTrip.Statement (.eretUser a) := by
  intro hw _
  have := a.isLt
  simp only [encode, Instr.params, Instr.word]
  generalize hn : 0xF0001002 + a.toNat * 65536 = n
  have hl : n < 4294967296 := by omega
  have hm : fldN (mkWord n) 26 6 = 0x3C := fldN_is hl (by omega)
  have c0_16 : fldN (mkWord n) 0 16 = 4098 := fldN_is hl (by omega)
  have c12_4 : fldN (mkWord n) 12 4 = 1 := fldN_is hl (by omega)
  have c21_5 : fldN (mkWord n) 21 5 = 0 := fldN_is hl (by omega)
  refine one_of hm rfl ?_
  simp only [decodeOne, hm, decodeMajor3C, c0_16, c12_4, c21_5, Nat.reduceEqDiff, reduceIte, and_true, true_and, and_false, false_and, and_self]
  rw [if_neg (by rw [fldN_mk _ _ _ hl]; omega)]
  congr 2 <;> exact fld_mk _ _ _ hl (by omega)

theorem RoundTrip.sysrd (d : BitVec 5) (r : BitVec 12) : RoundTrip.Statement (.sysrd d r) := by
  intro hw _
  have := d.isLt; have := r.isLt
  simp only [encode, Instr.params, Instr.word]
  generalize hn : 0xF0002000 + d.toNat * 2097152 + r.toNat = n
  have hl : n < 4294967296 := by omega
  have hm : fldN (mkWord n) 26 6 = 0x3C := fldN_is hl (by omega)
  have c12_4 : fldN (mkWord n) 12 4 = 2 := fldN_is hl (by omega)
  have c12_9 : fldN (mkWord n) 12 9 = 2 := fldN_is hl (by omega)
  refine one_of hm rfl ?_
  simp only [decodeOne, hm, decodeMajor3C, c12_4, c12_9, Nat.reduceEqDiff, reduceIte, and_true, true_and, and_false, false_and, and_self]
  rw [if_neg (by rw [fldN_mk _ _ _ hl]; omega)]
  rw [if_neg (by rw [fldN_mk _ _ _ hl]; omega)]
  rw [if_neg (by rw [fldN_mk _ _ _ hl]; omega)]
  rw [if_neg (by rw [fldN_mk _ _ _ hl]; omega)]
  congr 2 <;> exact fld_mk _ _ _ hl (by omega)

theorem RoundTrip.syswr (a : BitVec 5) (r : BitVec 12) : RoundTrip.Statement (.syswr a r) := by
  intro hw _
  have := a.isLt; have := r.isLt
  simp only [encode, Instr.params, Instr.word]
  generalize hn : 0xF0003000 + a.toNat * 65536 + r.toNat = n
  have hl : n < 4294967296 := by omega
  have hm : fldN (mkWord n) 26 6 = 0x3C := fldN_is hl (by omega)
  have c12_4 : fldN (mkWord n) 12 4 = 3 := fldN_is hl (by omega)
  have c21_5 : fldN (mkWord n) 21 5 = 0 := fldN_is hl (by omega)
  refine one_of hm rfl ?_
  simp only [decodeOne, hm, decodeMajor3C, c12_4, c21_5, Nat.reduceEqDiff, reduceIte, and_true, true_and, and_false, false_and, and_self]
  rw [if_neg (by rw [fldN_mk _ _ _ hl]; omega)]
  rw [if_neg (by rw [fldN_mk _ _ _ hl]; omega)]
  rw [if_neg (by rw [fldN_mk _ _ _ hl]; omega)]
  rw [if_neg (by rw [fldN_mk _ _ _ hl]; omega)]
  rw [if_neg (by rw [fldN_mk _ _ _ hl]; omega)]
  congr 2 <;> exact fld_mk _ _ _ hl (by omega)

theorem RoundTrip.tswWrite (core : Nat) (slot : Nat) (v : Word) : RoundTrip.Statement (.tswWrite core slot v) := fun _ h => nomatch h

theorem RoundTrip.tccctlWrite (core : Nat) (reg : Nat) (v : Word) : RoundTrip.Statement (.tccctlWrite core reg v) := fun _ h => nomatch h

theorem RoundTrip.qosWrite (core : Nat) (reg : Nat) (v : Word) : RoundTrip.Statement (.qosWrite core reg v) := fun _ h => nomatch h

theorem RoundTrip.snapctlWrite (core : Nat) (v : Word) : RoundTrip.Statement (.snapctlWrite core v) := fun _ h => nomatch h

theorem RoundTrip.scopepolWrite (vf : Nat) (v : Word) : RoundTrip.Statement (.scopepolWrite vf v) := fun _ h => nomatch h

theorem RoundTrip.xec (s : BitVec 5) (a : BitVec 5) : RoundTrip.Statement (.xec s a) := by
  intro hw _
  have := s.isLt; have := a.isLt
  simp only [encode, Instr.params, Instr.word]
  generalize hn : 0xF0004000 + s.toNat * 2097152 + a.toNat * 65536 = n
  have hl : n < 4294967296 := by omega
  have hm : fldN (mkWord n) 26 6 = 0x3C := fldN_is hl (by omega)
  have c0_16 : fldN (mkWord n) 0 16 = 16384 := fldN_is hl (by omega)
  have c12_4 : fldN (mkWord n) 12 4 = 4 := fldN_is hl (by omega)
  refine one_of hm rfl ?_
  simp only [decodeOne, hm, decodeMajor3C, c0_16, c12_4, Nat.reduceEqDiff, reduceIte, and_true, true_and, and_false, false_and, and_self]
  rw [if_neg (by rw [fldN_mk _ _ _ hl]; omega)]
  rw [if_neg (by rw [fldN_mk _ _ _ hl]; omega)]
  congr 2 <;> exact fld_mk _ _ _ hl (by omega)

theorem RoundTrip.icinv (a : BitVec 5) : RoundTrip.Statement (.icinv a) := by
  intro hw _
  have := a.isLt
  simp only [encode, Instr.params, Instr.word]
  generalize hn : 0xF0005000 + a.toNat * 65536 = n
  have hl : n < 4294967296 := by omega
  have hm : fldN (mkWord n) 26 6 = 0x3C := fldN_is hl (by omega)
  have c0_16 : fldN (mkWord n) 0 16 = 20480 := fldN_is hl (by omega)
  have c12_4 : fldN (mkWord n) 12 4 = 5 := fldN_is hl (by omega)
  have c21_5 : fldN (mkWord n) 21 5 = 0 := fldN_is hl (by omega)
  refine one_of hm rfl ?_
  simp only [decodeOne, hm, decodeMajor3C, c0_16, c12_4, c21_5, Nat.reduceEqDiff, reduceIte, and_true, true_and, and_false, false_and, and_self]
  rw [if_neg (by rw [fldN_mk _ _ _ hl]; omega)]
  rw [if_neg (by rw [fldN_mk _ _ _ hl]; omega)]
  congr 2 <;> exact fld_mk _ _ _ hl (by omega)

theorem RoundTrip.tlbinv (a : BitVec 5) : RoundTrip.Statement (.tlbinv a) := by
  intro hw _
  have := a.isLt
  simp only [encode, Instr.params, Instr.word]
  generalize hn : 0xF0006000 + a.toNat * 65536 = n
  have hl : n < 4294967296 := by omega
  have hm : fldN (mkWord n) 26 6 = 0x3C := fldN_is hl (by omega)
  have c0_16 : fldN (mkWord n) 0 16 = 24576 := fldN_is hl (by omega)
  have c12_4 : fldN (mkWord n) 12 4 = 6 := fldN_is hl (by omega)
  have c21_5 : fldN (mkWord n) 21 5 = 0 := fldN_is hl (by omega)
  refine one_of hm rfl ?_
  simp only [decodeOne, hm, decodeMajor3C, c0_16, c12_4, c21_5, Nat.reduceEqDiff, reduceIte, and_true, true_and, and_false, false_and, and_self]
  rw [if_neg (by rw [fldN_mk _ _ _ hl]; omega)]
  rw [if_neg (by rw [fldN_mk _ _ _ hl]; omega)]
  congr 2 <;> exact fld_mk _ _ _ hl (by omega)

theorem RoundTrip.swapctx (e : BitVec 5) (a : BitVec 5) : RoundTrip.Statement (.swapctx e a) := by
  intro hw _
  have := e.isLt; have := a.isLt
  simp only [encode, Instr.params, Instr.word]
  generalize hn : 0xF0007000 + e.toNat * 2097152 + a.toNat * 65536 = n
  have hl : n < 4294967296 := by omega
  have hm : fldN (mkWord n) 26 6 = 0x3C := fldN_is hl (by omega)
  have c0_16 : fldN (mkWord n) 0 16 = 28672 := fldN_is hl (by omega)
  have c12_4 : fldN (mkWord n) 12 4 = 7 := fldN_is hl (by omega)
  refine one_of hm rfl ?_
  simp only [decodeOne, hm, decodeMajor3C, c0_16, c12_4, Nat.reduceEqDiff, reduceIte, and_true, true_and, and_false, false_and, and_self]
  rw [if_neg (by rw [fldN_mk _ _ _ hl]; omega)]
  rw [if_neg (by rw [fldN_mk _ _ _ hl]; omega)]
  congr 2 <;> exact fld_mk _ _ _ hl (by omega)

theorem RoundTrip.swapctxOut (e : BitVec 5) (a : BitVec 5) : RoundTrip.Statement (.swapctxOut e a) := by
  intro hw _
  have := e.isLt; have := a.isLt
  simp only [encode, Instr.params, Instr.word]
  generalize hn : 0xF0007001 + e.toNat * 2097152 + a.toNat * 65536 = n
  have hl : n < 4294967296 := by omega
  have hm : fldN (mkWord n) 26 6 = 0x3C := fldN_is hl (by omega)
  have c0_16 : fldN (mkWord n) 0 16 = 28673 := fldN_is hl (by omega)
  have c12_4 : fldN (mkWord n) 12 4 = 7 := fldN_is hl (by omega)
  refine one_of hm rfl ?_
  simp only [decodeOne, hm, decodeMajor3C, c0_16, c12_4, Nat.reduceEqDiff, reduceIte, and_true, true_and, and_false, false_and, and_self]
  rw [if_neg (by rw [fldN_mk _ _ _ hl]; omega)]
  rw [if_neg (by rw [fldN_mk _ _ _ hl]; omega)]
  congr 2 <;> exact fld_mk _ _ _ hl (by omega)

theorem RoundTrip.swapctxIn (e : BitVec 5) (a : BitVec 5) : RoundTrip.Statement (.swapctxIn e a) := by
  intro hw _
  have := e.isLt; have := a.isLt
  simp only [encode, Instr.params, Instr.word]
  generalize hn : 0xF0007002 + e.toNat * 2097152 + a.toNat * 65536 = n
  have hl : n < 4294967296 := by omega
  have hm : fldN (mkWord n) 26 6 = 0x3C := fldN_is hl (by omega)
  have c0_16 : fldN (mkWord n) 0 16 = 28674 := fldN_is hl (by omega)
  have c12_4 : fldN (mkWord n) 12 4 = 7 := fldN_is hl (by omega)
  refine one_of hm rfl ?_
  simp only [decodeOne, hm, decodeMajor3C, c0_16, c12_4, Nat.reduceEqDiff, reduceIte, and_true, true_and, and_false, false_and, and_self]
  rw [if_neg (by rw [fldN_mk _ _ _ hl]; omega)]
  rw [if_neg (by rw [fldN_mk _ _ _ hl]; omega)]
  congr 2 <;> exact fld_mk _ _ _ hl (by omega)

theorem RoundTrip.snap (d : BitVec 5) : RoundTrip.Statement (.snap d) := by
  intro hw _
  have := d.isLt
  simp only [encode, Instr.params, Instr.word]
  generalize hn : 0xF0008000 + d.toNat * 2097152 = n
  have hl : n < 4294967296 := by omega
  have hm : fldN (mkWord n) 26 6 = 0x3C := fldN_is hl (by omega)
  have c0_16 : fldN (mkWord n) 0 16 = 32768 := fldN_is hl (by omega)
  have c0_21 : fldN (mkWord n) 0 21 = 32768 := fldN_is hl (by omega)
  have c12_4 : fldN (mkWord n) 12 4 = 8 := fldN_is hl (by omega)
  have c12_9 : fldN (mkWord n) 12 9 = 8 := fldN_is hl (by omega)
  refine one_of hm rfl ?_
  simp only [decodeOne, hm, decodeMajor3C, c0_16, c0_21, c12_4, c12_9, Nat.reduceEqDiff, reduceIte, and_true, true_and, and_false, false_and, and_self]
  rw [if_neg (by rw [fldN_mk _ _ _ hl]; omega)]
  congr 2 <;> exact fld_mk _ _ _ hl (by omega)

theorem RoundTrip.halt (d : BitVec 5) : RoundTrip.Statement (.halt d) := by
  intro hw _
  have := d.isLt
  simp only [encode, Instr.params, Instr.word]
  generalize hn : 0xF0009000 + d.toNat * 2097152 = n
  have hl : n < 4294967296 := by omega
  have hm : fldN (mkWord n) 26 6 = 0x3C := fldN_is hl (by omega)
  have c0_16 : fldN (mkWord n) 0 16 = 36864 := fldN_is hl (by omega)
  have c0_21 : fldN (mkWord n) 0 21 = 36864 := fldN_is hl (by omega)
  have c12_4 : fldN (mkWord n) 12 4 = 9 := fldN_is hl (by omega)
  have c12_9 : fldN (mkWord n) 12 9 = 9 := fldN_is hl (by omega)
  refine one_of hm rfl ?_
  simp only [decodeOne, hm, decodeMajor3C, c0_16, c0_21, c12_4, c12_9, Nat.reduceEqDiff, reduceIte, and_true, true_and, and_false, false_and, and_self]
  rw [if_neg (by rw [fldN_mk _ _ _ hl]; omega)]
  congr 2 <;> exact fld_mk _ _ _ hl (by omega)

theorem RoundTrip.brk : RoundTrip.Statement (.brk) := by
  intro hw _
  simp only [encode, Instr.params, Instr.word]
  have hm : fldN (mkWord 0xF4000000) 26 6 = 0x3D := by decide
  have c0_26 : fldN (mkWord 0xF4000000) 0 26 = 0 := by decide
  refine one_of hm rfl ?_
  simp only [decodeOne, hm, decodeMajor3D, c0_26, Nat.reduceEqDiff, reduceIte, and_true, true_and, and_false, false_and, and_self]

theorem RoundTrip.debuggerStop (core : Nat) (slot : Nat) : RoundTrip.Statement (.debuggerStop core slot) := fun _ h => nomatch h

theorem RoundTrip.asleepSample (vf : Nat) : RoundTrip.Statement (.asleepSample vf) := fun _ h => nomatch h

theorem RoundTrip.cred (d : BitVec 5) (a : BitVec 5) (l : BitVec 4) (p : Params) : RoundTrip.Statement (.cred d a l p) := by
  intro hw _
  have := d.isLt; have := a.isLt; have := l.isLt
  simp only [encode, Instr.params, Instr.word]
  generalize hn : 0xE0000000 + d.toNat * 2097152 + a.toNat * 65536 + l.toNat * 128 = n
  have hl : n < 4294967296 := by omega
  have hm : fldN (mkWord n) 26 6 = 0x38 := fldN_is hl (by omega)
  have c0_7 : fldN (mkWord n) 0 7 = 0 := fldN_is hl (by omega)
  have c11_5 : fldN (mkWord n) 11 5 = 0 := fldN_is hl (by omega)
  refine five_of hm rfl ?_
  simp only [decodeL, hm, decodeMajor38, c0_7, c11_5, Nat.reduceEqDiff, reduceIte, and_true, true_and, and_false, false_and, and_self]
  congr 2 <;> first | rfl | exact fld_mk _ _ _ hl (by omega)

theorem RoundTrip.cbcast (d : BitVec 5) (a : BitVec 5) (b : BitVec 5) (l : BitVec 4) (p : Params) : RoundTrip.Statement (.cbcast d a b l p) := by
  intro hw _
  have := d.isLt; have := a.isLt; have := b.isLt; have := l.isLt
  simp only [encode, Instr.params, Instr.word]
  generalize hn : 0xE0000001 + d.toNat * 2097152 + a.toNat * 65536 + b.toNat * 2048 + l.toNat * 128 = n
  have hl : n < 4294967296 := by omega
  have hm : fldN (mkWord n) 26 6 = 0x38 := fldN_is hl (by omega)
  have c0_7 : fldN (mkWord n) 0 7 = 1 := fldN_is hl (by omega)
  refine five_of hm rfl ?_
  simp only [decodeL, hm, decodeMajor38, c0_7, Nat.reduceEqDiff, reduceIte, and_true, true_and, and_false, false_and, and_self]
  congr 2 <;> first | rfl | exact fld_mk _ _ _ hl (by omega)

theorem RoundTrip.quadReassign (quad : Nat) (vf : Nat) : RoundTrip.Statement (.quadReassign quad vf) := fun _ h => nomatch h

theorem RoundTrip.quadReset (quad : Nat) : RoundTrip.Statement (.quadReset quad) := fun _ h => nomatch h

theorem RoundTrip.engineReset (cluster : Nat) : RoundTrip.Statement (.engineReset cluster) := fun _ h => nomatch h

theorem RoundTrip.clusterReset (cluster : Nat) : RoundTrip.Statement (.clusterReset cluster) := fun _ h => nomatch h

theorem RoundTrip.routerFailure (cluster : Nat) : RoundTrip.Statement (.routerFailure cluster) := fun _ h => nomatch h

theorem RoundTrip.hbmChannelOffline (moves : List (Nat × Nat × Nat)) : RoundTrip.Statement (.hbmChannelOffline moves) := fun _ h => nomatch h

theorem RoundTrip.eccCorrected (block : Nat) : RoundTrip.Statement (.eccCorrected block) := fun _ h => nomatch h

theorem RoundTrip.poisonSet (loc : Nat) : RoundTrip.Statement (.poisonSet loc) := fun _ h => nomatch h

theorem RoundTrip.linkTrain (link : Nat) (lo : Nat) (hi : Nat) (minor : Nat) : RoundTrip.Statement (.linkTrain link lo hi minor) := fun _ h => nomatch h

theorem RoundTrip.linkReplay (link : Nat) : RoundTrip.Statement (.linkReplay link) := fun _ h => nomatch h

theorem RoundTrip.linkRetrain (link : Nat) (ok : Bool) : RoundTrip.Statement (.linkRetrain link ok) := fun _ h => nomatch h

theorem RoundTrip.linkDown (link : Nat) : RoundTrip.Statement (.linkDown link) := fun _ h => nomatch h

theorem RoundTrip.bucketRefill (cluster : Nat) : RoundTrip.Statement (.bucketRefill cluster) := fun _ h => nomatch h

theorem RoundTrip.lineSend (core : Nat) (res : Nat) : RoundTrip.Statement (.lineSend core res) := fun _ h => nomatch h

theorem RoundTrip.gatingInterval (gated : Nat) (watts : Nat) : RoundTrip.Statement (.gatingInterval gated watts) := fun _ h => nomatch h

theorem RoundTrip.snapshotPin : RoundTrip.Statement (.snapshotPin) := fun _ h => nomatch h

theorem RoundTrip.snapshotLatch : RoundTrip.Statement (.snapshotLatch) := fun _ h => nomatch h

theorem RoundTrip.boot (results : List Bool) (digests : List Word) : RoundTrip.Statement (.boot results digests) := fun _ h => nomatch h

theorem RoundTrip.attestationSign (nonce : Word) : RoundTrip.Statement (.attestationSign nonce) := fun _ h => nomatch h

theorem RoundTrip.mailboxOpen (fn : Nat) (v : Word) : RoundTrip.Statement (.mailboxOpen fn v) := fun _ h => nomatch h

theorem RoundTrip.mailboxClose (fn : Nat) (v : Word) : RoundTrip.Statement (.mailboxClose fn v) := fun _ h => nomatch h

theorem RoundTrip.mailboxRegisterWrite (fn : Nat) (off : Nat) (v : Word) : RoundTrip.Statement (.mailboxRegisterWrite fn off v) := fun _ h => nomatch h

theorem RoundTrip.reqtailWrite (fn : Nat) (v : Word) : RoundTrip.Statement (.reqtailWrite fn v) := fun _ h => nomatch h

theorem RoundTrip.cplheadWrite (fn : Nat) (v : Word) : RoundTrip.Statement (.cplheadWrite fn v) := fun _ h => nomatch h

theorem RoundTrip.reqLaunch (fn : Nat) : RoundTrip.Statement (.reqLaunch fn) := fun _ h => nomatch h

theorem RoundTrip.reqMessage (fn : Nat) : RoundTrip.Statement (.reqMessage fn) := fun _ h => nomatch h

theorem RoundTrip.reqQuery (fn : Nat) : RoundTrip.Statement (.reqQuery fn) := fun _ h => nomatch h

theorem RoundTrip.reqCregRead (fn : Nat) : RoundTrip.Statement (.reqCregRead fn) := fun _ h => nomatch h

theorem RoundTrip.reqCregWrite (fn : Nat) : RoundTrip.Statement (.reqCregWrite fn) := fun _ h => nomatch h

theorem RoundTrip.reqUnlistedKind (fn : Nat) : RoundTrip.Statement (.reqUnlistedKind fn) := fun _ h => nomatch h

theorem RoundTrip.mailboxCompletion (fn : Nat) : RoundTrip.Statement (.mailboxCompletion fn) := fun _ h => nomatch h

theorem RoundTrip.quadResetDone (quad : Nat) : RoundTrip.Statement (.quadResetDone quad) := fun _ h => nomatch h

theorem RoundTrip.engineResetDone (cluster : Nat) : RoundTrip.Statement (.engineResetDone cluster) := fun _ h => nomatch h

end Sys2Proof.Laws
end

