-- ==== Sys2Proof/Tests/Slice0.lean ====
section
/-!
SUPPORT. Tests/Slice0.lean: words written out from the encodings of the manual, ill-formed terms that WellFormed refuses, and for
every statement with hypotheses, states and operands that meet them together, clause by clause (test_meets_<statement>).
-/
set_option Elab.async false

namespace Sys2Proof.Tests
open Sys2Proof.Machine

/-! ## Words of the manual's examples and of its encoding tables (R54 to R76) -/

/-- R99, R100, R101, R102, R103, R104: examples of the entries. -/
theorem test_decode_integer :
    decodeTableWord 32 0x04611000 = some (.add 3 1 2) ∧ decodeTableWord 32 0x08A63803 = some (.div 5 6 7) ∧
    decodeTableWord 32 0x0CA63A03 = some (.sel 5 6 7 8) ∧ decodeTableWord 32 0x11200003 = some (.addi 9 0 3) ∧
    decodeTableWord 32 0x2929003D = some (.slli 9 9 61) ∧ decodeTableWord 32 0x28A6C0C8 = some (.extr 5 6 3 8) ∧
    decodeTableWord 32 0x2CA01234 = some (.lui 5 0x1234) := by decide
/-- R105, R106. -/
theorem test_decode_control :
    decodeTableWord 32 0x4000FFFD = some (.beq 0 0 0xFFFD) ∧ decodeTableWord 32 0x50A60008 = some (.bltu 5 6 8) ∧
    decodeTableWord 32 0x58200010 = some (.jal 1 16) ∧ decodeTableWord 32 0x5C010000 = some (.jalr 0 1 0) := by decide
/-- R108, R111, R112, R113, R114. -/
theorem test_decode_float :
    decodeTableWord 32 0xA0221800 = some (.fadd 1 2 3 0) ∧ decodeTableWord 32 0xA0A6000D = some (.fmvxf 5 6) ∧
    decodeTableWord 32 0xA0A6014C = some (.fcvt 5 6 1 2) ∧ decodeTableWord 32 0xA4221938 = some (.fma 1 2 3 4 7) ∧
    decodeTableWord 32 0xB8A60170 = some (.fexp 5 6 2 7) := by decide
/-- R147, R149, R150, R151, R152, R155, R156. -/
theorem test_decode_memory :
    decodeTableWord 32 0x80C90600 = some (.ld 6 9 0 0 6 0) ∧ decodeTableWord 32 0x94A93840 = some (.amoadd 5 9 7 0 1) ∧
    decodeTableWord 32 0x94A93878 = some (.cas 5 9 7 0 1) ∧ decodeTableWord 32 0x98000010 = some (.fence 1) ∧
    decodeTableWord 32 0x98A90001 = some (.segld 5 9 0) ∧ decodeTableWord 32 0x98C50802 = some (.segrd 6 5 1) ∧
    decodeTableWord 32 0x98A95013 = some (.bankcfg 5 9 10 0 1) ∧ decodeTableWord 32 0x998D0006 = some (.send 12 13 0) ∧
    decodeTableWord 32 0x98C90017 = some (.dq 6 9 0 1) ∧ decodeTableWord 32 0x980C0008 = some (.migrate 12) := by decide
/-- R183, R185, R193, R196, R209, R210, R213, R215, R224. -/
theorem test_decode_compute :
    decodeTableWord 160 0xB40A0000 = some (.scfg 0 10 0 0 ⟨0, 0, 0, 0⟩) ∧
    decodeTableWord 160 0xB4400002 = some (.srel 2 0 ⟨0, 0, 0, 0⟩) ∧ decodeTableWord 32 0xB102002A = some (.vcmp 2 0 1 0 0 1) ∧
    decodeTableWord 32 0xB000001F = some .vfence ∧
    decodeTableWord 160 0xC000000B = some (.mwait ⟨0, 0, 0, 0⟩) ∧ decodeTableWord 160 0xC0250004 = some (.mzero 1 5 0 ⟨0, 0, 0, 0⟩) ∧
    decodeTableWord 32 0xC4400807 = some (.btcomp 2 0 1 0) ∧ decodeTableWord 32 0xC4200018 = some (.btclo 1 0 0 1) := by decide
/-- R230, R245, R246, R249, R263, R278, R305 to R309. -/
theorem test_decode_work :
    decodeTableWord 160 0xD4AA5800 = some (.launch 5 10 11 0 ⟨0, 0, 0, 0⟩) ∧ decodeTableWord 32 0xD0063800 = some (.start 6 7) ∧
    decodeTableWord 32 0xD0060001 = some (.reap 6) ∧ decodeTableWord 32 0xD0060024 = some (.bar 6 2) ∧
    decodeTableWord 160 0xD80A5800 = some (.copy 10 11 0 ⟨0, 0, 0, 0⟩) ∧
    decodeTableWord 160 0xD4A95001 = some (.trregCreate 5 9 10 0 ⟨0, 0, 0, 0⟩) := by decide
theorem test_decode_time :
    decodeTableWord 32 0xDC0A0010 = some (.tmodeOn 10) ∧ decodeTableWord 32 0xDD4B6001 = some (.tsend 10 11 12 0) ∧
    decodeTableWord 32 0xDCC90002 = some (.tnext 6 9) ∧ decodeTableWord 32 0xDCA60003 = some (.tout 5 6) ∧
    decodeTableWord 32 0xDCE00004 = some (.gvtrd 7) ∧ decodeTableWord 32 0xDCE80014 = some (.gvtrdW 7 8) := by decide
/-- R321 to R331, R347, R348. -/
theorem test_decode_system :
    decodeTableWord 32 0xF0000005 = some (.trap 5) ∧ decodeTableWord 32 0xF00B1000 = some (.eret 11) ∧
    decodeTableWord 32 0xF00B1001 = some (.eretSys 11) ∧ decodeTableWord 32 0xF0A02010 = some (.sysrd 5 0x010) ∧
    decodeTableWord 32 0xF16C4000 = some (.xec 11 12) ∧ decodeTableWord 32 0xF0095000 = some (.icinv 9) ∧
    decodeTableWord 32 0xF0096000 = some (.tlbinv 9) ∧ decodeTableWord 32 0xF1AB7000 = some (.swapctx 13 11) ∧
    decodeTableWord 32 0xF1409000 = some (.halt 10) ∧ decodeTableWord 32 0xF4000000 = some .brk ∧
    decodeTableWord 160 0xE0A60000 = some (.cred 5 6 0 ⟨0, 0, 0, 0⟩) ∧
    decodeTableWord 160 0xE0A63801 = some (.cbcast 5 6 7 0 ⟨0, 0, 0, 0⟩) := by decide
/-- R76: unassigned majors, and fields that must be zero. -/
theorem test_decode_refuses :
    decodeTableWord 32 0 = none ∧ decodeTableWord 32 0xFFFFFFFF = none ∧ decodeTableWord 32 0x0C000801 = none :=
  by decide
theorem test_decode_nothing : decode [] = .error .tooShort := rfl

/-! ## Ill-formed terms (R35, R57, R74, R76) -/

theorem test_wf_scalar :
    Instr.wf (.bst 7 0) = false ∧ Instr.wf (.bstN 7 0) = false ∧ Instr.wf (.fadd 1 2 3 4) = false ∧ Instr.wf (.fsub 1 2 3 6) = false ∧
    Instr.wf (.fmul 1 2 3 5) = false ∧ Instr.wf (.fdiv 1 2 3 4) = false ∧ Instr.wf (.fsqrt 1 2 4) = false ∧
    Instr.wf (.fsgn 1 2 3 3) = false ∧ Instr.wf (.fcvt 1 2 4 0) = false ∧ Instr.wf (.fcvt 1 2 1 6) = false ∧
    Instr.wf (.fma 1 2 3 4 4) = false ∧ Instr.wf (.fms 1 2 3 4 4) = false ∧ Instr.wf (.fnma 1 2 3 4 4) = false ∧
    Instr.wf (.fnms 1 2 3 4 4) = false ∧ Instr.wf (.fexp 1 2 0 4) = false ∧ Instr.wf (.flog 1 2 0 4) = false ∧
    Instr.wf (.frcp 1 2 0 4) = false ∧ Instr.wf (.frsq 1 2 0 4) = false ∧ Instr.wf (.ftanh 1 2 0 4) = false ∧
    Instr.wf (.fsigm 1 2 0 4) = false := by decide
theorem test_wf_memory :
    Instr.wf (.ld 1 2 0 0 7 0) = false ∧ Instr.wf (.st 1 2 0 0 5 0) = false ∧ Instr.wf (.st 1 2 0 0 4 0) = false ∧
    Instr.wf (.ldf 1 2 0 0 5 0) = false ∧ Instr.wf (.stf 1 2 0 0 1 0) = false ∧ Instr.wf (.fence 5) = false ∧
    Instr.wf (.segld 8 1 0) = false ∧ Instr.wf (.segrd 1 8 0) = false ∧ Instr.wf (.segrd 1 0 2) = false := by decide
theorem test_wf_compute :
    Instr.wf (.scfg 8 0 0 0 ⟨0, 0, 0, 0⟩) = false ∧ Instr.wf (.scfg2 8 0 0 0 ⟨0, 0, 0, 0⟩) = false ∧
    Instr.wf (.srel 0 0 ⟨1, 0, 0, 0⟩) = false ∧ Instr.wf (.vadd 0 0 1 0 1) = false ∧ Instr.wf (.vsub 0 0 0 1 0) = false ∧
    Instr.wf (.vmul 0 0 1 0 3) = false ∧ Instr.wf (.vmin 0 0 0 1 2) = false ∧ Instr.wf (.vmax 0 0 1 0 1) = false ∧
    Instr.wf (.vfma 0 0 0 0 3) = false ∧ Instr.wf (.vabs 0 0 1) = false ∧ Instr.wf (.vneg 0 0 3) = false ∧
    Instr.wf (.vdot 0 0 0 0 1) = false ∧ Instr.wf (.mlease 0 ⟨1, 1, 0, 0⟩) = false ∧ Instr.wf (.mfree ⟨1, 0, 0, 0⟩) = false ∧
    Instr.wf (.mwait ⟨0, 0, 0, 1⟩) = false ∧ Instr.wf (.mcb 1 0 ⟨0, 1, 0, 0⟩) = false ∧
    Instr.wf (.mzero 4 0 0 ⟨0, 0, 0, 0⟩) = false ∧ Instr.wf (.mma 4 0 0 0 0 ⟨0, 0, 0, 0⟩) = false ∧
    Instr.wf (.mmas 4 0 0 0 0 ⟨0, 0, 0, 0⟩) = false ∧ Instr.wf (.mepi 4 0 0 0 ⟨0, 0, 0, 0⟩) = false ∧
    Instr.wf (.mrec 4 0 0 0 ⟨0, 0, 0, 0⟩) = false ∧ Instr.wf (.mocmp 8 0 0 0 ⟨0, 0, 0, 0⟩) = false := by decide
theorem test_wf_tiles :
    Instr.wf (.btld 8 0 0) = false ∧ Instr.wf (.btst 8 0 0) = false ∧ Instr.wf (.btand 8 0 0 0) = false ∧
    Instr.wf (.btor 0 8 0 0) = false ∧ Instr.wf (.btxor 0 0 8 0) = false ∧ Instr.wf (.btnot 0 8 0) = false ∧
    Instr.wf (.bttrn 8 0 0) = false ∧ Instr.wf (.btcomp 0 0 8 0) = false ∧ Instr.wf (.btclo 8 0 0 0) = false ∧
    Instr.wf (.btrc 0 8 0 0) = false := by decide
theorem test_wf_work :
    Instr.wf (.tblset 0 0 0 ⟨0, 1, 0, 0⟩) = false ∧ Instr.wf (.tblsw 0 0 0 ⟨0, 0, 1, 0⟩) = false ∧
    Instr.wf (.shstat 0 0 ⟨0, 0, 0, 1⟩) = false ∧ Instr.wf (.rmig 0 0 0 0 ⟨0, 1, 0, 0⟩) = false ∧
    Instr.wf (.trregCreate 0 1 0 0 ⟨0, 0, 0, 0⟩) = false ∧ Instr.wf (.trregRegion 1 0 0 0 ⟨1, 0, 0, 0⟩) = false ∧
    Instr.wf (.trregArm 0 0 1 0 ⟨2, 0, 0, 0⟩) = false ∧ Instr.wf (.trregFree 0 0 0 0 ⟨3, 0, 1, 0⟩) = false ∧
    Instr.wf (.relaunch 0 0 0 0 ⟨0, 0, 0, 1⟩) = false ∧ Instr.wf (.cred 0 0 0 ⟨0, 0, 0, 1⟩) = false := by decide

/-! ## Small states -/

/-- A descriptor with every right and without P (R64). -/
def seg (base limit : Nat) : BitVec 128 := BitVec.ofNat 128 (base + 2 ^ 64 * limit + 2 ^ 116 * 0x6F)
/-- A thread at system privilege: g0 is paged space, g1 the core's scratchpad raw, g2 the same through the structured view; x1 is 7,
x2 is 5, x9 points to the start of g1, x10 is 0x40. -/
def thread : Thread :=
  { st := .run, sys := true, pc := 0x100
    x := (((Vector.replicate 32 0).set 1 7).set 2 5).set 9 0x2000000000000000 |>.set 10 0x40
    g := (((Vector.replicate 8 0).set 0 (seg 0x10000 0x10000)).set 1 (seg (2 ^ 51) 0x80000)).set 2 (seg (2 ^ 51 + 2 ^ 44) 0x80000000) }
/-- Core 0 with the thread in slot k, which is executing. -/
def on (k : Nat) (t : Thread) : State := { State.reset.putThr 0 k t with curSlot := k }
def s0 : State := on 0 thread
/-- The thread with x[n] set, n not 0. -/
def xs (l : List (Reg × Word)) (t : Thread) : Thread := l.foldl (fun t p => t.wx p.1 p.2) t

/-- The checks of `Issues`, as one value. -/
def ok (s : State) (i : Instr) : Bool := !held i s && i.wf && !(s.me.tm && !(cls i).timed) && (earlyCheck i s).isNone
theorem issues_of {s : State} {i : Instr} (h : ok s i = true) : Issues i s := by
  simp only [ok, Bool.and_eq_true, Bool.not_eq_true', Option.isNone_iff_eq_none] at h
  exact ⟨h.1.1.1, h.1.1.2, h.1.2, h.2⟩
def comes (s : State) (i : Instr) : Bool := !blocked i s && i.wf && !(s.me.tm && !(cls i).timed)
theorem offered_of {s : State} {i : Instr} (h : comes s i = true) : Offered i s := by
  simp only [comes, Bool.and_eq_true, Bool.not_eq_true'] at h
  exact ⟨h.1.1, h.1.2, h.2⟩
theorem issues_all {s : State} {l : List Instr} (h : l.all (ok s) = true) : ∀ i ∈ l, Issues i s :=
  fun i hi => issues_of (List.all_eq_true.mp h i hi)

def toOpt {ε α : Type} (e : Except ε α) : Option α := match e with | .ok a => some a | .error _ => none
theorem ok_of {ε α : Type} {e : Except ε α} {a : α} (h : toOpt e = some a) : e = .ok a := by
  cases e with
  | ok b => simp only [toOpt, Option.some.injEq] at h; rw [h]
  | error _ => exact absurd h (by simp [toOpt])
def toErr {ε α : Type} (e : Except ε α) : Option ε := match e with | .ok _ => none | .error x => some x
theorem err_of {ε α : Type} {e : Except ε α} {a : ε} (h : toErr e = some a) : e = .error a := by
  cases e with
  | error b => simp only [toErr, Option.some.injEq] at h; rw [h]
  | ok _ => exact absurd h (by simp [toErr])

/-- The operands of an FP instruction can be read and its result written. -/
def fok (s : State) (i : Instr) : Bool :=
  ok s i && (match s.me.readFs (cls i).fsrc with | .ok _ => true | .error _ => false) &&
    (match (cls i).fdst with | some d => (s.me.checkPush d).isNone | none => true)
theorem meets_fromF {s : State} {l : List Instr} (h : l.all (fok s) = true) : ∀ i ∈ l, ∃ vs t, Issues i s ∧
    s.me.readFs (cls i).fsrc = .ok (vs, t) ∧ (match (cls i).fdst with | some d => s.me.checkPush d | none => none) = none := by
  intro i hi
  have h1 := List.all_eq_true.mp h i hi
  simp only [fok, Bool.and_eq_true] at h1
  obtain ⟨⟨h1, h2⟩, h3⟩ := h1
  cases hr : s.me.readFs (cls i).fsrc with
  | error e => rw [hr] at h2; exact absurd h2 (by simp)
  | ok p =>
    refine ⟨p.1, p.2, issues_of h1, rfl, ?_⟩
    cases hd : (cls i).fdst with
    | none => rfl
    | some d => rw [hd] at h3; simpa using h3

/-- An instruction in flight of the thread in slot 0 of core 0, at a place. -/
def flying (i : Instr) (o : Operands) (ph : Phase) (s : State := s0) : State :=
  s.putThr 0 0 { s.thr 0 0 with pend := [{ id := 1, pc := 0xFC, ins := i, cover := 1, mem := true, ops := o, phase := ph }] }
def p1 (i : Instr) (o : Operands) (ph : Phase) : Pending := { id := 1, pc := 0xFC, ins := i, cover := 1, mem := true, ops := o, phase := ph }
def r1 : Ref := ⟨0, 0, 1⟩
/-- The checks of `AtPlainBank`. -/
def atOk (s : State) (p : Pending) (c off : Nat) : Bool :=
  decide (s.pending r1 = some p) && decide (p.phase = .flight) && decide (p.ops.tgt = .raw c off) &&
  (s.thr 0 0).mayPerform p && !s.coreOut c && !s.quadDown c && decide (s.owner c = s.owner 0) &&
  decide ((s.bank c (off / bankSize)).locked = none) && s.plainBank c (off / bankSize)
theorem atPlain_of {s : State} {p : Pending} {c off : Nat} (h : atOk s p c off = true) : AtPlainBank s r1 p c off := by
  simp only [atOk, Bool.and_eq_true, decide_eq_true_eq, Bool.not_eq_true'] at h
  obtain ⟨⟨⟨⟨⟨⟨⟨⟨h1, h2⟩, h3⟩, h4⟩, h5⟩, h6⟩, h7⟩, h8⟩, h9⟩ := h
  exact ⟨h1, h2, h3, h4, h5, h7, h6, h8, h9⟩

/-! ## Integer and control instructions -/

theorem test_meets_IntegerResults : ∀ i ∈ ([.add 3 1 2, .sub 3 1 2, .and 3 1 2, .or 3 1 2, .xor 3 1 2, .sll 3 1 2, .srl 3 1 2, .sra 3 1 2,
    .slt 3 1 2, .sltu 3 1 2, .min 3 1 2, .max 3 1 2, .minu 3 1 2, .maxu 3 1 2, .mul 3 1 2, .mulh 3 1 2, .mulhu 3 1 2, .div 3 1 0,
    .divu 3 1 2, .rem 3 1 0, .remu 3 1 2, .clz 3 0, .ctz 3 1, .popc 3 1, .sel 3 1 2 0] : List Instr), Issues i s0 :=
  issues_all (by decide)
/-- Fields that end at bit 63 and one beyond it. -/
theorem test_meets_ImmediateResults : (∀ i ∈ ([.addi 3 1 5, .andi 3 1 5, .ori 3 1 5, .xori 3 1 5, .slti 3 1 5, .sltiu 3 1 5, .slli 3 1 63,
    .srli 3 1 63, .srai 3 1 63, .extr 3 1 63 0, .insr 3 1 63 0, .extr 3 1 63 1, .insr 3 1 63 1, .lui 3 5, .addpc 3 5] : List Instr), Issues i s0) ∧
    (0#6).toNat + ((63#6).toNat + 1) ≤ 64 ∧ 64 < (1#6).toNat + ((63#6).toNat + 1) := ⟨issues_all (by decide), by decide, by decide⟩
/-- x1 = 7, x2 = 5, BS = 0; jumps to multiples of 4 and to none. -/
theorem test_meets_BranchesAndJumps : (∀ i ∈ ([.beq 1 1 4, .bne 1 2 4, .blt 2 1 4, .bge 1 1 4, .bltu 2 1 4, .bgeu 1 1 4, .bst 0 4, .bstN 1 4,
    .beq 1 2 4, .bne 1 1 4, .blt 1 1 4, .bge 2 1 4, .bltu 1 1 4, .bgeu 2 1 4, .bst 1 4, .bstN 0 4, .jal 1 4, .jalr 1 10 0, .jalr 1 10 2] : List Instr),
      Issues i s0) ∧
    Issues (.jal 1 4) (on 0 { thread with pc := 0x102 }) ∧ ((s0.me.rx 10 + (2#16).signExtend 64).toNat % 4 ≠ 0) ∧
    s0.me.rx 1 ≠ s0.me.rx 2 ∧ (s0.me.rx 2).toInt < (s0.me.rx 1).toInt ∧ s0.me.bs = 0 :=
  ⟨issues_all (by decide), issues_of (by decide), by and_intros <;> decide⟩

/-! ## Scalar floating point -/

theorem test_meets_FloatArithmeticResults : (∀ i ∈ ([.fadd 3 1 2 0, .fsub 3 1 2 0, .fmul 3 1 2 0, .fdiv 3 1 2 0, .fsqrt 3 1 0,
    .fma 3 1 2 4 0, .fms 3 1 2 4 0, .fnma 3 1 2 4 0, .fnms 3 1 2 4 0] : List Instr), ∃ vs t, Issues i s0 ∧ s0.me.readFs (cls i).fsrc = .ok (vs, t) ∧
      (match (cls i).fdst with | some d => s0.me.checkPush d | none => none) = none) ∧ s0.me.mode 0 = some 0 ∧ s0.me.mode 7 = some 0 :=
  ⟨meets_fromF (by decide), by decide, by decide⟩
theorem test_meets_FloatPlainAndConversions : ∀ i ∈ ([.fmin 3 1 2, .fmax 3 1 2, .feq 3 1 2, .flt 3 1 2, .fle 3 1 2, .fclass 3 1, .fsgn 3 1 2 0,
    .fsgn 3 1 2 1, .fsgn 3 1 2 2, .fmvxf 3 1, .fmvfx 3 1, .fcvt 3 1 0 0, .fcvt 3 1 0 1, .fcvt 3 1 0 2, .fcvt 3 1 0 3, .fcvt 3 1 0 4, .fcvt 3 1 0 5,
    .fcvt 3 1 0 6, .fcvt 3 1 0 7] : List Instr), ∃ vs t, Issues i s0 ∧ s0.me.readFs (cls i).fsrc = .ok (vs, t) ∧
      (match (cls i).fdst with | some d => s0.me.checkPush d | none => none) = none := meets_fromF (by decide)
/-- The least and the greatest NaN and number, of FP32 and of the narrower formats; the ends of the integers. -/
theorem test_meets_FloatPlainAndConversions_values :
    nan32 0x7F800001#32 ∧ ¬nan32 0x7F800000#32 ∧ finite32 0x7F7FFFFF#32 ∧ (3 : Nat) < 4 ∧ (-(2 ^ 63) : Int) ≤ -(2 ^ 63) ∧
    (2 ^ 64 - 1 : Int) < 2 ^ 64 ∧ (bf16 = bf16 ∨ bf16 = fp16) ∧ (2 ^ 16 - 1 : Nat) < 2 ^ 16 ∧ bf16.finite 0x7F7F ∧ fp16.finite 0x7BFF ∧
    0x7F80 % 2 ^ 15 = (2 ^ bf16.eb - 1) * 2 ^ bf16.fb ∧ (2 ^ fp16.eb - 1) * 2 ^ fp16.fb < 0x7C01 % 2 ^ 15 := by
  unfold finite32 Fmt.finite; decide
/-- RM 4 and 7; the least NaN. -/
theorem test_meets_RoundingModesAndNaNs : (∀ i ∈ ([.fadd 3 1 2 7, .fsub 3 1 2 7, .fmul 3 1 2 7, .fdiv 3 1 2 7, .fsqrt 3 1 7, .fma 3 1 2 4 7,
    .fms 3 1 2 4 7, .fnma 3 1 2 4 7, .fnms 3 1 2 4 7, .fcvt 3 1 7 0, .fcvt 3 1 7 1, .fcvt 3 1 7 2, .fcvt 3 1 7 3, .fcvt 3 1 7 4, .fcvt 3 1 7 5,
    .fexp 3 1 2 7, .flog 3 1 2 7, .frcp 3 1 2 7, .frsq 3 1 2 7, .ftanh 3 1 2 7, .fsigm 3 1 2 7] : List Instr),
      Issues i (on 0 { thread with fcsr := 0x80 })) ∧ 4 ≤ (on 0 { thread with fcsr := 0x80 }).me.fcsr.toNat / 2 ^ 5 % 8 ∧
    0x7F800000 < (0x7F800001#32).toNat % 2 ^ 31 := ⟨issues_all (by decide), by decide, by decide⟩

/-- Core 0, cycle 0: a VADD of slot 0 with `n` beats left, whose streams s0 and s1 hold one element. -/
def vecState (i : Instr) (n : Nat) (e : Elem) : State :=
  let st : Stream := { configured := true, count := 1, fetched := [(0, e)] }
  on 0 { thread with
    streams := (((Vector.replicate 8 {}).set 0 st).set 1 st).set 2 { configured := true, mode := 0x1000, count := 1 }
    pend := [{ id := 1, pc := 0xFC, ins := i, cover := 1, ops := { b := 1 }, phase := .queued, beats := n, elems := 1, names := [2, 0, 1] }] }
/-- A read stream of one element at the start of the scratchpad, which has not been read. -/
def src : Stream := { configured := true, base := 0x2000000000000000, ta := 2 ^ 51, count := 1, stride := 4 }
def vp (i : Instr) (n : Nat) : Pending :=
  { id := 1, pc := 0xFC, ins := i, cover := 1, ops := { b := 1 }, phase := .queued, beats := n, elems := 1, names := [2, 0, 1] }
theorem test_meets_SfuRequestsAndResults_requests : (∀ i ∈ ([.fexp 3 1 2 0, .flog 3 1 2 0, .frcp 3 1 2 0, .frsq 3 1 2 0, .ftanh 3 1 2 0,
    .fsigm 3 1 2 0] : List Instr), Issues i s0) ∧ s0.me.mode 0 = some 0 ∧ (∃ v t, s0.me.readFs [1] = .ok (v, t)) ∧ s0.me.checkPush 3 = none :=
  ⟨issues_all (by decide), by decide, ⟨_, _, rfl⟩, by decide⟩
theorem test_meets_SfuRequestsAndResults_beats :
    ((vecState (.vadd 2 0 1 0 0) 2 (.ok 0)).thr 0 0).beating = some (vp (.vadd 2 0 1 0 0) 2) ∧
    ((vecState (.vadd 2 0 1 0 0) 1 (.ok 0)).thr 0 0).beating = some (vp (.vadd 2 0 1 0 0) 1) ∧
    (vecState (.vadd 2 0 1 0 0) 1 (.ok 0)).cycle % 16 = 0 ∧ (vp (.vadd 2 0 1 0 0) 1).ops.stage ≠ 0 + 1 ∧
    vGather ((vecState (.vadd 2 0 1 0 0) 1 (.ok 0)).thr 0 0) [0, 1] 1 0 = .ok [[0, 0]] ∧
    (∃ c v, vGather ((vecState (.vadd 2 0 1 0 0) 1 (.bad cSEGLIM 9)).thr 0 0) [0, 1] 1 0 = .error (c, v)) ∧
    { vecState (.vadd 2 0 1 0 0) 1 (.ok 0) with cycle := 1 }.cycle % 16 ≠ 0 ∧ (vecState (.vadd 2 0 1 0 0) 1 (.ok 0)).gated = false ∧
    { vecState (.vadd 2 0 1 0 0) 1 (.ok 0) with gates := [1] }.gated = true ∧
    (let p := vp (.vadd 2 0 1 0 0) 1
     let shut := (on 0 { thread with streams := ((Vector.replicate 8 ({} : Stream)).set 0 src).set 1 src }).modBank 0 0
       (fun k => { k with locked := some ⟨0, 3, 1⟩ })
     (((vecState (.vadd 2 0 1 0 0) 1 (.ok 0)).vFetch 0 0 p 1).thr 0 0).vReady p 1 = true ∧
     (((vecState (.vadd 2 0 1 0 0) 2 (.ok 0)).vFetch 0 0 (vp (.vadd 2 0 1 0 0) 2) 0).thr 0 0).vReady (vp (.vadd 2 0 1 0 0) 2) 0 = true ∧
     ((shut.vFetch 0 0 p 1).thr 0 0).vReady p 1 = false ∧
     (∀ q ∈ ([(1, 1, 1), (1, 2, 0), (193, 2, 192), (193, 1, 193)] : List (Nat × Nat × Nat)),
       min q.1 (192 * (max 1 ((q.1 + 191) / 192) + 0 + 1 - q.2.1)) = q.2.2)) := by
  refine ⟨by decide, by decide, by decide, by decide, rfl, ⟨_, _, rfl⟩, by and_intros <;> decide⟩
/-- VEXP of one element, read and behind a locked bank, and of none. -/
theorem test_meets_SfuRequestsAndResults_vectors :
    (let i := Instr.vexp 2 0
     let p := { vp i 1 with names := [2, 0] }
     let s := fun (m b : Nat) (e : List (Nat × Elem)) => (on 0 { thread with
       streams := ((Vector.replicate 8 ({} : Stream)).set 0 { src with fetched := e }).set 2 { configured := true, mode := 0x1000, count := 1 }
       pend := [{ p with elems := m, beats := b }] }).modCore 0 (fun x => { x with sfu := [⟨0, 1, 1, 0⟩] })
     let shut := fun (b : Nat) => (s 1 b []).modBank 0 0 (fun k => { k with locked := some ⟨0, 3, 1⟩ })
     (cls i).sfu = true ∧ sfuOf i = none ∧ ((s 1 1 [(0, .ok 0)]).thr 0 0).beating = some p ∧ ((s 0 1 []).thr 0 0).beating = some { p with elems := 0 } ∧
     (((s 1 1 [(0, .ok 0)]).vFetch 0 0 p 1).thr 0 0).vReady p 1 = true ∧ (((shut 1).vFetch 0 0 p 1).thr 0 0).vReady p 1 = false ∧
     (((s 0 1 []).vFetch 0 0 { p with elems := 0 } 0).thr 0 0).vReady { p with elems := 0 } 0 = true ∧
     toOpt (vGather ((s 1 1 [(0, .ok 0)]).thr 0 0) [0] 1 0) = some [[0]] ∧ (toOpt (vGather ((s 1 1 [(0, .bad cSEGLIM 9)]).thr 0 0) [0] 1 0)).isNone = true ∧
     ((s 1 0 []).core 0).sfu = ⟨0, 1, 1, 0⟩ :: [] ∧ (s 1 0 []).cycle < 0 + 20 + (1 - 1) / 16 ∧ 0 + 20 + (1 - 1) / 16 ≤ { s 1 0 [] with cycle := 20 }.cycle ∧
     (s 1 0 []).pending r1 = some { p with beats := 0 }) := by decide
/-- A request of one element that began in cycle 0 and is served in cycle 20. -/
theorem test_meets_SfuRequestsAndResults_results :
    let s := { (flying (.fexp 3 1 2 0) { a := 0 } .queued).modCore 0 (fun x => { x with sfu := [⟨0, 1, 1, 0⟩] }) with cycle := 20 }
    (s.core 0).sfu = ⟨0, 1, 1, 0⟩ :: [] ∧ 0 + 20 + (1 - 1) / 16 ≤ s.cycle ∧ s.pending r1 = some (p1 (.fexp 3 1 2 0) { a := 0 } .queued) ∧
    (sfuOf (.fexp 3 1 2 0)).isSome ∧ (cls (.fexp 3 1 2 0)).fdst = some 3 := by decide

/-! ## Memory -/

/-- A fourth segment, of core 0 of cluster 1: an access through it takes its thread there. -/
def far : Thread := { xs [(11, 0x6000000000000000)] thread with g := thread.g.set 3 (seg (2 ^ 51 + 3 * 2 ^ 48 + 2 ^ 33) 0x80000) }
def ld8 (ea : Word) : Need := { ea := ea, n := 8, align := 8, r := true, win := false, dbl := true, sysOk := true }
/-- Every case of `Accesses`: refused, local, away, and away for a thread that may not leave. -/
theorem test_meets_Accesses : Issues (.ld 3 11 0 0 6 0) (on 0 far) ∧
    resolve (on 0 far) 0 (on 0 far).me (ld8 0xFFFFFFFFFFFFFFFF) = .error (cSEGRIGHT, 0xFFFFFFFFFFFFFFFF) ∧
    resolve (on 0 far) 0 (on 0 far).me (ld8 0x2000000000000000) = .ok (2 ^ 51, .raw 0 0) ∧
    resolve (on 0 far) 0 (on 0 far).me (ld8 0x6000000000000000) = .ok (2 ^ 51 + 3 * 2 ^ 48 + 2 ^ 33, .foreign 64 (2 ^ 51 + 3 * 2 ^ 48 + 2 ^ 33)) ∧
    (on 0 far).mayLeave 0 0 0 = none ∧
    (on 0 { far with streams := far.streams.set 0 { configured := true } }).mayLeave 0 0 0 = some (cSTREAM, 0) :=
  ⟨issues_of (by decide), err_of (by decide), ok_of (by decide), ok_of (by decide), by decide, by decide⟩
/-- SETE and SETF of 4,096 doublewords and of one more. -/
theorem test_meets_LoadsStoresAtomicsIssue : (∀ i ∈ ([.ld 3 9 0 0 0 0, .ld 3 9 0 1 6 0, .st 2 9 0 0 0 0, .st 2 9 0 0 4 0, .ldf 3 9 0 0 4 0, .stf 3 9 0 0 3 0,
    .ldfe 3 9 0 0, .ldff 3 9 0 0, .stef 3 9 0 0, .stff 3 9 0 0, .sete 3 9 0 0, .setf 3 9 0 0, .amoadd 3 9 1 0 1, .amoand 3 9 1 0 0, .amoor 3 9 1 0 1,
    .amoxor 3 9 1 0 1, .amomin 3 9 1 0 1, .amomax 3 9 1 0 1, .amoswap 3 9 1 0 1, .cas 3 9 1 0 1] : List Instr), Issues i s0) ∧
    viewCheck (.ld 3 9 0 0 6 0) (ld8 0x2000000000000000) none s0.me s0 = none ∧
    viewCheck (.st 2 9 0 0 3 0) { ld8 0x2000000000000000 with r := false, w := true } (some 5) s0.me s0 = none ∧ s0.me.viewOf 3 = none ∧
    (∀ i ∈ ([.sete 3 9 0 0, .setf 3 9 0 0] : List Instr), Issues i (on 0 (xs [(3, 4096)] thread))) ∧
    (∀ i ∈ ([.sete 3 9 0 0, .setf 3 9 0 0] : List Instr), Issues i (on 0 (xs [(3, 4097)] thread))) :=
  ⟨issues_all (by decide), by decide, by decide, by decide, issues_all (by decide), issues_all (by decide)⟩

def o0 : Operands := { tgt := .raw 0 0, ta := 2 ^ 51, n := 8, ea := 0x2000000000000000 }
theorem at_all {l : List Instr} {s : State} (h : l.all (fun i => atOk (flying i o0 .flight s) (p1 i o0 .flight) 0 0) = true) :
    ∀ i ∈ l, AtPlainBank (flying i o0 .flight s) r1 (p1 i o0 .flight) 0 0 := fun i hi => atPlain_of (List.all_eq_true.mp h i hi)
theorem test_meets_LoadsStoresAtomicsPerformed : (∀ i ∈ ([.ld 3 9 0 0 0 0, .ld 3 9 0 0 6 0, .ldf 3 9 0 0 4 0, .st 2 9 0 0 4 0, .stf 3 9 0 0 3 0,
    .amoadd 3 9 1 0 1, .amoand 3 9 1 0 0, .amoor 3 9 1 0 1, .amoxor 3 9 1 0 1, .amomin 3 9 1 0 1, .amomax 3 9 1 0 1, .amoswap 3 9 1 0 1,
    .cas 3 9 1 0 1] : List Instr), AtPlainBank (flying i o0 .flight s0) r1 (p1 i o0 .flight) 0 0) ∧
    (flying (.cas 3 9 1 0 1) o0 .flight).poisonIn (2 ^ 56) 8 = none ∧ o0.tm = false ∧
    AtPlainBank (flying (.ld 3 9 0 0 6 0) o0 .flight { s0 with poisons := [2 ^ 56] }) r1 (p1 (.ld 3 9 0 0 6 0) o0 .flight) 0 0 ∧
    (flying (.ld 3 9 0 0 6 0) o0 .flight { s0 with poisons := [2 ^ 56] }).poisonIn (2 ^ 56) 8 = some (2 ^ 56) :=
  ⟨at_all (by decide), by decide, by decide, atPlain_of (by decide), by decide⟩
theorem test_meets_FullEmptyPerformed : (∀ i ∈ ([.ldfe 3 9 0 0, .ldff 3 9 0 0, .stef 3 9 0 0, .stff 3 9 0 0, .sete 3 9 0 0, .setf 3 9 0 0] : List Instr),
    AtPlainBank (flying i o0 .flight s0) r1 (p1 i o0 .flight) 0 0) ∧ (p1 (.ldfe 3 9 0 0) o0 .flight).oneBank 0 = true ∧
    s0.isFull (2 ^ 56) = true ∧ s0.poisonIn (2 ^ 56) 8 = none ∧
    (∀ i ∈ ([.ldfe 3 9 0 0, .ldff 3 9 0 0, .stef 3 9 0 0] : List Instr),
      AtPlainBank (flying i o0 .flight { s0 with empties := [2 ^ 56] }) r1 (p1 i o0 .flight) 0 0) ∧ { s0 with empties := [2 ^ 56] }.isFull (2 ^ 56) = false ∧
    (∀ q ∈ ([(0, 0), (1, 0), (2, 0), (2, 1)] : List (Nat × Word)), (fun q : Nat × Word => let o : Operands := { o0 with n := 8 * q.1, c := q.2 }
      (atOk (flying (.sete 3 9 0 0) o .flight s0) (p1 (.sete 3 9 0 0) o .flight) 0 0 && atOk (flying (.setf 3 9 0 0) o .flight s0) (p1 (.setf 3 9 0 0) o .flight) 0 0 &&
        (p1 (.sete 3 9 0 0) o .flight).oneBank 0)) q = true) :=
  ⟨at_all (by decide), by decide, by decide, by decide, at_all (by decide), by decide, List.all_eq_true.mp (by decide)⟩
/-- A descriptor of zeros, one with bit 52, one with P. -/
theorem test_meets_SegmentBankMessageAccesses_segments :
    AtPlainBank (flying (.segld 5 9 0) o0 .flight) r1 (p1 (.segld 5 9 0) o0 .flight) 0 0 ∧ (flying (.segld 5 9 0) o0 .flight).poisonIn (2 ^ 56) 16 = none ∧
    (BitVec.ofNat 128 ((s0.write (2 ^ 56 + 6) 1 0x10).read (2 ^ 56) 16)).extractLsb' 52 12 ≠ 0 ∧
    (BitVec.ofNat 128 ((s0.write (2 ^ 56 + 15) 1 1).read (2 ^ 56) 16)).getLsbD 120 = true ∧
    AtPlainBank (flying (.segld 5 9 0) o0 .flight (s0.write (2 ^ 56 + 15) 1 1)) r1 (p1 (.segld 5 9 0) o0 .flight) 0 0 ∧
    Issues (.segrd 3 1 0) s0 ∧ Issues (.segrd 3 1 1) s0 :=
  ⟨atPlain_of (by decide), by decide, by decide, by decide, atPlain_of (by decide), issues_of (by decide), issues_of (by decide)⟩
theorem test_meets_SegmentBankMessageAccesses_issue : (∀ i ∈ ([.segld 5 9 0, .bankq 3 9 0, .bankjoin 9 0, .bankcfg 3 9 0 0 0, .bankcfg 3 9 1 0 0, .send 0 9 0,
    .dq 3 0 0 0, .dq 3 9 0 0, .dq 3 9 0 1] : List Instr), Issues i s0) ∧
    resolve s0 0 s0.me { ea := 0x2000000000000000, n := 8, align := 8, sort := .bank, w := true, needT := true } = .ok (2 ^ 51, .raw 0 0) ∧
    (Target.raw 0 0).bank = some (0, 0) ∧ cfgOk (s0.me.rx 0) = true ∧ cfgOk (s0.me.rx 1) = false ∧ s0.badTarget (s0.me.rx 0) = false ∧
    (let s := fun (v : Word) => { on 0 (xs [(3, v)] thread) with quads := [(1, 1)] }
     ([3, 4, 0xFFFF, 0x10000] : List Word).all (fun v => ok (s v) (.send 3 9 0)) = true ∧ (s 3).isCoreOf 3 0 = true ∧ (s 4).isCoreOf 4 0 = false ∧
     (4 : Nat) / 2048 = (s 4).pkg.toNat ∧ (0xFFFF : Nat) / 2048 ≠ (s 4).pkg.toNat ∧
     toOpt (resolve (s 4) 0 (s 4).me { ea := 0x2000000000000000, n := 32, align := 32, sort := .record, r := true }) = some (2 ^ 51, .raw 0 0)) :=
  ⟨issues_all (by decide), ok_of (by decide), by and_intros <;> decide +kernel⟩

/-- A state whose virtual function 0 has its root at 2^28 and there one leaf for the tenant's first GiB. -/
def paged (leaf : Nat) (i : Instr) : State :=
  { (flying i { tgt := .paged 0x10000, n := 8, ta := 0x10000, sys := true } .flight).putVf 0 { root := some (2 ^ 28) } with
    mem := if leaf = 0 then ⟨[]⟩ else Memory.write ⟨[]⟩ (2 ^ 28) 8 leaf }
theorem test_meets_PagedAccesses :
    (ld8 0).sort = .plain ∧ (2 ^ 51 - 1 < 2 ^ 51) ∧
    (let i := Instr.ld 3 10 0 0 6 0
     let x := fun (e : Nat) => (paged e i).translate 0 0 0x10000 { askOf i with sys := true } (hostAtomic i)
     (paged 0 i).pending r1 = some (p1 i { tgt := .paged 0x10000, n := 8, ta := 0x10000, sys := true } .flight) ∧
     (paged 0 i).portReady r1 (p1 i { tgt := .paged 0x10000, n := 8, ta := 0x10000, sys := true } .flight) = true ∧
     x 0 = .absent ∧ x 0x3 = .fault cPAGER ∧ (paged 0x7 i).poisonIn 0x10000 8 = none ∧
     x 0x7 = .ok 0x10000 ∧ (match paSpace 0x10000 with | .hbm _ => true | _ => false) = true ∧
     x (0x7 + 2 ^ 45) = .ok (2 ^ 45 + 0x10000) ∧ paSpace (2 ^ 45 + 0x10000) = .host ∧
     x (0x7 + 2 ^ 46) = .ok (2 ^ 46 + 0x10000) ∧ paSpace (2 ^ 46 + 0x10000) = .root ∧
     ((paged 0x7 i).landAll ((paged 0x7 i).thr 0 0)).poisonIn (2 ^ 45 + 0x10000) 8 = none) ∧
    { s0 with posted := [⟨0, 0, 2 ^ 45, 8, 7, {}⟩] }.posted = [⟨0, 0, 2 ^ 45, 8, 7, {}⟩] ∧
    (paged 0xF (.st 3 10 0 0 3 0)).translate 0 0 0x10000 { askOf (.st 3 10 0 0 3 0) with sys := true } (hostAtomic (.st 3 10 0 0 3 0)) = .ok 0x10000 := by
  decide

/-! ## Completion, faults and traps -/

theorem test_meets_CompletionAndLateFaults :
    (∀ res ∈ ([{ x := [(3, 5)] }, { x := [(3, 5)], bs := some 1 }, { bs := some 1 }, { f := [(3, 5)] }, { g := some (5, 0) },
        { f := [(3, 5)], flags := fNV }, { bs := some 1, flags := fNX }, { flags := fOF, ovf := 3 }] : List Result),
      (flying (.ld 3 9 0 0 6 0) o0 (.done res)).pending r1 = some (p1 (.ld 3 9 0 0 6 0) o0 (.done res)) ∧
      ((flying (.ld 3 9 0 0 6 0) o0 (.done res)).thr 0 0).canApply res = true) ∧
    ((flying (.ld 3 9 0 0 6 0) o0 (.fault cPOISON 9)).thr 0 0).resolved = true ∧
    ((flying (.ld 3 9 0 0 6 0) o0 (.fault cPOISON 9)).thr 0 0).faults = [(p1 (.ld 3 9 0 0 6 0) o0 (.fault cPOISON 9), cPOISON, 9)] := by decide
/-- Slot 15 executing, with slot 0 as given. -/
def in15 (t : Thread) (a : Word) : State := { s0.putThr 0 0 t |>.putThr 0 15 (xs [(4, a)] thread) with curSlot := 15 }
theorem test_meets_TrapsAndReturns_traps : Issues (.trap 5) s0 ∧ Issues .brk s0 ∧ s0.me.settled = true ∧
    Issues (.trap 5) (flying (.ld 3 9 0 0 6 0) o0 .flight) ∧ (flying (.ld 3 9 0 0 6 0) o0 .flight).me.settled = false ∧
    Issues .brk (on 15 thread) ∧ (on 15 thread).me.settled = true :=
  ⟨issues_of (by decide), issues_of (by decide), by decide, issues_of (by decide), by decide, issues_of (by decide), by decide⟩
/-- Slots 0, 14 and 15 named; a trap that HALT has returned, one that it has not. -/
theorem test_meets_TrapsAndReturns_returns : (∀ i ∈ ([.eret 4, .eretSys 4, .eretUser 4] : List Instr),
      Issues i (on 0 thread) ∧ Issues i (in15 thread 15) ∧ Issues i (in15 thread 14) ∧
      Issues i (in15 { thread with st := .trapped, returned := true } 0) ∧ Issues i (in15 { thread with st := .trapped } 0)) ∧
    ((in15 { thread with st := .trapped, returned := true } 0).thr 0 0).returned = true ∧ ((in15 thread 14).me.rx 4).toNat = 14 := by
  refine ⟨fun i hi => ⟨issues_all (by decide) i hi, issues_all (by decide) i hi, issues_all (by decide) i hi, issues_all (by decide) i hi,
    issues_all (by decide) i hi⟩, by decide, by decide⟩

/-! ## System registers -/

theorem test_meets_SystemRegisters_reads : (∀ i ∈ ([0x000, 0x010, 0x011, 0x012, 0x013, 0x014, 0x023, 0x030, 0x031, 0x038, 0x039, 0x100, 0x13C, 0x101, 0x13D, 0x102,
      0x13E, 0x140, 0x141, 0x200, 0x210, 0x211, 0x212, 0x213, 0x220, 0x240, 0x241, 0x242, 0x243, 0x001, 0x103, 0xFFF] : List (BitVec 12)), Issues (.sysrd 3 i) s0) ∧
    s0.me.sys = true ∧ regExists 0x001 = false ∧ regExists 0x103 = false ∧ regExists 0x100 = true ∧ Issues (.sysrd 3 0x100) (on 0 { thread with sys := false }) :=
  ⟨fun i hi => issues_of (List.all_eq_true.mp (by decide : (List.all [0x000, 0x010, 0x011, 0x012, 0x013, 0x014, 0x023, 0x030, 0x031, 0x038, 0x039, 0x100, 0x13C,
      0x101, 0x13D, 0x102, 0x13E, 0x140, 0x141, 0x200, 0x210, 0x211, 0x212, 0x213, 0x220, 0x240, 0x241, 0x242, 0x243, 0x001, 0x103, 0xFFF]
        (fun n : BitVec 12 => ok s0 (.sysrd 3 n))) = true) i hi), by decide, by decide, by decide, by decide, issues_of (by decide)⟩
def x4 (v : Word) (t : Thread := thread) : State := on 0 (xs [(4, v)] t)
/-- The greatest value each register takes and the least it refuses. -/
theorem test_meets_SystemRegisters_writes :
    ([(0x010, 0xFF), (0x010, 0x100), (0x011, 0xFFFFFFFF), (0x011, 0x100000000), (0x012, 0xFFFFFFFFFFFFF), (0x012, 0x10000000000000), (0x013, 2), (0x013, 3)] :
      List (BitVec 12 × Word)).all (fun q => ok (x4 q.2) (.syswr 4 q.1)) = true ∧
    (∀ i ∈ ([.syswr 4 0x014, .syswr 4 0x023, .syswr 4 0x030, .syswr 4 0x031, .syswr 4 0x038, .syswr 4 0x039, .syswr 4 0x100, .syswr 4 0x101, .syswr 4 0x13D,
      .syswr 4 0x102, .syswr 4 0x140, .syswr 4 0x141, .syswr 4 0x200, .syswr 4 0x212, .syswr 4 0x243] : List Instr), Issues i (x4 0x1FFF) ∧ Issues i (x4 0x2000)) ∧
    (let kept := fun (v : Word) => (x4 v).modCore 0 (fun x => { x with tcc := [(0, ⟨thread, 0⟩)] })
     ([0x210, 0x211] : List (BitVec 12)).all (fun n => ([0x7FFFFFFFFFC00, 0x7FFFFFFFFFE00, 0x8000000000000, 0] : List Word).all (fun v =>
       ok (x4 v) (.syswr 4 n) && ok (kept v) (.syswr 4 n))) = true ∧
     (x4 0).me.rx 4 = 0 ∧ tccCtlOk 0 = true ∧ tccCtlOk 0x7FFFFFFFFFC00 = false ∧ ((x4 0).core 0).tcc = [] ∧ ((kept 0).core 0).tcc ≠ []) ∧
    (let bit := fun (e : Word) (v : Word) => (x4 v).modCore 0 (fun x => { x with tccErr := e })
     ([0, 0x8000000000000000] : List Word).all (fun e => ([0x8FFFFFFFFFFFFFFF, 0x0FFFFFFFFFFFFFFF, 0x1000000000000000] : List Word).all (fun v =>
       ok (bit e v) (.syswr 4 0x213))) = true) ∧
    ([0x220, 0x240, 0x241, 0x242] : List (BitVec 12)).all (fun n => ([7, 8, 0xFFFF, 0x10000, 0xFFFFFFFF, 0x100000000] : List Word).all (fun v => ok (x4 v) (.syswr 4 n))) = true :=
  ⟨by decide, fun i hi => ⟨issues_all (by decide) i hi, issues_all (by decide) i hi⟩, by and_intros <;> decide, by decide, by decide⟩
/-- BS 6 and 7 with SYS kept; slot 15 with SYS kept and cleared; bits 3, 5, 6 and 7 set; SYS set by a user. -/
theorem test_meets_SystemRegisters_status :
    (∀ s ∈ [x4 0x16, x4 0x1E, x4 0x17, x4 0x90, x4 0x10 { thread with sys := false }, x4 0x90 { thread with sys := false }, on 15 (xs [(4, 0x16)] thread),
      on 15 (xs [(4, 6)] thread)], ok s (.syswr 4 0) = true) ∧
    ((x4 0x16).me.rx 4).toNat < 2 ^ 7 ∧ ((x4 0x16).me.rx 4).toNat % 8 ≠ 7 ∧ ((x4 0x16).me.rx 4).getLsbD 3 = (x4 0x16).me.vb ∧
    ((x4 0x1E).me.rx 4).getLsbD 3 ≠ (x4 0x1E).me.vb ∧ (0x10#64).getLsbD 5 = ((x4 0x10 { thread with sys := false }).thr 0 0).tm ∧
    (0x80#64).toNat ≥ 2 ^ 7 ∧ (0x90#64).getLsbD 4 = true ∧ 2 ^ 7 ≤ (0x90#64).toNat ∧
    (0x17#64).toNat % 8 = 7 ∧ (6#64).getLsbD 4 = false ∧ (0x16#64).getLsbD 4 = true ∧ (on 15 thread).curSlot = 15 :=
  by and_intros <;> decide
theorem test_meets_ControlRegisterWrites : (s0.core 0).tcc = [] ∧ (0x7FFFFFFFFFC00#64).toNat < 2 ^ 51 ∧ (0x7FFFFFFFFFC00#64).toNat % 2 ^ 10 = 0 ∧ tccCtlOk 0 = true ∧
    ((s0.modCore 0 (fun x => { x with tcc := [(0, ⟨thread, 0⟩)] })).core 0).tcc ≠ [] ∧ 2 ^ 32 ≤ (0x100000000#64).toNat ∧ (0xFFFFFFFF#64).toNat < 2 ^ 32 ∧
    (0xFFFF#64).toNat < 2 ^ 16 ∧ (7#64).toNat / 2 ^ 3 % 2 ^ 13 = 0 ∧ (0x1C#64).toNat % 2 ^ 32 / 2 ^ 5 = 0 ∧ (0x1C#64).toNat % 4 = 0 := by decide +kernel

/-! ## Ordering, and moving between cores -/

theorem test_meets_Fences : (∀ i ∈ ([.fence 0, .fence 1, .vfence] : List Instr), Issues i s0) ∧
    blocked (.fence 2) s0 = false ∧ (Instr.fence 4).wf = true ∧ s0.me.tm = false ∧ (s0.vf 0).scopepol.getLsbD 2 = false ∧ (s0.vf 0).scopepol.getLsbD 4 = false ∧
    ok (s0.putVf 0 { scopepol := 0x10 }) (.fence 4) = true ∧
    (let s := fun (slot : Nat) => { s0.putVf 0 { scopepol := 0x10 } with posted := [⟨0, slot, 2 ^ 45, 8, 7, {}⟩] }
     held (.fence 4) (s 0) = true ∧ held (.fence 4) (s 3) = false ∧ earlyCheck (.fence 4) (s 3) = none) ∧
    held (.fence 1) (flying (.ld 3 9 0 0 6 0) o0 (.done {})) = false ∧ earlyCheck (.fence 1) (flying (.ld 3 9 0 0 6 0) o0 (.done {})) = none ∧
    ok (on 0 { thread with streams := thread.streams.set 3 { configured := true, mark := some (cSEGLIM, 9) } }) .vfence = true ∧
    (∀ m, m < 3 → ((thread.streams.set 3 { configured := true, mark := some (cSEGLIM, 9) })[m]?.getD {}).mark = none) ∧
    (∀ n, n < 8 → (s0.me.stream n).mark = none ∧ (s0.me.stream n).indexed = false) ∧ s0.me.passed = none ∧
    (on 0 { thread with passed := some (.fence 2) }).me.passed = some (.fence 2) ∧ checksScope (.fence 2) = true ∧ held (.fence 1) (flying (.ld 3 9 0 0 6 0) o0 .flight) = true ∧ (Instr.fence 1).isStep = false :=
  ⟨issues_all (by decide), by and_intros <;> decide⟩
/-- Core 2,047 and one beyond it; home; a configured stream; the lease. -/
theorem test_meets_MigrationAndArrival_leaves : (ok (x4 2047) (.migrate 4) && ok (x4 2048) (.migrate 4) && ok s0 (.migrate 0)) = true ∧
    ((x4 2047).me.rx 4).toNat < 2048 ∧ (x4 2047).owner 2047 = (x4 2047).owner 0 ∧ (x4 2047).me.firstStream = none ∧ (x4 2047).holdsLease 0 0 = false ∧ s0.me.home = 0 ∧
    ok (x4 5 { thread with streams := thread.streams.set 7 { configured := true } }) (.migrate 4) = true ∧
    (x4 5 { thread with streams := thread.streams.set 7 { configured := true } }).me.firstStream = some 7 ∧
    ok ((x4 5).putCluster 0 { lease := some { num := 1, core := 0, slot := 0, vf := 0, n := 1 } }) (.migrate 4) = true ∧
    ((x4 5).putCluster 0 { lease := some { num := 1, core := 0, slot := 0, vf := 0, n := 1 } }).holdsLease 0 0 = true :=
  by and_intros <;> decide
/-- A packet from core 0 to core 1 of its cluster; the guest slots of core 1 taken, and `n` threads queued. -/
def arriving (n : Nat) (full : Bool) : State :=
  let busy : Thread := { st := .run }
  { s0.modCore 1 (fun x => { (if full then (((x.putSlot 11 busy).putSlot 12 busy).putSlot 13 busy).putSlot 14 busy else x) with
      arrivals := List.replicate n ⟨busy, 0, 3⟩ }) with packets := [⟨0, 0, 1⟩] }
theorem test_meets_MigrationAndArrival_arrives : (arriving 0 false).packets[0]? = some ⟨0, 0, 1⟩ ∧ clusterOf 0 = clusterOf 1 ∧ (arriving 0 false).coreOut 1 = false ∧
    (arriving 0 false).quadDown 1 = false ∧ (arriving 0 false).owner 1 = (arriving 0 false).owner 0 ∧
    (let s := { (s0.putThr 0 0 thread) with packets := [⟨0, 0, 4⟩], quads := [(1, 1)] }
     s.owner 4 ≠ s.owner 0 ∧ s.packets[0]? = some ⟨0, 0, 4⟩ ∧ clusterOf 0 = clusterOf 4 ∧ s.coreOut 4 = false ∧ s.quadDown 4 = false) ∧
    (1 : Nat) ≠ ((arriving 0 false).thr 0 0).home ∧ ((arriving 0 false).core 1).arrivals = [] ∧ ((arriving 0 false).core 1).freeGuest = some 11 ∧
    ((arriving 7 true).core 1).freeGuest = none ∧ ((arriving 7 true).core 1).arrivals.length < 8 ∧ ((arriving 8 true).core 1).arrivals.length = 8 ∧
    ((arriving 8 true).core 1).freeGuest = none ∧ ((arriving 1 false).core 1).arrivals = [⟨{ st := .run }, 0, 3⟩] ∧ ((arriving 1 false).core 1).freeGuest = some 11 ∧
    (arriving 0 false).cycle % 256 = 0 := by decide

/-! ## Streams and vectors -/

/-- A read stream of eight FP32 elements at the start of the scratchpad. -/
def words (count mode : Word32) (hi : Word32 := 0x20000000) : Params := ⟨0, hi, count, mode⟩
def rd (n : Nat) : Stream := { configured := true, base := 0x2000000000000000, ta := 2 ^ 51, count := n, stride := 4 }
def wr (n : Nat) : Stream := { rd n with mode := 0x1000 }
theorem test_meets_StreamConfiguration :
    (let st := scfgStream s0.me 0 0 (words 8 0)
     Issues (.scfg 0 0 0 0 (words 8 0)) s0 ∧ modeOk 0 = true ∧ st.illop s0.me = false ∧ (s0.me.stream 0).configured = false ∧
     streamCheck s0 0 s0.me st.base st.extent.1 st.extent.2 (st.dir == 1) st.odd = .ok (2 ^ 51)) ∧
    Issues (.scfg 0 0 0 0 (words 8 0x4000)) s0 ∧ modeOk 0x4000 = false ∧
    (∀ m ∈ ([none, some (cSEGLIM, 9)] : List (Option Trap)), (fun m => ok (on 0 { thread with streams := thread.streams.set 0 { rd 1 with mark := m } })
      (.scfg 0 0 0 0 (words 8 0))) m = true) ∧
    (let st := scfgStream s0.me 0 0 (words 8 0 0xE0000000)
     Issues (.scfg 0 0 0 0 (words 8 0 0xE0000000)) s0 ∧
     streamCheck s0 0 s0.me st.base st.extent.1 st.extent.2 (st.dir == 1) st.odd = .error (cSEGRIGHT, 0xE000000000000000)) :=
  ⟨⟨issues_of (by decide), by decide, by decide, by decide, ok_of (by decide)⟩, issues_of (by decide), by decide, List.all_eq_true.mp (by decide), issues_of (by decide), err_of (by decide)⟩
/-- x4 names stream 1, an index stream of four INT32 elements. -/
def ixState : State := x4 1 { thread with streams := thread.streams.set 1 { rd 4 with mode := 0xB } }
theorem test_meets_IndexedStreamsAndRelease :
    (let st : Stream := { configured := true, mode := 0, base := 0x2000000000000000, count := 4, stride := 5, indexed := true, link := 1 }
     ok ixState (.scfg2 0 4 2 0 (words 4 0)) = true ∧ modeOk 0 = true ∧ st.illop ixState.me = false ∧ (ixState.me.rx 4).toNat < 8 ∧
     (ixState.me.stream 0).configured = false ∧ (ixState.me.stream 1).configured = true ∧ (ixState.me.stream 1).dir = 0 ∧ (ixState.me.stream 1).isIndex = false ∧
     9 ≤ (ixState.me.stream 1).fmt ∧ (ixState.me.stream 1).fmt ≤ 12 ∧ st.count ≤ (ixState.me.stream 1).remaining ∧
     toOpt (streamCheck ixState 0 ixState.me st.base 0 (4 - 1) (st.dir == 1) (st.base.toNat % 4 != 0)) = some (2 ^ 51)) ∧
    ok ixState (.srel 1 0 ⟨0, 0, 0, 0⟩) = true ∧ (ixState.me.stream 1).mark = none ∧ (ixState.me.stream 1).indexed = false ∧ ok ixState (.srel 7 0 ⟨0, 0, 0, 0⟩) = true ∧
    ok (on 0 { thread with streams := thread.streams.set 0 { rd 1 with mark := some (cSEGLIM, 9) } }) (.srel 0 0 ⟨0, 0, 0, 0⟩) = true ∧
    ok (on 0 { thread with streams := (thread.streams.set 0 { rd 1 with indexed := true, link := 1 }).set 1 { rd 4 with isIndex := true } }) (.srel 0 0 ⟨0, 0, 0, 0⟩) = true ∧
    Offered (.srel 1 0 ⟨0, 0, 0, 0⟩) (on 0 { thread with streams := thread.streams.set 1 { rd 4 with isIndex := true } }) ∧
    ({ rd 4 with isIndex := true }.configured = true ∧ { rd 4 with isIndex := true }.indexed = false ∧ (1 : Nat) ≠ 0) := by
  refine ⟨by and_intros <;> decide, by decide, by decide, by decide, by decide, by decide, by decide, offered_of (by decide), by decide⟩
theorem test_meets_StreamElementsMove :
    (let s := on 0 { thread with streams := (thread.streams.set 0 (rd 2)).set 2 { wr 2 with produced := [(0, 5, none)] } }
     let t := s.thr 0 0
     let shut := s.modBank 0 0 (fun k => { k with locked := some r1 })
     s.elemShut 0 t (t.stream 0) 0 none = false ∧ shut.elemShut 0 t (t.stream 0) 0 none = true ∧ s.elemShut 0 t (t.stream 2) 0 none = false ∧
     (shut.thr 0 0 = t ∧ shut.elemShut 0 t (t.stream 2) 0 none = true) ∧
     (let u := { wr 2 with produced := [(0, 5, none), (1, 6, none)] }
      u.produced.find? (fun q => q.1 == 1) = some (1, 6, none) ∧ earlierProduced s 0 t u 1 = true ∧ u.produced.find? (fun q => q.1 == 2) = none) ∧
     (t.stream 0).indexed = false ∧ (t.stream 0).canFetch 0 = true ∧ (t.stream 0).canFetch 1 = true ∧ (t.stream 0).canFetch 2 = false ∧
     (t.stream 2).produced.find? (fun q => q.1 == 0) = some (0, 5, none) ∧ earlierProduced s 0 t (t.stream 2) 0 = false ∧
     toOpt (elemTa s 0 t (t.stream 2) 0 none) = some (2 ^ 51, 0x2000000000000000) ∧ s.elemPlace 0 (2 ^ 51) (t.stream 2).fmt = some (0, 0) ∧ (t.stream 2).fmt ≠ 7) ∧
    (let s := on 0 { thread with streams := thread.streams.set 2 { wr 2 with indexed := true, produced := [(0, 5, some 0xE000000000000000)] } }
     let t := s.thr 0 0
     earlierProduced s 0 t (t.stream 2) 0 = false ∧ toErr (elemTa s 0 t (t.stream 2) 0 (some 0xE000000000000000)) = some (cSEGRIGHT, 0xE000000000000000)) := by decide
/-- Streams 0, 1 and 3 read, 2 written; x12 names stream 3. -/
def vecs (n : Nat) : State := on 0 { xs [(12, 3)] thread with streams := (((thread.streams.set 0 (rd n)).set 1 (rd n)).set 2 (wr n)).set 3 (rd n) }
def vlist : List (Instr × Word × Word) := [(.vadd 2 0 1 0 0, 0, 0), (.vsub 2 0 1 0 0, 0, 0), (.vmul 2 0 1 0 0, 0, 0), (.vmin 2 0 1 0 0, 0, 0), (.vmax 2 0 1 0 0, 0, 0),
  (.vfma 2 0 1 0 0, 0, 0), (.vabs 2 0 0, 0, 0), (.vneg 2 0 0, 0, 0), (.vcvt 2 0 0, 0, 0), (.vsel 2 0 1 12, 3, 0), (.vcmp 2 0 1 0 0 0, 0, 0), (.vred 2 0 0 0, 0, 0),
  (.vscan 2 0 0 0, 0, 0), (.vdot 2 0 1 0 0, 0, 0), (.vexp 2 0, 0, 0), (.vlog 2 0, 0, 0), (.vrcp 2 0, 0, 0), (.vrsq 2 0, 0, 0), (.vtanh 2 0, 0, 0), (.vsigm 2 0, 0, 0)]
/-- 768 elements and 769; a destination that is none. -/
theorem test_meets_VectorInstructionsIssue : (∀ q ∈ vlist, ∀ n ∈ [768, 769],
      (ok (vecs n) q.1 && vLimits q.1 q.2.1 && (vBadStream (vecs n).me 2 (vSources q.1 q.2.1)).isNone &&
        (vSources q.1 q.2.1).all (fun n => ((vecs 768).me.stream n).mark.isNone)) = true) ∧
    (vecs 768).me.fcsr.toNat / 2 ^ 5 % 8 < 4 ∧ vBadStream s0.me 2 [0, 1] = some 0 ∧ Issues (.vadd 2 0 1 0 0) s0 ∧
    (let s := on 0 { (vecs 8).me with streams := (vecs 8).me.streams.set 1 { rd 8 with mark := some (cSEGLIM, 9) } }
     Issues (.vadd 2 0 1 0 0) s ∧ ([0, 1, 2].find? (fun n => (s.me.stream n).mark.isSome)) = some 1 ∧ (s.me.stream 1).mark = some (cSEGLIM, 9)) := by
  refine ⟨by decide, by decide, by decide, issues_of (by decide), issues_of (by decide), by decide, by decide⟩
theorem test_meets_VectorResults : (1#64).getLsbD 0 = true ∧ (0#64).getLsbD 0 = false ∧ ([[1], [2]] : List (List Word32)) ≠ [] ∧ (2#2) ≠ 3 ∧
    vReduces (.vadd 0 0 1 0 0) = false ∧ vScans (.vadd 0 0 1 0 0) = false ∧ (1 : Nat) < ([[1], [2]] : List (List Word32)).length := by decide

/-! ## The array -/

def lease1 (n issued : Nat) : Lease := { num := 1, core := 0, slot := 0, vf := 0, n := n, issued := issued }
/-- The thread of s0 holds a lease of two commands, of which `n` have been issued. -/
def leased (n : Nat) (t : Thread := thread) : State := (on 0 t).putCluster 0 { lease := some (lease1 2 n) }
theorem test_meets_Leases : (∀ i ∈ ([.mlease 0 ⟨0, 0, 0, 0⟩, .mlease 0 ⟨1, 0, 0, 0⟩, .mlease 0 ⟨64, 0, 0, 0⟩, .mlease 0 ⟨65, 0, 0, 0⟩, .mfree ⟨0, 0, 0, 0⟩,
      .mwait ⟨0, 0, 0, 0⟩] : List Instr), Issues i s0 ∧ Issues i (leased 0)) ∧ (leased 0).holdsLease 0 0 = true ∧ s0.holdsLease 0 0 = false ∧
    (let s := (flying (.mlease 0 ⟨2, 0, 0, 0⟩) {} .asleep).putCluster 0 { leaseQ := [⟨r1, 0, 2⟩] }
     (s.cluster 0).lease = none ∧ (s.cluster 0).leaseQ = [⟨r1, 0, 2⟩] ∧ s.pending r1 = some (p1 (.mlease 0 ⟨2, 0, 0, 0⟩) {} .asleep)) ∧
    ((leased 0).cluster 0).lease = some (lease1 2 0) ∧ { leased 0 with ungated := 65535 }.ungated < (lease1 2 0).at_ + 65536 ∧
    (lease1 2 0).at_ + 65536 ≤ { leased 0 with ungated := 65536 }.ungated :=
  ⟨fun i hi => ⟨issues_all (by decide) i hi, issues_all (by decide) i hi⟩, by and_intros <;> decide⟩
/-- Streams 0 and 1 for the array (DIR 2), INT8 and a bit stream of metadata; stream 2 written; x13 names both. -/
def arr : Thread := { xs [(13, 0x10)] thread with
  streams := ((thread.streams.set 0 { rd 1000 with mode := 0x2009 }).set 1 { rd 1000 with mode := 0x200D }).set 2 (wr 480) }
/-- Commands within their limits, at the bounds 1 and 480 where they have one, and commands beyond a limit. -/
def counts : List Instr := [.mzero 0 1 0 ⟨0, 0, 0, 0⟩, .mprog 0 ⟨0xF, 0xF, 0xF, 0xF⟩, .mcb 9 0 ⟨1, 0, 0, 0⟩, .mloadb 9 0 0 ⟨0, 1, 9, 0⟩, .mma 0 0 0 0 0 ⟨1, 1, 9, 0⟩,
  .mma 3 0 0 0 0 ⟨480, 2, 9, 0⟩, .mmas 0 13 0 0 0 ⟨1, 1, 9, 1⟩, .mrec 0 0 0 0 ⟨1, 1, 9, 0⟩, .mocmp 0 0 1 0 ⟨480, 480, 0, 0⟩, .mocmp 0 0 0 0 ⟨1, 1, 0, 0⟩,
  .mepi 0 9 0 0 ⟨1, 1920, 2, 0⟩, .btand 0 1 2 0, .btor 0 1 2 0, .btxor 0 1 2 0, .btnot 0 1 0, .bttrn 0 1 0, .btcomp 0 1 2 0, .btclo 0 1 0 0, .btld 0 9 0, .btst 0 9 0,
  .btrc 2 0 1 0]
def beyond : List Instr := [.mprog 0 ⟨0xFFFFFFFF, 0, 0, 0⟩, .mcb 9 0 ⟨2, 0, 0, 0⟩, .mloadb 9 0 0 ⟨0, 0, 9, 0⟩, .mma 0 0 0 0 0 ⟨481, 1, 9, 0⟩, .mmas 0 13 0 0 0 ⟨0, 1, 9, 1⟩,
  .mrec 0 0 0 0 ⟨1, 0, 9, 0⟩, .mocmp 0 0 1 0 ⟨1, 481, 0, 0⟩, .mepi 0 9 0 0 ⟨481, 1920, 2, 0⟩, .btrc 2 0 0 0]
theorem test_meets_CountedCommandsIssue_limits : (∀ i ∈ counts, Issues i (leased 1 arr) ∧ Issues i (leased 2 arr)) ∧ (∀ i ∈ beyond, Issues i (leased 1 arr)) ∧
    (leased 1 arr).leaseFail = none ∧ (leased 2 arr).leaseFail ≠ none ∧ progOk [0xF, 0xF, 0xF, 0xF] = true ∧ progOk [0xFFFFFFFF, 0, 0, 0] = false ∧
    (pairGroup 9 9).isSome = true ∧ (pairGroup 13 9).isSome = false ∧ elemBits 2 = 32 ∧ readsMemory (.btld 0 9 0) = true ∧ readsMemory (.btst 0 9 0) = false :=
  ⟨fun i hi => ⟨issues_all (by decide) i hi, issues_all (by decide) i hi⟩, issues_all (by decide), by and_intros <;> decide⟩
/-- MLOADB with three commands in the queue and four, and as the last command of its lease. -/
theorem test_meets_CountedCommandsIssue_room :
    (let i := Instr.mloadb 9 0 0 ⟨0, 1, 9, 0⟩
     let c : Cmd := { lease := 1, ref := r1, ins := i, ops := {}, seq := 1, vf := 0, tag := {} }
     let s := fun (n m : Nat) => (on 0 arr).putCluster 0 { lease := some (lease1 m 0), cmds := List.replicate n c }
     (ok (s 3 2) i && ok (s 4 2) i && ok (s 0 1) i) = true ∧ ((s 3 2).cluster 0).cmds.length < 4 ∧ 4 ≤ ((s 4 2).cluster 0).cmds.length ∧
     (s 4 2).leaseFail = none ∧ (lease1 2 0).completed + 1 ≠ (lease1 2 0).n ∧ (lease1 1 0).completed + 1 = (lease1 1 0).n) := by decide
theorem test_meets_CountedCommandsIssue_extents :
    (let s := leased 1 arr
     let rdx := fun (n : Nat) => s.extentTa s.me { ea := 0x2000000000000000, n := n, align := 8, sort := .record, r := true } false
     toOpt (rdx 32) = some (2 ^ 51) ∧ toOpt (rdx (60 * elemBits 9)) = some (2 ^ 51) ∧ toOpt (rdx 28800) = some (2 ^ 51) ∧
     toOpt (s.extentTa s.me { ea := 0x2000000000000000, n := 28800, align := 8, sort := .record, w := true } false) = some (2 ^ 51) ∧
     toOpt (s.extentTa s.me { ea := 0x2000000000000000, n := epiBytes 2 1920 1, align := 4, sort := .rawRecord, w := true } true) = some (2 ^ 51) ∧
     anvilFail 0 1 9 = none ∧ dir2Fail s.me 0 (480 * 2) = none ∧ dir2Fail s.me 1 480 = none ∧ (s.me.stream 1).fmt = 13 ∧
     (s.me.stream 2).dir = 1 ∧ (s.me.stream 2).fmt = 0 ∧ 480 + s.me.promised 2 ≤ (s.me.stream 2).remaining) := by decide
/-- Rows, elements and words that the clauses name; an FP8 and an FP16 of each kind, blocks of MXFP4. -/
theorem test_meets_TileAndMatrixResults_values :
    (479 : Nat) < 480 ∧ (accRow (lease1 1 0 |>.accAt 0) 0)[0]? = some 0 ∧
    (∀ q ∈ ([(3, 8, 7, 0x3F80), (4, 5, 10, 0x3C00), (5, 4, 3, 0x7E), (6, 5, 2, 0x3C)] : List (Nat × Nat × Nat × Nat)),
      (q.2.2.2 < 2 ^ (1 + q.2.1 + q.2.2.1) ∧ (q.2.2.2 / 2 ^ q.2.2.1 % 2 ^ q.2.1 ≠ 2 ^ q.2.1 - 1 ∨ q.1 = 5 ∧ q.2.2.2 % 128 ≠ 127))) ∧
    ([val32 0x7FC00000, val32 0] : List FV).any (·.isNaN) = true ∧ val32 0x7F800000 = .inf false ∧ (match val32 0x3F800000 with | .num _ _ _ => true | _ => false) = true ∧
    (0x7F800000 < (0x7FC00000#32).toNat % 2 ^ 31) ∧ ¬(0x7F800000 < (0x3F800000#32).toNat % 2 ^ 31) ∧
    (2 ^ 24 ≤ (0x3F800000#32).toNat % 2 ^ 31) ∧ ([[0, 1]] : List (List Word32))[0]? = some [0, 1] := by
  and_intros <;> decide
/-- A command whose operands have been read, at the head of the queue: A and B of one element, metadata of one bit and of none. -/
def ran (i : Instr) (o : Operands) (av bv : List Nat) : State :=
  let c : Cmd := { lease := 1, ref := r1, ins := i, ops := o, seq := 1, vf := 0, tag := {}
                   av := av.zipIdx.map (fun x => (x.2, .ok x.1 0)), bv := bv.zipIdx.map (fun x => (x.2, .ok x.1 0)), consumed := true }
  (flying i o .queued).putCluster 0 { lease := some (lease1 3 1), cmds := [c], bands := [(0, 0)] }
theorem test_meets_TileAndMatrixResults_commands : (∀ q ∈ ([(.mma 0 0 0 0 0 ⟨1, 1, 9, 0⟩, { n := 9 }, [5], []), (.mmas 3 13 0 0 0 ⟨1, 1, 9, 1⟩, { n := 9 }, [1], [5]),
      (.mmas 0 13 0 0 0 ⟨1, 1, 9, 2⟩, { n := 9 }, [1], [5]), (.mrec 0 0 0 0 ⟨1, 1, 9, 0⟩, { n := 9 }, [5], []), (.mocmp 7 0 1 0 ⟨1, 1, 0, 0⟩, {}, [0x7FC00000], [0]),
      (.mocmp 0 0 0 0 ⟨1, 1, 8, 0⟩, {}, [5], []), (.mepi 0 9 0 0 ⟨1, 1920, 2, 0⟩, {}, [], []), (.mepi 3 9 3 0 ⟨1, 1920, 2, 0⟩, {}, [], [])] :
      List (Instr × Operands × List Nat × List Nat)),
    (fun q : Instr × Operands × List Nat × List Nat =>
      let s := ran q.1 q.2.1 q.2.2.1 q.2.2.2
      !s.gated && (s.cluster 0).xfers.isEmpty && !(s.cluster 0).engineReset && s.pending r1 == some (p1 q.1 q.2.1 .queued) &&
      (s.cluster 0).lease == some (lease1 3 1) && (s.cluster 0).cmds.all (fun c => c.consumed && (readFault c.av).isNone && (readFault c.bv).isNone) &&
      (s.bFault 0 0 0 1 9).isNone) q = true) ∧ (lease1 3 1).completed + 1 < (lease1 3 1).n ∧ (lease1 3 1).orphan = false := by
  refine ⟨List.all_eq_true.mp (by decide +kernel), by decide, by decide⟩
/-- A command at the head of the queue of a lease of three commands, and a transfer that has nothing left to do. -/
def atHead (i : Instr) (poison : Bool) : State :=
  let c : Cmd := { lease := 1, ref := r1, ins := i, ops := {}, seq := 1, vf := 0, tag := {} }
  ((flying i {} .queued).putCluster 0 { lease := some (lease1 3 1), cmds := [c] }).modCore 0 (fun x => { x with tiles := x.tiles.set 1 { poison := poison } })
def xf (i : Instr) (moved : List Nat) : Xfer := { id := 5, lease := 1, ins := i, ops := {}, core := 0, slot := 0, vf := 0, tag := {}, seq := 1, moved := moved }
/-- The bias of an MEPI at the start of the scratchpad, at an odd word, beyond its end, and in a locked bank; none of it read, and all
but its last doubleword. -/
theorem test_meets_TileAndMatrixResults_bias :
    (let x := fun (ta : Word) (got : Assoc Word) =>
       { xf (.mepi 0 9 3 0 ⟨1, 1920, 2, 0⟩) [] with ops := { c := ta, b := 0x2000000000000000 }, rows := [[0]], bias := some got }
     let s := fun (x : Xfer) => s0.putCluster 0 { xfers := [x] }
     let shut := (s (x 0x8000000000000 [])).modBank 0 0 (fun k => { k with locked := some r1 })
     ((s (x 0x8000000000000 [])).cluster 0).xfers = [x 0x8000000000000 []] ∧ (0 : Nat) < (x 0x8000000000000 []).biasDws ∧
     (x 0x8000000000000 []).biasDws = 240 ∧ (x 0x8000000000004 []).biasDws = 241 ∧ alook ([] : Assoc Word) 0 = none ∧
     toOpt ((s (x 0x8000000000000 [])).biasDw (x 0x8000000000000 []) 0) = some 0 ∧
     toErr (shut.biasDw (x 0x8000000000000 []) 0) = some none ∧
     toErr ((s (x 0x8000100000000 [])).biasDw (x 0x8000100000000 []) 0) = some (some (cBADWIN, 0x2000000000000000)) ∧
     (aset ([] : Assoc Word) 0 0).length < (x 0x8000000000000 []).biasDws ∧ (x 0x8000000000000 []).biasDws ≤ (List.replicate 239 0 ++ [0]).length ∧
     (479 : Nat) < 480 ∧ alook ([(0, 5)] : Assoc Word) ((0x8000000000000#64).toNat % 8 + 4 * 1) = none ∧
     alook ([(0, 5)] : Assoc Word) (((0x8000000000000#64).toNat % 8 + 4 * 1) / 8) = some 5 ∧ ((x 0x8000000000000 []).biasWords [(0, 5)])[1]? = some 0) := by
  and_intros <;> decide +kernel
theorem test_meets_ArrayCommandsExecute_commands : ∀ i ∈ ([.mzero 0 1 0 ⟨0, 0, 0, 0⟩, .mprog 0 ⟨0xF, 0xF, 0xF, 0xF⟩, .btand 0 1 2 0, .btor 0 1 2 0, .btxor 0 1 2 0,
      .btnot 0 1 0, .bttrn 0 1 0, .btcomp 7 1 2 0] : List Instr),
    ((atHead i false).cluster 0).lease = some (lease1 3 1) ∧ ((atHead i false).cluster 0).cmds.length = 1 ∧ ((atHead i false).cluster 0).xfers = [] ∧
    ((atHead i false).cluster 0).engineReset = false ∧ (atHead i false).pending r1 = some (p1 i {} .queued) ∧ (lease1 3 1).completed + 1 < (lease1 3 1).n ∧
    (((atHead i false).core 0).tile 1).poison = false ∧ (((atHead i false).core 0).tile 2).poison = false ∧ (((atHead i true).core 0).tile 1).poison = true := by decide
theorem test_meets_ArrayCommandsExecute_transfers :
    (let s := s0.putCluster 0 { xfers := [xf (.mepi 0 9 0 0 ⟨1, 1920, 2, 0⟩) []] }
     s.gated = false ∧ { s with gates := [1] }.gated = true ∧ s.quadDown 0 = false ∧ s.xfer 0 5 = some (xf (.mepi 0 9 0 0 ⟨1, 1920, 2, 0⟩) []) ∧
     (xf (.mepi 0 9 0 0 ⟨1, 1920, 2, 0⟩) []).bias = none ∧ (s.core 0).inbox.length < 1024 ∧ (s.core 0).hwHeld = [] ∧ (s.core 0).dqWaiters = []) ∧
    (∀ n, n < (loadMoves ⟨0, 1, 13, 0⟩).1 + (loadMoves ⟨0, 1, 13, 0⟩).2 → n ∈ List.range 60) ∧
    (atHead (.btnot 0 1 0) false).gated = false ∧ (lease1 3 1).orphan = false ∧
    (let i := Instr.mma 0 0 0 0 0 ⟨1, 1, 9, 0⟩
     let c : Cmd := { lease := 1, ref := r1, ins := i, ops := {}, seq := 1, vf := 0, tag := {} }
     (flying i {} .queued).readCmd c ≠ none ∧ c.consumed = false ∧ c.reads ≠ [] ∧ (flying i {} .queued).pending r1 = some (p1 i {} .queued)) := by decide

/-! ## Banks and messages -/

def store1 (kind : Nat) (seq bins : List Entry) : Store := { kind := kind, cap := 2, seq := seq, bins := bins }
theorem test_meets_BanksAndPersonalities_operations :
    (store1 1 [] []).kind = 1 ∧ (store1 1 [] []).seq = [] ∧ (store1 1 [⟨5, false⟩] []).seq = ⟨5, false⟩ :: [] ∧ (store1 2 [⟨5, false⟩] []).kind = 2 ∧
    (store1 2 [⟨5, false⟩] []).seq = [] ++ [⟨5, false⟩] ∧ (store1 1 [⟨5, false⟩] []).seq.length < 2 ∧ 2 ≤ (store1 1 [⟨5, false⟩, ⟨6, false⟩] []).seq.length ∧
    (store1 5 [] [⟨5, false⟩, ⟨6, false⟩]).kind = 5 ∧ (store1 5 [] [⟨5, false⟩, ⟨6, false⟩]).bins[1]? = some ⟨6, false⟩ ∧
    (store1 5 [] [⟨5, false⟩, ⟨6, false⟩]).bins[2]? = none := by decide
/-- Two members of room for one entry: empty, one taken, full; keys of home member 0. -/
theorem test_meets_BanksAndPersonalities_members :
    (let e : Entry := ⟨5, false⟩
     let st := fun (kind : Nat) (ps : List (List (Nat × Entry))) => ({ kind := kind, cap := 2, parts := ps.map (fun l => (1, l)) } : Store)
     let total := fun (s : Store) => (s.parts.map (fun p => p.2.length)).sum
     let home := 0 * 0x9E37 % 2 ^ 16 % 2
     total (st 3 [[], []]) = 0 ∧ total (st 3 [[(0, e)], []]) = 1 ∧ (st 3 [[(0, e)], [(0, e)]]).cap ≤ total (st 3 [[(0, e)], [(0, e)]]) ∧
     (st 3 [[(0, e)], []]).parts[1]? = some (1, []) ∧ home = 0 ∧
     (List.range 2).all (fun i => (((st 4 [[(7, e)], []]).parts[(home + i) % 2]?).bind (fun p => alook p.2 0)).isNone) = true ∧
     (st 4 [[(7, e)], []]).parts[(home + 1) % 2]? = some (1, []) ∧ ((st 4 [[(7, e)], []]).parts[home]?).all (fun p => p.1 ≤ p.2.length) = true ∧
     ((st 4 [[(7, e)], [(0, e)]]).parts[(home + 1) % 2]?).map (fun p => alook p.2 0) = some (some e) ∧ total (st 4 [[(7, e)], []]) < 2) := by decide
theorem test_meets_BanksAndPersonalities_banks :
    (let s := (flying (.bankcfg 3 9 1 0 0) { b := 0x10001 } .queued).modBank 0 7 (fun k => { k with locked := some r1 })
     (s.bank 0 7).locked = some r1 ∧ (s.bank 0 7).held = [] ∧ s.pending r1 = some (p1 (.bankcfg 3 9 1 0 0) { b := 0x10001 } .queued)) ∧
    (s0.bank 0 0).locked = none ∧ { s0 with cycle := 63 }.cycle % 64 ≠ 0 ∧ (s0.bank 0 0).retriers = [] ∧
    (let s := ((flying (.ldff 3 9 0 0) o0 .retry).modBank 0 0 (fun k => { k with retriers := [r1] }))
     (s.bank 0 0).retriers = [r1] ∧ (s.trySleeper r1).isSome = true ∧ s.cycle % 64 = 0) := by decide
/-- The inbox of core 1, or of core 0, with `n` messages; the instruction is at its bank. -/
def post (i : Instr) (o : Operands) (c n : Nat) : State :=
  (flying i o .flight).modCore c (fun x => { x with inbox := List.replicate n (.ofWords 1 2 3 4) })
theorem test_meets_MessagesPass :
    (let o : Operands := { tgt := .raw 0 0, a := 1, stage := 1, got := [⟨1, false⟩] }
     ∀ n ∈ [0, 3], (post (.send 3 9 0) o 1 n).bankReady r1 (p1 (.send 3 9 0) o .flight) = true ∧ (post (.send 3 9 0) o 1 n).pending r1 = some (p1 (.send 3 9 0) o .flight) ∧
       o.a = BitVec.ofNat 64 (s0.pkg.toNat * 2048 + 1) ∧ (post (.send 3 9 0) o 1 n).owner 1 = 0 ∧ (post (.send 3 9 0) o 1 n).coreOut 1 = false ∧
       ((post (.send 3 9 0) o 1 n).core 1).dqWaiters = [] ∧ ((post (.send 3 9 0) o 1 n).core 1).inbox.length = n) ∧
    (∀ w ∈ ([0, 1] : List (BitVec 1)), (post (.dq 3 0 0 w) {} 0 0).bankReady r1 (p1 (.dq 3 0 0 w) {} .flight) = true ∧ ((post (.dq 3 0 0 w) {} 0 0).core 0).inbox = [] ∧
       ((post (.dq 3 0 0 w) {} 0 1).core 0).inbox = .ofWords 1 2 3 4 :: []) ∧
    (let s := s0.modCore 0 (fun x => { x with hwHeld := [.ofWords 1 2 3 4] })
     (s.core 0).hwHeld = .ofWords 1 2 3 4 :: [] ∧ (s.core 0).dqWaiters = [] ∧ (s.core 0).inbox.length < 1024 ∧ s.quadDown 0 = false ∧
     (s.putCluster 0 { resetting := [0] }).quadDown 0 = true ∧ ((s.putCluster 0 { resetting := [0] }).core 0).hwHeld = .ofWords 1 2 3 4 :: [] ∧ clusterOf 1 = clusterOf 0) := by decide
/-- A full inbox. -/
theorem test_meets_MessagesPass_full (m : Msg) : 1024 ≤ ((s0.modCore 0 (fun x => { x with inbox := List.replicate 1024 m })).core 0).inbox.length := by
  exact Nat.le_of_eq (by rw [State.modCore, State.core_putCore, if_pos rfl, List.length_replicate])

/-! ## Launches, gangs and scheduling -/

/-- Gangs of 1, 16 and 17 cores; a table with room and a full one; another slot. -/
theorem test_meets_LaunchRecorded : Issues (.launch 3 1 0 0 ⟨0x100, 1, 0x001, 0⟩) s0 ∧ Issues (.launch 3 1 0 0 ⟨0x100, 1, 0x010, 0⟩) s0 ∧
    Issues (.launch 3 1 0 0 ⟨0x100, 1, 0x011, 0⟩) s0 ∧ Issues (.launch 3 1 0 0 ⟨0x100, 1, 0x001, 0⟩) (on 3 thread) ∧ s0.curSlot = 0 ∧ s0.me.mig = false ∧ s0.me.rx 0 = 0 ∧
    (s0.die 0).freeEntry = some 0 := ⟨issues_of (by decide), issues_of (by decide), issues_of (by decide), issues_of (by decide), by and_intros <;> decide +kernel⟩
/-- A launch of core 0 in entry 0 of its die. -/
def launch0 : Launch := { handle := 1, vf := 0, segs := Vector.replicate 8 0, p := ⟨0x100, 1, 1, 0⟩, arg := 5, inbox := .core 0, level := 0, entered := 0, since := 0 }
/-- W3 names another tenant's launch, or this one's; a table that x10 names and one at no place; a trace object armed, too small, or none. -/
theorem test_meets_LaunchRecorded_forms :
    (let w3 := Instr.launch 3 1 0 0 ⟨0x100, 1, 1, 1⟩
     let traced := Instr.launch 3 1 0 0 ⟨0x100, 2, 0x1001, 0⟩
     let other := fun (vf : Nat) => s0.putDie 0 { launches := [(0, { launch0 with vf := vf })] }
     let armed := fun (cap : Nat) => { on 0 { thread with armed := some 1 } with traces := [(1, { vf := 0, cap := cap })] }
     let table := fun (ea : Word) => toOpt (s0.readTarget s0.me { ea := ea, n := 128, align := 16, sort := .record, r := true })
     ok (other 1) w3 = true ∧ (other 1).named 1 = .active 1 ∧ ok (other 0) w3 = true ∧ (other 0).named 1 = .active 0 ∧
     (ok (armed 4) traced && ok (armed 1) traced && ok s0 traced) = true ∧ ((0x1001 : Word32).getLsbD 12 = true) ∧ s0.me.armed = none ∧
     ok s0 (.launch 3 1 10 0 ⟨0x100, 1, 1, 0⟩) = true ∧ (table (s0.me.rx 10)).isSome = true ∧ table 0x41 = none) := by
  and_intros <;> decide
theorem test_meets_LaunchRecorded_full : (s0.putDie 0 { launches := (List.range 256).map (fun e => (e, launch0)) } |>.die 0).freeEntry = none := by decide +kernel
/-- Slots 1, 10 and 11; free and taken. -/
theorem test_meets_HelpersYieldAndWake :
    (∀ v ∈ ([0, 1, 10, 11] : List Word), (fun v => ok (x4 v) (.start 4 10) && ok (x4 v) (.reap 4)) v = true) ∧ (x4 10).curSlot = 0 ∧ ((x4 10).thr 0 10).st = .idle ∧
    ((x4 10).thr 0 10).held = false ∧ ((x4 1).putThr 0 1 thread |>.thr 0 1).st ≠ .idle ∧ ok ((x4 1).putThr 0 1 thread) (.start 4 10) = true ∧
    ok ((x4 1).putThr 0 1 thread) (.reap 4) = true ∧ ok (on 3 thread) (.reap 4) = true ∧ ok s0 .yield = true ∧
    ((on 0 { thread with yieldUntil := some 5 }).thr 0 0).yieldUntil = some 5 ∧ 5 ≤ { s0 with cycle := 5 }.cycle ∧ { s0 with cycle := 4 }.cycle < 5 ∧
    (x4 10).keptSlot 0 10 (x4 10).me.tag = false ∧ comes (on 3 thread) (.start 4 10) = true ∧ (on 3 thread).curSlot ≠ 0 ∧
    comes (on 0 { thread with mig := true }) (.start 4 10) = true :=
  ⟨List.all_eq_true.mp (by decide), by and_intros <;> decide⟩
/-- Slot 1 is Idle, and a member of the gang has been saved from it into the dispatcher's entry 0. -/
theorem test_meets_HelpersYieldAndWake_kept :
    (let g : Gang := { handle := 1, block := 0, quads := [0], saving := some ([(0, 1, 0)], 7) }
     let u : Thread := { thread with tag := ⟨1, 0⟩, member := true }
     let s := ((x4 1 { thread with tag := ⟨1, 0⟩ }).putCluster 0 { gangs := [g] }).modCore 0 (fun x =>
       { x with tcc := [(0, { th := u, slot := 1 })], tccCtl := 1 })
     (s.thr 0 1).st = .idle ∧ (s.thr 0 1).held = false ∧ s.keptSlot 0 1 s.me.tag = true ∧ (ok s (.start 4 10) && ok s (.reap 4)) = true) := by decide
/-- A gang of quad 0 whose barrier 2 has the count 2 and `here` arrivals; x4 gives the count. -/
def gang1 (count : Nat) (here : List Ref) : Gang := { handle := 1, block := 0, quads := [0], bars := if count = 0 then [] else [(2, ⟨count, here⟩)] }
def member : Thread := { thread with tag := ⟨1, 0⟩, member := true }
def ganged (v : Word) (count : Nat) (here : List Ref) : State := (x4 v member).putCluster 0 { gangs := [gang1 count here] }
theorem test_meets_ExitAndBarriers : (∀ s ∈ [s0, leased 0, ganged 2 0 []], ok s .exit = true) ∧ (ganged 2 0 []).me.member = true ∧ (ganged 2 0 []).me.homeSlot = 0 ∧
    (ganged 2 0 []).me.mig = false ∧ (leased 0).holdsLease 0 0 = true ∧ s0.me.tm = false ∧
    (s0.exitMay 0 0 = true ∧ (leased 0).exitMay 0 0 = true ∧ (ganged 2 0 []).exitMay 0 0 = true) ∧
    (let s := (ganged 2 0 []).putThr 0 3 member
     ok s .exit = true ∧ s.exitMay 0 0 = false ∧ (s.putCluster 0 { gangs := [gang1 0 []], lease := some (lease1 2 0) }).exitMay 0 0 = false) ∧
    (∀ s ∈ [ganged 2 0 [], ganged 1 0 [], ganged 2 2 [⟨1, 0, 1⟩], ganged 3 2 []], (ok s (.bar 4 2) && (s.gang 0 s.me.tag).isSome) = true) ∧
    (alook (gang1 2 []).bars 2).isSome = true ∧ ((2#64).toNat = 0 + 1 + 1) := by decide
/-- Counts 0, 64 and 65 of a gang of 64 threads; a thread of no gang, and one whose gang is gone. -/
theorem test_meets_ExitAndBarriers_refusals :
    ([0, 64, 65] : List Word).all (fun v => comes (ganged v 0 []) (.bar 4 2) && ((ganged v 0 []).gang 0 member.tag).isSome) = true ∧
    16 * (4 * (gang1 0 []).quads.length) = 64 ∧ comes s0 (.bar 4 2) = true ∧ s0.me.member = false ∧ comes (x4 2 member) (.bar 4 2) = true ∧
    ((x4 2 member).gang 0 member.tag).isNone = true := by
  and_intros <;> decide
/-- A record with its child's PC; the guest slots of core 1 free and taken. -/
theorem test_meets_SpawnStartsChild : comes (x4 0x10000) (.spawn 4 9 0) = true ∧ ((x4 0x10000).me.rx 4).toNat = 2 ^ 16 ∧ s0.badTarget (s0.me.rx 0) = false ∧ ok s0 (.spawn 0 9 0) = true ∧
    (let o : Operands := { tgt := .raw 0 0, a := 1, stage := 1, got := [⟨0x200, false⟩, ⟨1, false⟩, ⟨2, false⟩, ⟨3, false⟩], segs := thread.g.toList, c := 0x40 }
     o.segs.length = 8 ∧
     (flying (.spawn 0 9 0) o .flight).pending r1 = some (p1 (.spawn 0 9 0) o .flight) ∧ (flying (.spawn 0 9 0) o .flight).bankReady r1 (p1 (.spawn 0 9 0) o .flight) = true ∧
     (∀ e ∈ o.got, e.poison = false) ∧ o.a = BitVec.ofNat 64 (s0.pkg.toNat * 2048 + 1) ∧ s0.owner 1 = s0.owner 0 ∧ s0.coreOut 1 = false ∧ clusterOf 1 = clusterOf 0 ∧ (s0.core 1).freeGuest = some 11 ∧
     (flying (.spawn 0 9 0) o .flight (arriving 0 true)).bankReady r1 (p1 (.spawn 0 9 0) o .flight) = true ∧ ((arriving 0 true).core 1).freeGuest = none) := by decide
def launched (l : Launch) (ungated : Nat) : State := { s0.putDie 0 { launches := [(0, l)] } with ungated := ungated }
theorem test_meets_DispatchOfBlocks_start : (match (launched launch0 0).place 0 with | some (l, b, cl, qs) => l == launch0 && b == 0 && decide (cl < 8) && decide (qs.Nodup) | none => false) = true := by
  decide
/-- A launch that is due and has a cluster to start in, before one of a higher level that fits nowhere. -/
theorem test_meets_DispatchOfBlocks_order :
    (let wide : Launch := { launch0 with handle := 0x400001, level := 1, p := ⟨0x100, 1, 16, 0⟩ }
     let s := { s0 with dies := [(0, { launches := [(0, launch0), (1, wide)] })], quads := (List.range 8).map (fun n => (16 * n + 15, 1)) }
     launch0.waiting = some 0 ∧ s.depOf launch0 = .ready ∧ s.levelOpen 0 launch0 = true ∧ s.claimed 0 launch0.handle = none ∧
     (List.range 16).all (fun n => decide (16 * 0 + n = 15) || (s.freeQuads 0 0 1).contains n) = true ∧ s.reservedFor 0 1 = false ∧
     wide.waiting.isSome = true ∧ s.depOf wide = .ready ∧ s.levelOpen 0 wide = true ∧ s.placement 0 wide = none ∧
     (match s.place 0 with | some (l, b, cl, qs) => l == launch0 && b == 0 && cl == 0 && qs == [0] | none => false) = true ∧
     s.depOf { launch0 with p := ⟨0x100, 1, 1, 0x400001⟩ } = .wait) := by
  and_intros <;> decide +kernel
theorem test_meets_DispatchOfBlocks_rise : alook ((launched launch0 0).die 0).launches 0 = some launch0 ∧ (launched launch0 0).launchOf launch0.handle = some launch0 ∧
    (2 ^ 20 - 1 : Nat) < launch0.since + 2 ^ 20 ∧ launch0.since + 2 ^ 20 ≤ (launched launch0 (2 ^ 20)).ungated ∧ launch0.waiting.isSome = true ∧ launch0.level < 7 ∧
    { launch0 with level := 7 }.level = 7 ∧ launch0.reserve = none := by decide

/-- A gang of quad 0 with block 0 of launch0; `gone` of its cores have given up their parts. -/
def blocks (gone : List Nat) (l : Launch) : State := (launched l 0).putCluster 0 { gangs := [{ gang1 0 [] with gone := gone }] }
theorem test_meets_BlocksAndLaunchesComplete :
    (blocks [0, 1, 2, 3] launch0).gangIn (handleDie 1) ⟨1, 0⟩ = some (0, { gang1 0 [] with gone := [0, 1, 2, 3] }) ∧
    (blocks [0, 1, 2, 3] launch0).blockOver { gang1 0 [] with gone := [0, 1, 2, 3] } = true ∧
    (blocks [0, 1, 2] launch0).gangIn (handleDie 1) ⟨1, 0⟩ = some (0, { gang1 0 [] with gone := [0, 1, 2] }) ∧
    (blocks [0, 1, 2] launch0).blockOver { gang1 0 [] with gone := [0, 1, 2] } = false ∧
    (blocks [] launch0).launchOf 1 = some launch0 ∧
    (let l := { launch0 with next := 1, started := 1, done := 1 }
     alook ((launched l 0).die 0).launches 0 = some l ∧ l.inbox = .core 0 ∧ l.trace = none ∧ handleDie l.handle = 0 ∧ handleEntry l.handle = 0 ∧
     (launched l 0).launchEnds 0 l = some 0 ∧ (launched l 0).owner 0 = l.vf ∧ (launched { l with vf := 1 } 0).owner 0 ≠ 1 ∧ (launched { l with vf := 1 } 0).launchEnds 0 { l with vf := 1 } = some 0 ∧
     (launched l 0).quadDown 0 = false ∧ ((launched l 0).core 0).inbox.length < 1024 ∧ ((launched l 0).core 0).hwHeld = [] ∧
     ((launched l 0).core 0).dqWaiters = [] ∧ (launched { launch0 with next := 1, started := 1 } 0).launchEnds 0 { launch0 with next := 1, started := 1 } = none) := by
  and_intros <;> decide
/-- A gang of one member in every cluster of die 0, and a launch of 16 quads of a higher level that fits nowhere. -/
def high : Launch := { launch0 with handle := 0x400001, level := 1, p := ⟨0x100, 1, 16, 0⟩ }
def crowd : State :=
  let x : Core := { tccCtl := 2 }
  let core := x.putSlot 0 member
  let g := fun (n : Nat) => ({ handle := 1, block := BitVec.ofNat 32 n, quads := (List.range 16).map (fun i => 16 * n + i) } : Gang)
  { s0 with cores := (List.range 64).map (fun n => (n, if n = 0 then core else x)), dies := [(0, { launches := [(0, { launch0 with started := 8 , next := 1 }), (1, high)] })]
            clusters := (List.range 8).map (fun n => (n, { gangs := [g n] })) }
theorem test_meets_PreemptionAndRestore_save : (crowd.strayed 0 = none ∧ crowd.joined 0 = none ∧ crowd.emptied 0 = none) ∧ crowd.headLaunch 0 = some high ∧
    crowd.victimFor 0 high = some (0, { handle := 1, block := 0, quads := List.range 16 }) ∧
    crowd.memberEntries { handle := 1, block := 0, quads := List.range 16 } = [(0, 0, 0)] ∧ (crowd.thr 0 0).held = false ∧
    (s0.strayed 0 = none ∧ s0.joined 0 = none ∧ s0.emptied 0 = none) ∧ s0.headLaunch 0 = none := by
  and_intros <;> decide +kernel
/-- The candidate of that crowd as R251 lists it. -/
theorem test_meets_PreemptionAndRestore_candidate :
    (let g : Gang := { handle := 1, block := 0, quads := List.range 16 }
     g ∈ (crowd.cluster 0).gangs ∧ (crowd.launchOf g.handle).map (fun y => (y.vf, y.level)) = some (high.vf, 0) ∧ 0 < high.level ∧
     g.banks &&& BitVec.ofNat 13 (high.p.w2.toNat / 2 ^ 16) = 0 ∧ 16 ≤ g.quads.length + (crowd.freeQuads 0 high.vf high.handle).length ∧
     crowd.reservedFor 0 high.handle = false ∧
     g.cores.all (fun n => decide (0 < tccCount (crowd.core n).tccCtl) && decide (((crowd.core n).membersOf g).length ≤ (crowd.core n).freeEntries.length)) = true) := by
  and_intros <;> decide +kernel
/-- A gang that is out, its member saved from slot 3 of core 1. -/
def outGang (restoring : Bool) (frozen busy : Bool) : State :=
  ({ (s0.putThr 1 3 { st := if frozen || busy then .run else .idle, frozen := frozen }) with ungated := 65536 }).putCluster 0
    { gangs := [{ gang1 0 [] with out := some ([(1, 3, 0)], 0), restoring := if restoring then some [(1, 3, 0)] else none }] }
theorem test_meets_PreemptionAndRestore_restore :
    (let g := { gang1 0 [] with out := some ([(1, 3, 0)], 0) }
     (outGang false false false).victim 0 = some (0, g) ∧ (outGang false false false).mayRestore 0 g [(1, 3, 0)] = true ∧
     (outGang false false true).victim 0 = some (0, g) ∧ (outGang false false true).mayRestore 0 g [(1, 3, 0)] = false ∧
     0 + 65536 ≤ (outGang false false true).ungated ∧ ((outGang false false true).modGang 0 ⟨1, 0⟩ (fun x => { x with claim := none })).holderOf 0 g = none) ∧
    (outGang true true false).victim 0 = some (0, { gang1 0 [] with out := some ([(1, 3, 0)], 0), restoring := some [(1, 3, 0)] }) ∧
    ((outGang true true false).thr 1 3).frozen = true ∧ { outGang false false false with ungated := 65535 }.ungated < 0 + 65536 ∧
    (let g := { gang1 0 [] with out := some ([(1, 3, 0)], 0) }
     let x : Gang := { gang1 0 [] with handle := 2, quads := [0, 1] }
     let s := ((s0.modCore 1 (fun x => { x with tccCtl := 2 })).putThr 1 0 { member with tag := ⟨2, 0⟩ }).putCluster 0 { gangs := [g, x] }
     s.holderOf 0 g = some x ∧ s.memberEntries x = [(1, 0, 0)] ∧ (s.thr 1 0).held = false ∧ s.victim 0 = some (0, g) ∧
     { s with ungated := 65536 }.ungated = 0 + 65536) := by
  and_intros <;> decide

/-! ## Engines, tables and traces -/

/-- Segment 4 is the striped kind of the thread's own cluster; table 0 of virtual function 0; x11 points there. -/
def eng : Thread := { xs [(11, 0x8000000000000000)] thread with g := thread.g.set 4 (seg (2 ^ 51 + 2 * 2 ^ 48) 0x100000) }
def table0 : Table := { base := 0x20000, shStride := 0, rowBytes := 8, rows := 16, shards := 2, version := 1 }
def es : State := { on 0 eng with tables := [(0, 0, table0)] }
/-- The least and the greatest COPY of one row; lengths 0 and 4, one row too few; an overlap. -/
theorem test_meets_EnginePostsIssue_copy :
    (∀ p ∈ ([⟨8, 1, 0, 0⟩, ⟨8, 0x10001, 0, 0⟩, ⟨0, 1, 0, 0⟩, ⟨4, 1, 0, 0⟩, ⟨8, 0, 0, 0⟩] : List Params), (ok es (.copy 0 10 0 p) && ok es (.copy 0 11 0 p) && ok es (.copy 0 0 0 p)) = true) ∧
    copyOverlaps es.me.g.toList (es.me.rx 0) (es.me.rx 10) ⟨8, 1, 0, 0⟩ = false ∧ copyOverlaps es.me.g.toList (es.me.rx 0) (es.me.rx 0) ⟨8, 1, 0, 0⟩ = true ∧
    copyOverlaps es.me.g.toList (es.me.rx 0) (es.me.rx 11) ⟨8, 0x10001, 0, 0⟩ = false ∧
    toOpt (es.engineTa es.me 0 8 8 false) = some 0x10000 ∧ toOpt (es.engineTa es.me 0x40 8 8 true) = some 0x10040 ∧
    toOpt (es.stripedTa es.me 0x8000000000000000 8 true) = some (2 ^ 51 + 2 * 2 ^ 48) := by
  refine ⟨List.all_eq_true.mp (by decide), by and_intros <;> decide⟩
/-- Tables 0, 63 (undefined) and 64; one entry, 4,096 entries and none; rows of the table's size and none. -/
theorem test_meets_EnginePostsIssue_tables :
    (∀ p ∈ ([⟨0, 1, 0, 0⟩, ⟨0, 4096, 0, 8⟩, ⟨63, 1, 0, 0⟩, ⟨64, 1, 0, 0⟩, ⟨0, 0, 0, 0⟩, ⟨0, 4097, 0, 0⟩] : List Params),
      (ok es (.gath 0 11 0 p) && ok es (.scat 0 11 0 p) && ok es (.rmig 3 0 11 0 ⟨p.w0, 0, 0, 0⟩) && ok es (.rmig 3 10 11 0 ⟨p.w0, 0, 0, 0⟩)) = true) ∧
    es.tableOf (es.owner es.curCore) 0 = some table0 ∧ es.tableOf (es.owner es.curCore) 63 = none ∧
    toOpt (es.engineTa es.me 0 (8 + 1 * 1) 8 false) = some 0x10000 ∧
    toOpt (es.stripedTa es.me (es.me.rx 11 + BitVec.ofNat 64 (0 * 8)) 8 true) = some (2 ^ 51 + 2 * 2 ^ 48) ∧
    toOpt (es.stripedTa es.me (es.me.rx 11 + BitVec.ofNat 64 (0 * 8)) 8 false) = some (2 ^ 51 + 2 * 2 ^ 48) ∧
    (es.me.rx 0 = 0) ∧ es.me.rx 10 ≠ 0 ∧ toOpt (es.engineTa es.me (es.me.rx 10) table0.rowBytes 8 true) = some 0x10040 ∧ taOnChip 0x10040 = false := by
  refine ⟨List.all_eq_true.mp (by decide), by and_intros <;> decide⟩
def post0 (id : Nat) (moved : List Nat) : Post := { id := id, ins := .copy 0 10 0 ⟨8, 1, 0, 0⟩, ops := {}, core := 0, slot := 0, vf := 0, tag := {}, moved := moved }
/-- 63 posts wait and 64; seven run and eight. -/
theorem test_meets_EnginePostsRun :
    (let s := fun (n : Nat) (p : Params) => (flying (.copy 0 10 0 p) {} .queued).putCluster 0 { engineQ := List.replicate n (post0 9 []) }
     (∀ p ∈ ([⟨8, 1, 0, 0⟩, ⟨8, 0x10001, 0, 0⟩] : List Params), (s 63 p).pending r1 = some (p1 (.copy 0 10 0 p) {} .queued) ∧
       (∀ y ∈ ((s 63 p).thr 0 0).pend, ¬y.id < 1)) ∧ ((s 63 ⟨8, 1, 0, 0⟩).cluster 0).engineQ.length < 64 ∧ ((s 63 ⟨8, 1, 0, 0⟩).cluster 0).engineReset = false ∧
       64 ≤ ((s 64 ⟨8, 1, 0, 0⟩).cluster 0).engineQ.length ∧ mcgValid ((alook (s 0 ⟨8, 1, 0, 0⟩).mcgroups 0).getD 0) 0 = false) ∧
    (let s := fun (n : Nat) => s0.putCluster 0 { engineQ := [post0 9 []], engineRun := List.replicate n (post0 8 []) }
     ((s 7).cluster 0).engineQ = [post0 9 []] ∧ ((s 7).cluster 0).engineRun.length < 8 ∧ 8 ≤ ((s 8).cluster 0).engineRun.length) ∧
    (let s := s0.putCluster 0 { engineRun := [post0 9 [0]] }
     (s.cluster 0).engineRun = [post0 9 [0]] ∧ (∀ m, m < (post0 9 [0]).total → m ∈ [0]) ∧ (s.core 0).inbox.length < 1024 ∧ (s.core 0).hwHeld = [] ∧
       (s.core 0).dqWaiters = [] ∧ s.quadDown 0 = false ∧ s.gated = false ∧ { s with gates := [1] }.gated = true) ∧
    (let x := { post0 9 [0] with ins := .copy 0 10 0 ⟨16, 2, 0, 0⟩, stopped := true, status := some (0x13, 0x48) }
     x.stopped = true ∧ x.table = none ∧ ((s0.putCluster 0 { engineRun := [x] }).cluster 0).engineRun = [x]) ∧
    2 ^ 20 ≤ ((s0.putDie 0 { lookups := 2 ^ 20 }).die 0).lookups ∧ ((s0.putDie 0 { lookups := 2 ^ 20 - 1 }).die 0).lookups < 2 ^ 20 ∧
    (0x80000000FFFFFFFF#64).toNat / 2 ^ 50 % 2 ^ 13 = 0 ∧ (0x80000000FFFFFFFF#64).toNat / 2 ^ 32 % 2 ^ 9 = 0 := by
  and_intros <;> decide
/-- Tables 0, 63 (undefined) and 64; the last shard and one beyond it; a version's base within its bound and at it. -/
theorem test_meets_DirectoryInstructions_issue :
    (∀ n ∈ ([0, 63, 64] : List Word32), (ok es (.tblset 3 0 0 ⟨n, 0, 0, 0⟩) && ok es (.tblsw 3 10 0 ⟨n, 0, 0, 0⟩) && ok es (.shstat 3 0 ⟨n, 0, 0, 0⟩) &&
      ok es (.shstat 3 0 ⟨n, 1, 5, 0⟩) && ok es (.shstat 3 0 ⟨n, 2, 0, 0⟩) && ok es (.shstat 3 0 ⟨n, 1, 6, 0⟩) && ok { es with tables := [] } (.shstat 3 0 ⟨n, 1, 5, 0⟩)) = true) ∧
    toOpt (es.engineTa es.me 0 64 8 false) = some 0x10000 ∧ es.tableOf 0 0 = some table0 ∧ es.tableOf 0 63 = none ∧
    (es.me.rx 10).toNat % 8 = 0 ∧ (es.me.rx 10).toNat < 2 ^ 51 ∧ ok { on 0 { eng with x := eng.x.set 10 (2 ^ 51) } with tables := [(0, 0, table0)] } (.tblsw 3 10 0 ⟨0, 0, 0, 0⟩) = true ∧
    1 < table0.shards ∧ table0.shards ≤ 2 := by
  refine ⟨List.all_eq_true.mp (by decide), by and_intros <;> decide⟩
def o64 : Operands := { tgt := .paged 0x10000, ta := 0x10000, n := 64, sys := true }
/-- A TBLSET of table 0 at its bank: its descriptor holds 8-byte rows, 16 or none, or a version field above 32 bits. -/
def setting (rows bad : Nat) (posts : List Post) : State :=
  let s := (flying (.tblset 3 0 0 ⟨0, 0, 0, 0⟩) o64 .flight).putVf 0 { root := some (2 ^ 28) }
  { s.putCluster 0 { engineQ := posts } with
      tables := [(0, 0, table0)]
      mem := ((((Memory.write ⟨[]⟩ (2 ^ 28) 8 7).write 0x10000 8 0x20000).write 0x10010 8 rows).write 0x10018 8 8).write 0x10020 8 bad }
def scatOn : Post := { id := 9, ins := .scat 0 11 0 ⟨0, 1, 0, 0⟩, ops := {}, core := 0, slot := 0, vf := 0, tag := {} }
def setPaid (s : State) : State × Bool := (s.landAll (s.thr 0 0)).payRange r1 0 0x10000 8 { r := true, sys := true }
def setDescr (s : State) : Option (List Word) :=
  let s := (setPaid s).1
  (toOpt (s.agentRead 0 (s.owner 0) (s.thr 0 0).tag true 0x10000 8 0)).map (fun x => x.1.map (fun e => e.d))
theorem test_meets_DirectoryInstructions_sets :
    (let p := p1 (.tblset 3 0 0 ⟨0, 0, 0, 0⟩) o64 .flight
     ((setting 16 0 []).pending r1 = some p ∧ (setting 16 0 []).bankReady r1 p = true ∧ p.ops.core = 0 ∧ (setPaid (setting 16 0 [])).2 = true) ∧
     (setDescr (setting 16 0 [])).map descOk = some true ∧ (setDescr (setting 16 (2 ^ 32) [])).map descOk = some false ∧
     (setDescr (setting 16 0 [])).map (fun d => (descTable d).rows) = some 16 ∧ (setDescr (setting 0 0 [])).map (fun d => (descTable d).rows) = some 0 ∧
     (setDescr (setting 0 0 [])).map descOk = some true ∧ (setting 16 0 []).postsOn 0 0 = [] ∧ (setting 16 0 [scatOn]).postsOn 0 0 ≠ []) := by
  and_intros <;> decide +kernel
theorem test_meets_DirectoryInstructions_switches :
    (let i := Instr.tblsw 3 10 0 ⟨0, 2, 0, 0⟩
     let s := fun (n : Nat) => { flying i { stage := n } .queued with tables := [(0, 0, table0)] }
     (s 0).pending r1 = some (p1 i { stage := 0 } .queued) ∧ (s 0).tableOf ((s 0).owner 0) 0 = some table0 ∧ table0.moving = [] ∧
     (s 1).pending r1 = some (p1 i { stage := 1 } .queued) ∧ (∀ u ∈ (s 1).postsOn ((s 1).owner 0) 0, u.table = none)) := by decide

def trace0 : Trace := { vf := 0, cap := 4 }
def traced (t : Trace) (quota : Nat) : State := { s0.putVf 0 { quota := quota, regions := [(1, (0x12000, 0x1000))] } with traces := [(1, t)] }
/-- x13 is a length; a trace object that is in use, running, another tenant's, or none. -/
def sized (n : Word) (t : Trace) (q : Nat) : State := { traced t q with cores := (on 0 (xs [(13, n)] thread)).cores }
theorem test_meets_TracesAndRelaunches_create :
    ([0, 1, 4, 0x1000000, 0x1000001] : List Word).all (fun n => ok (sized n trace0 8) (.trregCreate 3 0 13 0 ⟨0, 0, 0, 0⟩)) = true ∧
    ((sized 4 trace0 8).traces.filter (fun x => x.2.vf == 0)).foldl (fun n x => n + x.2.cap) 0 = 4 ∧ 4 + 4 ≤ ((sized 4 trace0 8).vf 0).quota ∧
    ((sized 4 trace0 7).vf 0).quota < 4 + 4 ∧ (alook (sized 4 trace0 8).traces 1).isSome = true ∧ alook (sized 4 trace0 8).traces (1 + 1) = none := by
  and_intros <;> decide +kernel
/-- Lengths 0, 1 and 4,096; regions 1, 15 and 16. -/
theorem test_meets_TracesAndRelaunches_region :
    ([0, 1, 0x1000] : List Word).all (fun n => [trace0, { trace0 with running := true }].all (fun t => ([1, 15, 16] : List Word32).all (fun m =>
      ok (sized n t 8) (.trregRegion 0 0 13 0 ⟨1, m, 0, 0⟩)))) = true ∧
    (sized 0 trace0 8).traces.all (fun x => !x.2.running) = true ∧ (sized 0 { trace0 with running := true } 8).traces.any (fun x => x.2.vf == 0 && x.2.running) = true ∧
    toOpt ((sized 0x1000 trace0 8).engineTa (sized 0x1000 trace0 8).me 0 0x1000 4096 false) = some 0x10000 ∧ taOnChip 0x10000 = false ∧
    ((sized 0x1000 trace0 8).vf 0).regions.all (fun e => e.1 == 15 || decide (0x10000 + 0x1000 ≤ e.2.1 ∨ e.2.1 + e.2.2 ≤ 0x10000)) = true := by
  and_intros <;> decide +kernel
theorem test_meets_TracesAndRelaunches_objects :
    ([1, 2] : List Word32).all (fun n => [trace0, { trace0 with running := true }, { trace0 with vf := 1 }].all (fun t =>
      ok (traced t 8) (.trregArm 0 0 0 0 ⟨2, n, 0, 0⟩) && ok (traced t 8) (.trregFree 0 0 0 0 ⟨3, n, 0, 0⟩))) = true ∧
    ([0, 1, 2, 5, 6, 7] : List Word32).all (fun k => ([0, 3, 4] : List Word32).all (fun b => ([0, 63, 64] : List Word32).all (fun j =>
      ok (traced trace0 8) (.trinfo 3 0 ⟨1, b, k, j⟩)))) = true := ⟨by decide +kernel, by decide +kernel⟩
/-- All 255 objects are in use. -/
theorem test_meets_TracesAndRelaunches_none : ∀ m, m < 255 →
    (fun m => (alook ({ s0 with traces := (List.range 255).map (fun n => (n + 1, trace0)) } : State).traces (m + 1)).isSome) m = true := by
  intro m h; exact List.all_eq_true.mp (by decide +kernel : (List.range 255).all (fun m =>
    (alook ({ s0 with traces := (List.range 255).map (fun n => (n + 1, trace0)) } : State).traces (m + 1)).isSome) = true) m (List.mem_range.mpr h)
def bound0 : Bound := { p := ⟨0x100, 2, 0x1001, 0⟩, arg := 5, segs := Vector.replicate 8 0, die := 0 }
def run0 (decided : Bool) : Run := { core := 0, vf := 0, sys := true, handle := 1, decided := decided }
/-- Two blocks, of which one is valid, or both; the run of launch0. -/
def rerun (decided : Bool) (valid : List Nat) (l : Launch := { launch0 with only := some [] }) : State :=
  { launched l 0 with traces := [(1, { trace0 with
      running := true, bound := some bound0, run := some (run0 decided)
      recs := valid.map (fun n => (n, { valid := true, e := 9 })) })] }
theorem test_meets_TracesAndRelaunches_runs :
    (∀ p ∈ ([⟨1, 0, 0, 0⟩, ⟨1, 0, 256, 0⟩, ⟨1, 0, 264, 0⟩, ⟨1, 4, 8, 0⟩, ⟨2, 0, 0, 0⟩] : List Params), ok (traced trace0 8) (.relaunch 0 0 0 0 p) = true) ∧
    toOpt (s0.engineTa s0.me 0 256 8 false) = some 0x10000 ∧
    (List.range 2).filter (fun k => (rerun false [0, 1]).wouldRerun 0 ((alook [(0, { valid := true, e := 9 }), (1, { valid := true, e := 9 })] k).getD ({} : BlockRec))) = [] ∧
    (List.range 2).filter (fun k => (rerun false [0]).wouldRerun 0 ((alook [(0, { valid := true, e := 9 })] k).getD ({} : BlockRec))) = [1] ∧
    (alook (rerun false [0]).traces 1).isSome = true ∧ (rerun false [0]).launchOf 1 = some { launch0 with only := some [] } ∧
    ((rerun false [0]).gated = false ∧ { rerun false [0] with gates := [1] }.gated = true ∧ (rerun false [0]).quadDown 0 = false ∧ (run0 false).silent = false ∧ trace0.queued = none) ∧
    (let q := p1 (.relaunch 0 0 0 0 ⟨1, 0, 8, 0⟩) { tgt := .paged 0x10000, n := 8, ta := 0x10000, sys := true } .queued
     let s := (flying q.ins q.ops .queued).putVf 0 { root := some (2 ^ 28) }
     let s := { s with mem := Memory.write ⟨[]⟩ (2 ^ 28) 8 7 }
     let x := (s.landAll (s.thr 0 0)).payRange r1 0 0x10000 1 { r := true, sys := true }
     s.pending r1 = some q ∧ q.ops.stage = 0 ∧ q.ops.n / 8 ≠ 0 ∧ (s.thr 0 0).mayPerform q = true ∧ x.2 = true ∧
     ((toOpt (x.1.agentRead 0 (x.1.owner 0) (x.1.thr 0 0).tag true 0x10000 1 0)).map (fun y => y.1.length)) = some 1) ∧
    ((rerun false [0]).core 0).inbox.length < 1024 ∧ ((rerun false [0]).core 0).hwHeld = [] ∧ ((rerun false [0]).core 0).dqWaiters = [] ∧
    ({ launch0 with only := some [] } : Launch).over = true ∧ ({ launch0 with only := some [1] } : Launch).over = false ∧ (rerun true [0]).launchQuiet 1 = true := by
  and_intros <;> decide +kernel

/-! ## Virtual time -/

def vt0 : VTime := { restart := 0x200, base := ⟨0, 0⟩, cur := ⟨0, 0⟩ }
/-- The timed thread in slot 14 of core 0, whose virtual time is `v`. -/
def timed (v : VTime) (t : Thread := thread) : State :=
  (on 14 { t with tm := true }).modCore 0 (fun x => { x with vt := some v })
theorem test_meets_VirtualTimeAndOutput_modes :
    (let idle := s0
     let busy := s0.putThr 0 14 thread
     let sleeping := fun (v : VTime) => (s0.putThr 0 14 { thread with pend := [{ p1 (.tnext 3 0) {} .asleep with id := 2 }] }).modCore 0 (fun x => { x with vt := some v })
     (ok idle (.tmodeOn 10) && ok busy (.tmodeOn 10) && ok (sleeping vt0) (.tmodeOn 10) && ok idle .tmodeOff && ok (sleeping vt0) .tmodeOff &&
       ok (sleeping { vt0 with log := [⟨⟨0, 0⟩, .out 0 0, []⟩] }) .tmodeOff && ok (on 3 thread) .tmodeOff) = true ∧
     (idle.core 0).vt = none ∧ (idle.thr 0 14).st = .idle ∧ (idle.thr 0 14).held = false ∧ (busy.thr 0 14).st ≠ .idle ∧ (busy.core 0).vt = none ∧
     ((sleeping vt0).core 0).vt = some vt0 ∧ ((sleeping vt0).thr 0 14).inTnext = true ∧ idle.curSlot = 0 ∧ idle.me.mig = false) ∧
    comes (on 3 thread) (.tmodeOn 10) = true ∧ comes (x4 2) (.tmodeOn 4) = true ∧ ((x4 2).me.rx 4).toNat % 4 ≠ 0 := by
  and_intros <;> decide
/-- The log at 1,023 entries and at 1,024, the output queue at 63 and at 64. -/
theorem test_meets_VirtualTimeAndOutput_output :
    (ok (timed vt0) (.tout 1 0) && ok (timed vt0) (.tout 1 9) && ok s0 (.tout 1 0)) = true ∧ s0.me.tm = false ∧ (timed vt0).me.tm = true ∧
    toOpt (resolve (timed vt0) 0 (timed vt0).me { ea := 0, n := 8, align := 8, w := true, dbl := true, sysOk := true }) = some (0x10000, .paged 0x10000) ∧
    toOpt (resolve (timed vt0) 0 (timed vt0).me { ea := 0x2000000000000000, n := 8, align := 8, w := true, dbl := true, sysOk := true }) = some (2 ^ 51, .raw 0 0) ∧
    taOnChip 0x10000 = false ∧ taOnChip (2 ^ 51) = true ∧ vt0.log.length + ((timed vt0).core 0).reserved + 1 ≤ 1024 ∧ vt0.out.length < 64 ∧
    (let e : OutEntry := ⟨⟨5, 0⟩, 0x10000, 7, true⟩
     let s := ((timed { vt0 with out := [⟨⟨6, 0⟩, 0x10008, 8, true⟩, e] }).putVf 0 { root := some (2 ^ 28), gvt := 6 })
     let s := { s with mem := Memory.write ⟨[]⟩ (2 ^ 28) 8 0xF }
     (VTime.release { vt0 with out := [⟨⟨6, 0⟩, 0x10008, 8, true⟩, e] } 6 = some e ∧ VTime.release { vt0 with out := [⟨⟨6, 0⟩, 0x10008, 8, true⟩] } 6 = none) ∧
     (s.thr 0 14).pend = [] ∧ (s.vf (s.owner 0)).gvt = 6 ∧ s.agentPlace 0 0x10000 0x10000 { w := true, sys := true } = .at 0x10000 ∧ s.poisoned 0x10000 = false) ∧
    (5#64).toNat < ((s0.modCore 0 (fun x => { x with gvtCopy := 6 })).core 0).gvtCopy.toNat ∧ (s0.core 0).gvtCopy.toNat ≤ (s0.me.rx 2).toNat ∧
    (ok s0 (.gvtrd 3) && ok s0 (.gvtrdW 3 2)) = true := by
  and_intros <;> decide
/-- A target of 65,535 and of 65,536; the floor is 5: times 5, 6, 2^48 − 1 and 2^48. -/
def sending (target time : Word) : State := (timed vt0 (xs [(13, target), (14, time)] thread)).modCore 0 (fun x => { x with lvt := 0x50000 })
theorem test_meets_TimedMessages_sends :
    ([0, 0xFFFF, 0x10000] : List Word).all (fun t => ([5, 6, 0xFFFFFFFFFFFF, 0x1000000000000] : List Word).all (fun v => ok (sending t v) (.tsend 13 9 14 0))) = true ∧
    ok s0 (.tsend 13 9 14 0) = true ∧ max (((sending 0 6).core 0).lvt.toNat / 2 ^ 16) (((sending 0 6).core 0).gvtCopy.toNat / 2 ^ 16) = 5 ∧
    (let s := fun (v : Word) => { sending v 6 with quads := [(1, 1)] }
     (s 3).isCoreOf 3 0 = true ∧ (s 4).isCoreOf 4 0 = false ∧ (4 : Nat) / 2048 = (s 4).pkg.toNat ∧ (0xFFFF : Nat) / 2048 ≠ (s 4).pkg.toNat ∧
     ok (s 4) (.tsend 13 9 14 0) = true ∧
     toOpt (resolve (s 4) 0 (s 4).me { ea := 0x2000000000000000, n := 32, align := 32, sort := .record, r := true }) = some (2 ^ 51, .raw 0 0)) ∧
    ((sending 0 6).core 0).logRoom 1 = true ∧ (sending 0 6).me.tm = true ∧
    (let s := (sending 0 6).modCore 0 (fun x => { x with vt := some { vt0 with log := List.replicate 1024 ⟨⟨0, 0⟩, .out 0 0, []⟩ } })
     ok s (.tsend 13 9 14 0) = true ∧ (s.core 0).logRoom 1 = false) := by
  and_intros <;> decide +kernel
def m0 : Msg := .ofWords 1 2 3 4
def tm (v : Nat) (taken : Bool) : TMsg := { key := ⟨BitVec.ofNat 64 v, 0⟩, payload := m0, taken := taken }
def sent (anti : Bool) (v : Nat) (ref : Option Ref) : Timed := { src := 0, dst := 0, key := ⟨BitVec.ofNat 64 v, 0⟩, anti := anti, payload := m0, colour := false, ref := ref }
theorem test_meets_TimedMessages_arrive :
    (let s := { flying (.tsend 13 9 14 0) {} .flight with timed := [sent false 5 (some r1)] }
     let at_ := fun (n : Nat) => s.modCore 0 (fun x => { x with vt := some { vt0 with inbox := List.replicate n (tm 7 false), cur := ⟨6, 0⟩ } })
     s.timed[0]? = some (sent false 5 (some r1)) ∧ s.timedFirst 0 (sent false 5 (some r1)) = true ∧ s.pending r1 = some (p1 (.tsend 13 9 14 0) {} .flight) ∧
     (s.core 0).vt = none ∧ ((at_ 0).core 0).vt = some { vt0 with inbox := [], cur := ⟨6, 0⟩ } ∧ (⟨5, 0⟩ : Key).lt ⟨6, 0⟩ = true) ∧
    (∀ m : TMsg, (List.replicate 639 m).length < 640 ∧ 640 ≤ (List.replicate 640 m).length) ∧
    (let s := fun (down out : Bool) (owner : Nat) => { (flying (.tsend 13 9 14 0) {} .flight) with
       timed := [{ sent false 5 (some r1) with dst := 4 }], quads := [(1, owner)]
       clusters := [(0, { resetting := if down then [1] else [], out := out })] }
     (s true false 0).quadDown 4 = true ∧ quadOf 4 ≠ quadOf 0 ∧ (s false true 0).quadDown 4 = false ∧ (s false true 0).coreOut 4 = true ∧
     (s false false 1).quadDown 4 = false ∧ (s false false 1).owner 4 ≠ (s false false 1).owner 0 ∧ (s false false 0).owner 4 = (s false false 0).owner 0 ∧
     (s false false 0).coreOut 4 = false ∧ (s true false 0).timedFirst 0 { sent false 5 (some r1) with dst := 4 } = true ∧ s0.quadDown 0 = false ∧ s0.coreOut 0 = false ∧
     ((s true false 0).core 4).vt = none ∧ (sent false 5 (some r1)).vf = 0 ∧ ({ sent false 5 (some r1) with vf := 1 } : Timed).vf ≠ (s false false 0).owner 4) := by
  refine ⟨by decide, fun m => by rw [List.length_replicate, List.length_replicate]; decide, by decide⟩
theorem test_meets_TimedMessages_next :
    (∀ l ∈ ([[], [tm 7 true], [tm 7 false, tm 6 false]] : List (List TMsg)), ok (timed { vt0 with inbox := l }) (.tnext 3 0) = true) ∧
    Issues (.tnext 3 0) s0 ∧ Issues (.tnext 3 0) (on 14 thread) ∧ (timed vt0).curSlot = 14 ∧ leastMsg ({ vt0 with inbox := [tm 7 true] } : VTime).unprocessed = none ∧
    leastMsg ({ vt0 with inbox := [tm 7 false, tm 6 false] } : VTime).unprocessed = some (tm 6 false) := by
  refine ⟨by decide, issues_of (by decide), issues_of (by decide), by decide, by decide, by decide⟩
theorem test_meets_RollbackAndHorizon_rollback :
    (let v : VTime := { vt0 with cur := ⟨9, 0⟩, straggler := some (⟨5, 0⟩, false), log := [⟨⟨5, 0⟩, .out 0 0, []⟩, ⟨⟨6, 0⟩, .word 0x10000 0x10000 0 true false, []⟩] }
     let s := timed v
     let map := { s.putVf 0 { root := some (2 ^ 28) } with mem := Memory.write ⟨[]⟩ (2 ^ 28) 8 0x17 }
     let hbm := fun (w : Walk) => match w with | .leaf _ pa => (match paSpace pa with | .hbm _ => true | _ => false) | _ => false
     hbm (map.walkAt 0 0 0x10000) = true ∧ (map.core 0).hasToken 0 = true ∧ s.walkAt 0 0 0x10000 = .absent ∧ (0x10000 : Nat) < 2 ^ 56 ∧
     ((map.modCore 0 (fun x => { x with qhbmNow := 0x0000000500000001 })).core 0).hasToken 0 = false ∧
     (s.core 0).vt = some v ∧ (s.thr 0 14).atBoundary = true ∧ v.antis = [] ∧ (⟨5, 0⟩ : Key).lt ⟨6, 0⟩ = true ∧ (⟨5, 0⟩ : Key).lt ⟨5, 0⟩ = false ∧
     ((s.modThr 0 14 (fun t => { t with pend := [p1 (.ld 3 9 0 0 6 0) {} .flight] })).thr 0 14).atBoundary = false ∧ vt0.straggler = none) ∧
    (let s := fun (dst : Nat) => { timed vt0 with timed := [{ sent true 7 none with dst := dst }] }
     let poor := fun (s : State) => s.modCore 0 (fun x => { x with qnetNow := 0x0000000500000001 })
     ∀ dst ∈ [64, 65536 + 2048], clusterOf dst ≠ clusterOf 0 ∧ ((s dst).core 0).hasToken 1 = true ∧ ((poor (s dst)).core 0).hasToken 1 = false ∧
       (poor (s dst)).timed[0]? = some { sent true 7 none with dst := dst } ∧
       (s dst).timedFirst 0 { sent true 7 none with dst := dst } = true) ∧
    (let s := fun (l : List TMsg) => { timed { vt0 with inbox := l } with timed := [sent true 7 none] }
     (s []).owner 0 = (sent true 7 none).vf ∧ (s []).timed[0]? = some (sent true 7 none) ∧ (s []).timedFirst 0 (sent true 7 none) = true ∧ ((s []).core 0).vt = some { vt0 with inbox := [] } ∧
     [tm 7 false].find? (fun y => y.key == (sent true 7 none).key) = some (tm 7 false) ∧ [tm 7 true].find? (fun y => y.key == (sent true 7 none).key) = some (tm 7 true)) := by
  decide
theorem test_meets_RollbackAndHorizon_horizon :
    (let s := { timed vt0 with cycle := 4096 }
     s.wide 0 = false ∧ (s.vf 0).round = false ∧ s.cycle % 4096 = 0 ∧ (s.vf 0).roundAt ≠ s.cycle ∧
     s.cores.filter (fun c => s.owner c.1 == 0 && c.2.vt.isSome) ≠ [] ∧ s0.cores.filter (fun c => s0.owner c.1 == 0 && c.2.vt.isSome) = [] ∧
     (s.core 0).colour = (s.vf (s.owner 0)).colour ∧ (s.core 0).colour ≠ ((s.putVf 0 { colour := true }).vf 0).colour ∧
     { s with cycle := 4095 }.cycle % 4096 ≠ 0) ∧
    (let s := fun (n : Int) (c : Bool) (w : Option Word) =>
       ((timed vt0).modCore 0 (fun x => { x with count0 := n, colour := c })).putVf 0 { round := true, colour := true, roundResult := w }
     let old := fun (s : State) => ((s.cores.filter (fun c => s.owner c.1 == 0)).map (fun c => c.2.count0)).sum
     let stray : Timed := { sent false 5 none with src := 4 }
     let left := fun (c : Bool) => { s 0 true none with quads := [(1, 1)], timed := [{ stray with colour := c }] }
     (s 0 true none).wide 0 = false ∧ ((s 0 true none).vf 0).round = true ∧ ((s 0 true none).vf 0).roundResult = none ∧ old (s 0 true none) = 0 ∧
     (s 0 true none).timed = [] ∧ (s 0 true none).cores.all (fun x => x.2.colour && x.2.vt.all (·.antis.isEmpty)) = true ∧
     old (s 1 true none) ≠ 0 ∧ (s 0 false none).cores.all (fun x => x.2.colour) = false ∧ ((s 0 true (some 5)).vf 0).roundResult = some 5 ∧
     (left false).owner stray.src ≠ stray.vf ∧ ((left false).vf 0).colour = true ∧ (left true).timed = [{ stray with colour := true }]) ∧
    ((vt0.inbox = [] ∧ (timed vt0 |>.core 0 |>.slot 14).inTnext = false) ∧ (s0.core 0).vt = none) ∧
    (let s := fun (out : List OutEntry) => (timed { vt0 with out := out }).putVf 0 { gvt := 5, gvtPrev := 3 }
     ((s []).core 0).gvtCopy ≠ ((s []).vf 0).gvt ∧ (⟨⟨4, 0⟩, 0, 0, true⟩ : OutEntry).key.vrt.toNat < 5 ∧
     (s [⟨⟨4, 0⟩, 0, 0, true⟩]).cores.map (fun x => x.2.vt.map (·.out.length)) = [some 1] ∧ (s0.core 0).gvtCopy = (s0.vf 0).gvt) := by
  and_intros <;> decide

/-! ## System instructions, tenancy and what stands outside the threads -/

def trappedT : Thread := { thread with st := .trapped, cause := 0x20 }
/-- XEC of slots 14 and 15; invalidation of all and of one address. -/
theorem test_meets_SystemInstructionsAndStops_words :
    (ok (in15 trappedT 0) (.xec 4 1) && ok (in15 thread 0) (.xec 4 0) && ok (in15 thread 14) (.xec 4 1) && ok (in15 thread 15) (.xec 4 1) && ok s0 (.xec 4 1)) = true ∧
    ((in15 trappedT 0).thr 0 0).st = .trapped ∧ ((in15 thread 0).thr 0 0).st ≠ .trapped ∧ (in15 thread 15).curSlot = 15 ∧
    (ok s0 (.icinv 0) && ok s0 (.icinv 10) && ok s0 (.tlbinv 0) && ok s0 (.tlbinv 10)) = true ∧ tlbinvFault 0 s0.me = none ∧ tlbinvFault 10 s0.me = none ∧
    (ok s0 (.snap 3) && ok (on 0 { thread with sys := false }) (.snap 3) && ok { s0 with snapAt := some 9 } (.snap 3)) = true ∧ s0.snapAt = none ∧ s0.me.sys = true := by
  and_intros <;> decide
/-- Addresses without X, at the limit, and with a window view; a host store on its way. -/
theorem test_meets_SystemInstructionsAndStops_refusals :
    (let g := fun (d : BitVec 128) => on 0 { xs [(4, 0x8000000000000000)] thread with g := thread.g.set 4 d }
     let window := g (seg (2 ^ 51 + 2 * 2 ^ 44) 0x80000)
     let ta := fun (s : State) => segBase (s.me.segOf (s.me.rx 4)) + eaOffset (s.me.rx 4)
     comes (g 0) (.icinv 4) = true ∧ segX ((g 0).me.segOf ((g 0).me.rx 4)) = false ∧
     comes (g (seg 0x10000 0)) (.icinv 4) = true ∧ segLimit ((g (seg 0x10000 0)).me.segOf ((g (seg 0x10000 0)).me.rx 4)) = 0 ∧
     segX ((g (seg 0x10000 0)).me.segOf ((g (seg 0x10000 0)).me.rx 4)) = true ∧ segP ((g (seg 0x10000 0)).me.segOf ((g (seg 0x10000 0)).me.rx 4)) = false ∧
     comes window (.icinv 4) = true ∧ taOnChip (ta window) = true ∧ isWindow (taView (ta window)) = true ∧ taKind (ta window) ≠ 4 ∧
     eaOffset (window.me.rx 4) < segLimit (window.me.segOf (window.me.rx 4)) ∧
     comes (on 0 { thread with sys := false }) (.tlbinv 0) = true ∧ ok { s0 with posted := [⟨0, 0, 2 ^ 45, 8, 7, {}⟩] } (.icinv 0) = true) := by
  and_intros <;> decide
theorem test_meets_SystemInstructionsAndStops_services :
    (ok s0 (.halt 3) && ok (in15 trappedT 0) (.halt 3) && ok (in15 thread 0) (.halt 3)) = true ∧
    ((in15 trappedT 0).thr 0 0).returned = false ∧ (List.range 15).all (fun j => ((in15 thread 0).thr 0 j).st != TState.trapped) = true ∧
    (let x := ((in15 thread 0).core 0)
     let asks := fun (failed : Bool) (e : Word) => { x with svc := [{ kind := 1, slot := 3, entry := 0, failed := failed }], tccErr := e }
     let next := fun (x : Core) => x.svc.find? (fun q => (x.slot q.slot).st != TState.trapped && !(q.failed && x.tccErr.getLsbD 63))
     next (asks false 0) = some { kind := 1, slot := 3, entry := 0 } ∧ next (asks true 0) = some { kind := 1, slot := 3, entry := 0, failed := true } ∧
     next (asks true (2 ^ 63)) = none ∧ next x = none ∧ x.svc = []) := by
  and_intros <;> decide +kernel
def asleepT : Thread := { thread with pend := [{ p1 (.dq 3 0 0 1) {} .asleep with id := 2 }] }
/-- The tenant has one thread, asleep in slot 3 of core 0, beside one in slot 0 that has ended or that is Trapped. -/
def sampled (held raised : Bool) : State := { s0.putVf 0 { asleepHeld := held, asleepRaised := raised } with cycle := 1024 }
theorem test_meets_SystemInstructionsAndStops_stops :
    (s0.thr 0 0).st = .run ∧ (s0.thr 0 0).stop = none ∧ (s0.thr 0 0).pend = [] ∧ (s0.thr 0 5).st ≠ .run ∧
    ((on 0 { thread with stop := some { code := 0x20, tval := 0, epc := 0, xw := false } }).thr 0 0).stop ≠ none ∧
    ((sampled false false).vf 0).sampledAt ≠ some (sampled false false).cycle ∧
    (((sampled false false).putVf 0 { sampledAt := some 1024 }).vf 0).sampledAt = some (sampled false false).cycle ∧ ((on 15 thread).thr 0 15).st = .run ∧
    { s0 with cycle := 1023 }.cycle % 1024 ≠ 0 ∧ (sampled false false).wide 0 = false ∧ (sampled false false).allAsleep 0 = false ∧
    (let s := { (on 3 asleepT).putVf 0 { asleepHeld := true } with cycle := 1024 }
     s.allAsleep 0 = true ∧ (s.vf 0).asleepHeld = true ∧ (s.vf 0).asleepRaised = false ∧ s.lowestLive 0 = none) := by
  and_intros <;> decide
/-- All asleep with a sleeper in slot 0, before ASLEEP is raised and after. -/
theorem test_meets_SystemInstructionsAndStops_raised :
    (let s := fun (raised : Bool) => { (on 0 asleepT).putVf 0 { asleepHeld := true, asleepRaised := raised } with cycle := 1024 }
     (s true).allAsleep 0 = true ∧ ((s true).vf 0).asleepRaised = true ∧ (s true).cycle % 1024 = 0 ∧ (s true).wide 0 = false ∧
     (s false).allAsleep 0 = true ∧ ((s false).vf 0).asleepHeld = true ∧ ((s false).vf 0).asleepRaised = false ∧ (s false).lowestLive 0 = some 0 ∧
     ((s false).thr 0 0).st = .run ∧ ((s false).thr 0 0).stop = none ∧ ((s false).thr 0 0).pend = [{ p1 (.dq 3 0 0 1) {} .asleep with id := 2 }] ∧ counted (.dq 3 0 0 1) = false ∧ ((s true).vf 0).sampledAt = none) := by decide
def ctx0 (t : Thread) (slot : Nat) : Ctx := { th := t, slot := slot }
/-- Slot 3 as given, x4 its number and x13 entry 63; the cache as given. -/
def swapping (t : Thread) (a n : Word) (tcc : List (Nat × Ctx)) : State :=
  ((on 15 (xs [(4, a), (13, n)] thread)).putThr 0 3 t).modCore 0 (fun x => { x with tcc := tcc, resident := tcc.map Prod.fst })
theorem test_meets_ContextSwaps :
    [Instr.swapctx 13 4, .swapctxOut 13 4, .swapctxIn 13 4].all (fun i => [swapping thread 3 63 [], swapping {} 3 63 [], swapping {} 3 63 [(63, ctx0 thread 1)],
      swapping thread 3 63 [(63, ctx0 thread 1)], swapping { held := true } 3 63 [], swapping thread 15 63 [], swapping thread 14 64 []].all (fun s => ok s i)) = true ∧
    63 < tccN ((swapping thread 3 63 []).core 0).tccCtl ∧ tccN ((swapping thread 3 63 []).core 0).tccCtl ≤ 64 ∧
    ((swapping thread 3 63 []).core 0).dispatcherEntry 63 = false ∧ (ctx0 thread 1).malformed 3 = false ∧ ((swapping thread 3 63 [(63, ctx0 thread 1)]).core 0).resident = [63] ∧
    [Instr.swapctx 13 4, .swapctxOut 13 4, .swapctxIn 13 4].all (fun i => comes (on 3 thread) i) = true ∧
    (let s := { (swapping {} 3 63 [(63, ctx0 thread 1)]).modCore 0 (fun x => { x with resident := [], qhbmNow := 0x0000000500000001 }) with
        mem := Memory.write ⟨[]⟩ (2 ^ 28) 8 0x17, vfs := [(0, { root := some (2 ^ 28) })] }
     alook (s.core 0).tcc 63 ≠ none ∧ (s.thr 0 3).st = .idle ∧ 63 ∉ (s.core 0).resident ∧ (s.payBack 0 false 63).2 = false) ∧
    (swapping thread 3 63 []).maySave 0 3 = true ∧ ((swapping thread 3 63 []).thr 0 3).pend = [] := by
  and_intros <;> decide +kernel
/-- Core 0 with `n` live threads in slots 0 to n − 1. -/
def living (n : Nat) (t : Thread := thread) : State := (List.range n).foldl (fun s k => s.putThr 0 k t) s0
/-- Its tenant may synchronise over the device and the system. -/
def system (n : Nat) : State := (living n).putVf 0 { scopepol := 0x1C }
/-- 0, 1, 2 and 3 participants of two live threads. -/
theorem test_meets_CollectivesComplete_issue :
    ([0, 1, 2, 3] : List Word32).all (fun n => ([0, 1, 2, 4, 5, 6, 0x24] : List Word32).all (fun c => ok (system 2) (.cred 3 1 0 ⟨7, n, c, 0⟩))) = true ∧
    ([0, 1, 2, 3] : List Word32).all (fun n => ([0, 8, 0x28] : List Word32).all (fun c => ok (system 2) (.cbcast 3 1 10 0 ⟨7, n, c, 8⟩))) = true ∧
    ((system 2).liveIn 0 0 (domainOf 0 0)).1 = 2 ∧ (system 2).instanceOf 0 7 0 (domainOf 0 0) = none ∧ (system 2).instancesFull 0 = false ∧
    (toOpt ((system 2).readTarget (system 2).me (needCbcast (system 2).me 10 ⟨7, 2, 8, 8⟩))).map (fun o => (o.ta, o.tgt)) = some (0x10040, .paged 0x10040) := by
  and_intros <;> decide +kernel
def collective0 (n : Nat) (bcast : Bool) (l : List (Ref × Word)) : Collective := { vf := 0, inst := 7, scope := 0, dom := 0, n := n, ctl := 4, bcast := bcast, arrived := l }
/-- OP 3, scopes 2 and 5; a size of 4,096 and 4,104; the tenant may not synchronise over the package. -/
theorem test_meets_CollectivesComplete_refusals :
    ([0, 3, 0x20, 0x50] : List Word32).all (fun v => ([0, 4096, 4104] : List Word32).all (fun w =>
      comes s0 (.cred 3 1 0 ⟨7, 2, v, 0⟩) && comes s0 (.cbcast 3 1 9 0 ⟨7, 2, v, w⟩))) = true ∧ s0.me.passed = none ∧
    (0x20#32).toNat / 2 ^ 4 % 2 ^ 3 = 2 ∧ (s0.vf 0).scopepol.getLsbD 2 = false ∧ (0x50#32).toNat / 2 ^ 4 % 2 ^ 3 = 5 ∧ (3#32).toNat % 4 = 3 := by
  and_intros <;> decide +kernel
theorem test_meets_CollectivesComplete_full : ({ s0 with collectives := List.replicate 64 (collective0 2 false []) } : State).instancesFull 0 = true ∧
    ({ system 2 with collectives := List.replicate 64 (collective0 2 false []) } : State).instanceOf 0 8 0 (domainOf 0 0) = none := by decide
/-- Core 0 arrives at an instance that a thread of slot 1 has opened, as its second arrival of two and of three, and with another count. -/
theorem test_meets_CollectivesComplete_joins :
    (let s := fun (n : Nat) (bcast : Bool) => { system 3 with collectives := [collective0 n bcast [(⟨0, 1, 2⟩, 5)]] }
     (ok (s 2 false) (.cred 3 1 0 ⟨7, 2, 4, 0⟩) && ok (s 3 false) (.cred 3 1 0 ⟨7, 3, 4, 0⟩) && ok (s 3 true) (.cbcast 3 1 10 0 ⟨7, 3, 0, 8⟩)) = true ∧
     ((s 3 false).liveIn 0 0 (domainOf 0 0)).1 = 3 ∧ (s 3 false).instanceOf 0 7 0 (domainOf 0 0) = some (collective0 3 false [(⟨0, 1, 2⟩, 5)]) ∧
     (s 3 true).instanceOf 0 7 0 (domainOf 0 0) = some (collective0 3 true [(⟨0, 1, 2⟩, 5)]) ∧ (collective0 3 false []).ctl.toNat % 8 = (4 : Nat) % 8 ∧
     (collective0 2 false [(⟨0, 1, 2⟩, 5)]).arrived.length + 1 = 2 ∧ (collective0 3 false [(⟨0, 1, 2⟩, 5)]).arrived.length + 1 < 3 ∧
     (((s 3 true).pendingAny ⟨0, 1, 2⟩).map isRoot).getD false = false ∧ (s 3 false).wide 0 = false ∧
     (toOpt ((s 3 true).readTarget (s 3 true).me (needCbcast (s 3 true).me 10 ⟨7, 3, 0, 8⟩))).isSome = true ∧
     ((⟨0, 1, 2⟩ : Ref).core ≠ (s 2 false).curCore ∨ (⟨0, 1, 2⟩ : Ref).slot ≠ (s 2 false).curSlot)) := by
  and_intros <;> decide
theorem test_meets_CollectivesComplete_ends :
    (let i := Instr.cred 3 1 0 ⟨7, 2, 4, 0⟩
     let s := fun (l : List (Ref × Word)) => { flying i { a := 7 } .queued with collectives := [collective0 2 false l] }
     (s []).pending r1 = some (p1 i { a := 7 } .queued) ∧
     [collective0 2 false [(r1, 7)]].find? (fun c => c.arrived.any (fun a => a.1.id == r1.id)) = some (collective0 2 false [(r1, 7)]) ∧
     (collective0 2 false [(r1, 7)]).arrived.length < 2 ∧ 2 ≤ (collective0 2 false [(r1, 7), (⟨0, 1, 2⟩, 5)]).arrived.length) ∧
    (let i := Instr.cbcast 3 1 9 0 ⟨7, 2, 8, 8⟩
     let j := Instr.cbcast 3 1 9 0 ⟨7, 2, 0, 8⟩
     let o : Operands := { o0 with sys := true }
     let w : Pending := { p1 j { o with tgt := .raw 1 0 } .queued with id := 2 }
     let s := (flying i o .queued).putThr 0 1 { thread with pend := [w] }
     s.pending ⟨0, 1, 2⟩ = some w ∧ isRoot (p1 i o .queued) = true ∧
     toOpt (s.bufferPlaces (p1 i o .queued) { r := true }) = some [2 ^ 56] ∧ toOpt (s.bufferPlaces w { w := true }) = some [scratchLoc 1 0] ∧
     (s.bcastPay (collective0 2 true [(r1, 7), (⟨0, 1, 2⟩, 5)]) [(r1, p1 i o .queued), (⟨0, 1, 2⟩, w)]).2 = true) := by
  and_intros <;> decide
/-- An access that waits for page 1, and one at the memory port whose bucket is that of the memory. -/
theorem test_meets_PagerAndLines :
    (let p := p1 (.ld 3 10 0 0 6 0) { o0 with ta := 0x10040, tgt := .paged 0x10040 } .parked
     counted p.ins = false ∧ p.phase = .parked ∧ p.ops.ta < 0x20000 ∧ 0x10000 < p.ops.ta + max p.span 1 ∧ s0.owner 0 = 0 ∧ clusterOf 0 = 0 ∧ clusterOf 64 ≠ 0 ∧
     (1 : Nat) < 2 ^ 40 ∧ (s0.putCluster 0 {}).owner 0 ≠ 1) ∧
    (let s := paged 7 (.ld 3 10 0 0 6 0)
     oldest ((s.inFlight 0).filter (fun x => s.bucketFor 0 x.2 == some 0 && (s.portReady x.1 x.2 || s.bankReady x.1 x.2))) =
       some (r1, p1 (.ld 3 10 0 0 6 0) { tgt := .paged 0x10000, n := 8, ta := 0x10000, sys := true } .flight) ∧
     (p1 (.ld 3 10 0 0 6 0) { tgt := .paged 0x10000, n := 8, ta := 0x10000, sys := true } .flight).atBank = false) ∧
    s0.inFlight 0 = [] ∧
    (let p := p1 (.send 3 9 0) { tgt := .raw 0 0, a := 64, stage := 1 } .flight
     let s := flying p.ins p.ops .flight
     oldest ((s.inFlight 0).filter (fun x => s.bucketFor 0 x.2 == some 1 && (s.portReady x.1 x.2 || s.bankReady x.1 x.2))) = some (r1, p) ∧ p.atBank = true) := by
  and_intros <;> decide
/-- The last core of the 32 clusters, and the first number that is none of them. -/
theorem test_meets_ResetState : 2047 < coreCount ∧ ¬2048 < coreCount := by decide
/-- The last quad and one beyond it, the last cluster and one beyond it, a quad and an engine in reset. -/
theorem test_meets_ResetsAndReassignment :
    511 ∉ (s0.cluster (511 / 16)).resetting ∧ (512 : Nat) ≤ 512 ∧ 3 ∈ ((s0.putCluster 0 { resetting := [3] }).cluster 0).resetting ∧
    s0.booted = false ∧ ({ s0 with booted := true } : State).booted = true ∧ (s0.cluster 31).engineReset = false ∧ ((s0.putCluster 31 { engineReset := true }).cluster 31).engineReset = true := by
  and_intros <;> decide +kernel
/-- Quad 3 in reset with nothing on it, reassigned and not; a guest whose load is on its way. -/
def resetting (o : Option Nat) : State := s0.putCluster 0 { resetting := [3], reassigning := o.toList.map (fun f => (3, f)) }
theorem test_meets_ResetsAndReassignment_done :
    (∀ o ∈ [none, some 1], ((resetting o).cluster 0).heldAcc = [] ∧ alook ((resetting o).cluster 0).reassigning 3 = o ∧ ∀ c, quadOf c = 3 →
      ((resetting o).core c).arrivals = [] ∧ (∀ e ∈ ((resetting o).core c).tcc, e.2.th.guestOf 3 = false) ∧
      ∀ j, j < 16 → ((resetting o).thr c j).guestOf 3 = false) ∧
    (let s := (resetting none).putThr 12 11 { thread with home := 0, mig := true, pend := [p1 (.ld 3 9 0 0 6 0) o0 .flight] }
     quadOf 12 = 3 ∧ 3 ∈ (s.cluster 0).resetting ∧ (s.thr 12 11).guestOf 3 = true ∧ (s.thr 12 11).packable = false) := by
  refine ⟨fun o ht => ⟨?_, ?_, fun c hc => ?_⟩, by decide⟩
  · revert o; decide
  · revert o; decide
  · have : c ∈ [12, 13, 14, 15] := by
      simp only [quadOf] at hc; simp only [List.mem_cons, List.not_mem_nil, or_false]; omega
    simp only [List.mem_cons, List.not_mem_nil, or_false] at this ht
    rcases ht with rfl | rfl <;> rcases this with rfl | rfl | rfl | rfl <;> decide +kernel
theorem test_meets_ErrorsPowerBoot_errors :
    ((2 ^ 56 - 1 : Nat) < 2 ^ 56) ∧ (2 ^ 57 : Nat) ≤ 2 ^ 57 ∧ (paged 7 .brk).mem.wf = true ∧ ((paged 7 .brk).vf 0).root = some (2 ^ 28) ∧
    leafPlace (paged 7 .brk) 0x10000 [(30, 21), (21, 9), (16, 5)] (2 ^ 28) = some (2 ^ 28, 30) ∧
    (s0.link 15).up = false ∧ (let s := fun (l : Link) => { s0 with links := [(15, { l with up := true })], cycle := 2 ^ 20 + 7 }
     ((s {}).link 15).up = true ∧ (s { failed := 2 }).links ≠ [] ∧ ((s { failed := 2 }).link 15).failed < 3 ∧ 3 ≤ ((s { failed := 3 }).link 15).failed ∧
     (((s { replays := [7, 8, 9, 10, 11, 12, 13] }).link 15).replays.filter (fun c => decide (2 ^ 20 + 7 < c + 2 ^ 20)) ++ [2 ^ 20 + 7]).length < 8 ∧
     8 ≤ (((s { replays := [8, 8, 9, 10, 11, 12, 13] }).link 15).replays.filter (fun c => decide (2 ^ 20 + 7 < c + 2 ^ 20)) ++ [2 ^ 20 + 7]).length) ∧
    (1 ≤ 1 ∧ 1 ≤ 1) ∧ ¬(2 ≤ 1 ∧ 1 ≤ 3) := by
  and_intros <;> decide
/-- Cycles 1,023 and 1,024; a trigger whose stamp is reached, enabled and not. -/
theorem test_meets_ErrorsPowerBoot_intervals :
    { s0 with cycle := 1023 }.cycle % 1024 ≠ 0 ∧ ({ s0 with cycle := 1024 }.cycle % 1024 = 0 ∧ (s0.cluster 0).refilled ≠ 1024) ∧ s0.gatedAt ≠ 1024 ∧
    unlimited (0x0000000500000001 : Word) = false ∧ (15 : Nat) ≤ 15 ∧ s0.snapAt = none ∧
    (let x : Core := { snapCtl := 1 }
     let s := { s0 with cores := [(0, x)], snapAt := some 5, cycle := 5 }
     s.snapAt = some 5 ∧ s.cycle = 5 ∧ { s with cycle := 6 }.cycle ≠ 5 ∧ alook s.cores 0 = some x ∧ x.snapCtl.getLsbD 0 = true ∧ x.snapCtl.getLsbD 2 = false ∧ s.snapPin = false) ∧
    s0.booted = false ∧ s0.bootNow = List.replicate 8 0 ∧ fusesGood s0.fuses = true ∧ fusesGood none = false ∧ ({ s0 with booted := true } : State).booted = true := by
  and_intros <;> decide
/-- A core with a limited bucket that holds a token. -/
def thrifty : Core := { qhbm := 0x0000000500000001, hbmTok := 1 }
def thriftyState : State := { State.reset with cores := [(0, thrifty)], cycle := 1024 }
theorem test_meets_ErrorsPowerBoot_buckets : alook thriftyState.cores 0 = some thrifty ∧ unlimited thrifty.qhbm = false ∧ clusterOf 0 = 0 ∧
    ∀ k, (thriftyState.takeBuckets 0).lineWaits k 0 = false := by
  refine ⟨by decide, by decide, by decide, fun k => ?_⟩
  have h : ((thriftyState.takeBuckets 0).core k).hasToken 0 = true := by
    by_cases hk : k = 0
    · subst hk; decide
    · have : (thriftyState.takeBuckets 0).core k = Core.fresh := by
        simp only [State.core, State.takeBuckets, thriftyState, List.map_cons, List.map_nil, alook]; rw [if_neg (by omega)]; rfl
      rw [this]; decide
  simp [State.lineWaits, h]

/-- A band of a tenant with one quad in cluster 0, and the reset in which its quad passes to another. -/
theorem test_meets_ResetsAndReassignment_bands :
    (let s := { s0.putCluster 0 { resetting := [3], reassigning := [(3, 2)], bands := [(23, 1)] } with quads := [(3, 1)] }
     s.quadOwner 3 = 1 ∧ (2 : Nat) ≠ s.quadOwner 3 ∧ (List.range 16).all (fun x => x == 3 || s.quadOwner x != s.quadOwner 3) = true ∧
     s.unresolved = [] ∧ (3 : Nat) < 512 ∧ (s.cluster 0).heldAcc = [] ∧ (s0.cluster 0).lease = none) := by
  and_intros <;> decide
/-- The mailbox of function `fn` is open with one request, of the doublewords given, in its ring at host address 0. -/
def asked (fn : Nat) (ds : List Word) : State :=
  { s0 with mailboxes := [(fn, { opened := true, reqTail := 1 })]
            mem := (ds.zipIdx).foldl (fun m d => m.write (2 ^ 45 + 8 * d.2) 8 d.1.toNat) ⟨[]⟩ }
def takes (fn k : Nat) (ds : List Word) : Bool :=
  match (asked fn ds).nextRequest fn with | some e => e == ds && e.kind == k && e.reservedOk && kindAllowed fn k | none => false
/-- Power limits at each bound and beyond it; KIND 0 and 5. -/
theorem test_meets_MailboxWork_requests :
    takes 1 2 [2, 1, 0, 0, 1, 2, 3, 4] = true ∧ takes 1 3 [3, 0, 0, 0, 0, 0, 0, 0] = true ∧
    ((asked 1 [3, 1, 0, 0, 0, 0, 0, 0]).nextRequest 1 = some [3, 1, 0, 0, 0, 0, 0, 0] ∧ MbEntry.kind [3, 1, 0, 0, 0, 0, 0, 0] = 3 ∧
      MbEntry.reservedOk [3, 1, 0, 0, 0, 0, 0, 0] = false) ∧ takes 0 4 [4, 0x10002, 0, 0, 0, 0, 0, 0] = true ∧
    MbEntry.creg [4, 0x10002, 0, 0, 0, 0, 0, 0] = 2 ∧ MbEntry.cregWrite [4, 0x10002, 0, 0, 0, 0, 0, 0] = true ∧ takes 0 4 [4, 1, 0, 0, 0, 0, 0, 0] = true ∧ takes 0 4 [4, 2, 0, 0, 0, 0, 0, 0] = true ∧
    ([0x00000000000007D0, 0x000007D0000003E8, 0x00001D4C00000E10, 0x00001D4D00000E10] : List Word).all (fun v => takes 0 4 [4, 0x10001, v, 0, 0, 0, 0, 0]) = true ∧
    (asked 0 [0, 0, 0, 0, 0, 0, 0, 0]).nextRequest 0 = some [0, 0, 0, 0, 0, 0, 0, 0] ∧ (asked 0 [5, 0, 0, 0, 0, 0, 0, 0]).nextRequest 0 = some [5, 0, 0, 0, 0, 0, 0, 0] ∧
    (asked 1 []).owner 1 = 0 ∧ (asked 1 []).coreOut 1 = false ∧ (asked 1 []).quadDown 1 = false ∧ ((asked 1 []).core 1).inbox.length < 1024 ∧ ((asked 1 []).core 1).dqWaiters = [] ∧
    (1 : Word) = BitVec.ofNat 64 (s0.pkg.toNat * 2048 + 1) := by
  and_intros <;> decide +kernel
/-- A message held for core 1 of quad 0, which may be in reset, another tenant's, or full. -/
def holding (down : Bool) (owner n : Nat) : State :=
  { s0.modCore 1 (fun x => { x with inbox := List.replicate n m0 }) with
      mailboxes := [(1, { held := [(1, m0, 5)] })], quads := [(0, owner)], clusters := [(0, { resetting := if down then [0] else [] })] }
theorem test_meets_MailboxWork_held :
    ((holding false 0 3).mailbox 1).held = (1, m0, 5) :: [] ∧ (holding false 0 3).isCoreOf 1 0 = true ∧ (holding false 0 3).coreOut 1 = false ∧
    ((holding false 0 3).core 1).inbox.length < 1024 ∧ (holding false 0 3).quadDown 1 = false ∧ ((holding false 0 3).core 1).dqWaiters = [] ∧
    (holding false 1 3).isCoreOf 1 0 = false ∧ (holding true 0 3).isCoreOf 1 0 = true ∧ (holding true 0 3).quadDown 1 = true := by decide
def launching : State :=
  let s := (asked 1 [1, 5, 0x10000, 0x100000100, 1, 0, 0, 0]).putVf 0 { root := some (2 ^ 28) }
  { s with mem := s.mem.write (2 ^ 28) 8 0x17 }
theorem test_meets_MailboxWork_launch :
    launching.nextRequest 1 = some [1, 5, 0x10000, 0x100000100, 1, 0, 0, 0] ∧
    (let e : MbEntry := [1, 5, 0x10000, 0x100000100, 1, 0, 0, 0]
     e.reservedOk = true ∧ lwLaunchOk e.params = true ∧ lwTrace e.params = false ∧ e.params.w3 = 0 ∧ taOnChip (e.at_ 2).toNat = false) ∧
    (match launching.readTable 0 0x10000 16 with | .ok l => (tableCause l).isNone | _ => false) = true ∧ (launching.die 0).freeEntry = some 0 := by
  and_intros <;> decide +kernel
/-- A function 512 and 513; VER 1.0 and 0.9; a page and half a page; the last index and one beyond it; a ring with room and a full one. -/
theorem test_meets_MailboxWork_writes :
    (512 : Nat) ≤ 512 ∧ (0x10100#64).toNat / 2 ^ 17 = 0 ∧ (0x20000#64).toNat / 2 ^ 17 ≠ 0 ∧ (0x10100#64).getLsbD 16 = true ∧ 1 ≤ (0x10100#64).toNat / 256 % 256 ∧
    (0x10009#64).toNat / 256 % 256 = 0 ∧ (0x100#64).getLsbD 16 = false ∧ (0x1000#64).toNat % 4096 = 0 ∧ (0x800#64).toNat % 4096 ≠ 0 ∧ (s0.mailbox 0).opened = false ∧
    (0xFF#64).toNat < 256 ∧
    (let s := fun (h : BitVec 8) => { s0 with mailboxes := [(0, { opened := true, cplHead := h, waiting := [[1, 2, 3, 4]] })] }
     ((s 0).mailbox 0).waiting = [1, 2, 3, 4] :: [] ∧ ((s 0).mailbox 0).opened = true ∧ ((s 0).mailbox 0).cplTail + 1 ≠ ((s 0).mailbox 0).cplHead ∧
     ((s 1).mailbox 0).cplTail + 1 = ((s 1).mailbox 0).cplHead ∧ ([1, 2, 3, 4] : MbEntry)[3]? = some 4) := by decide

/-! ## What may not run, and what is left alone -/

/-- TM set; an ill-formed word of a thread. -/
theorem test_meets_BarredInstructions : blocked (.bankcfg 1 2 3 0 1) (timed vt0) = false ∧ (Instr.bankcfg 1 2 3 0 1).wf = true ∧ (timed vt0).me.tm = true ∧
    blocked (.vadd 0 0 1 0 1) s0 = false ∧ (Instr.vadd 0 0 1 0 1).wf = false ∧ (Instr.vadd 0 0 1 0 1).isStep = false := by decide
def stays (o : Out) : Bool := match o with | .next t => t.me.st == .run | _ => false
theorem not_trapped {i : Instr} (h : stays (exec i s0) = true) : ∀ code v, exec i s0 ≠ .next (s0.trapped code v) := by
  intro code v e
  have : stays (.next (s0.trapped code v)) = false := rfl
  rw [e, this] at h; exact absurd h (by simp)
theorem test_meets_ScalarFrames : Issues (.add 3 1 2) s0 ∧ Issues (.fadd 3 1 2 0) s0 ∧ (∀ q ∈ ([3, 1, 2, 0] : List Reg), s0.me.viewOf q = none) ∧
    (∀ code v, exec (.add 3 1 2) s0 ≠ .next (s0.trapped code v)) ∧ (∀ code v, exec (.fadd 3 1 2 0) s0 ≠ .next (s0.trapped code v)) :=
  ⟨issues_of (by decide), issues_of (by decide), by decide, not_trapped (by decide), not_trapped (by decide)⟩
theorem test_meets_AccessFrames : AtPlainBank (flying (.st 2 9 0 0 4 0) o0 .flight) r1 (p1 (.st 2 9 0 0 4 0) o0 .flight) 0 0 ∧
    (match atBank (flying (.st 2 9 0 0 4 0) o0 .flight) r1 with | .next _ => true | _ => false) = true ∧
    (match exec (.ld 3 9 0 0 6 0) s0 with | .next _ => true | _ => false) = true := by
  refine ⟨atPlain_of (by decide), by decide, by decide⟩

/-! ## Steps, encodings, and the whole machine -/

/-- An ADD, and a COPY with its parameter words, at the pc of the thread in slot 0, its code paged at 0x10100. -/
def code (ws : List Word32) : State :=
  let s := (on 0 { thread with x := thread.x.set 1 7 }).putVf 0 { root := some (2 ^ 28) }
  { s with booted := true, mem := (ws.zipIdx).foldl (fun m d => m.write (0x10100 + 4 * d.2) 4 d.1.toNat) ((⟨[]⟩ : Memory).write (2 ^ 28) 8 0x17) }
theorem test_meets_StepRunsDecodedInstruction :
    (code [0x04611000]).schedule = [] ∧ (code [0x04611000]).hardware.isNone = true ∧ (code [0x04611000]).nextIssue = some (0, 0, false) ∧
    (let s1 := (code [0x04611000]).spent 0 0 false
     (s1.thr 0 0).xw = none ∧ s1.fetchWord 0 (s1.thr 0 0) (s1.thr 0 0).pc = .ok 0x04611000 ∧ toOpt (decode (bytesOfWord 0x04611000)) = some (.add 3 1 2, 1)) ∧
    (let ws : List Word32 := [0xD80A5800, 8, 1, 0, 0]
     let s1 := (code ws).spent 0 0 false
     (List.range 5).all (fun n => s1.fetchWord 0 (s1.thr 0 0) ((s1.thr 0 0).pc + BitVec.ofNat 64 (4 * n)) = .ok (ws.getD n 0)) = true ∧
     (toOpt (decode (ws.flatMap bytesOfWord))).map (·.2) = some 5) ∧
    (let s := fun (i : Option Instr) (w : Word) => ((code [0x98000010]).modThr 0 0 (fun t =>
       { t with passed := i, pend := if i.isSome then [] else [p1 (.ld 3 9 0 0 6 0) o0 .flight] })).modCore 0 (fun x => { x with qhbmNow := w })
     let s1 := (s none (BitVec.allOnes 64)).spent 0 0 false
     passes (.fence 1) s1 = true ∧ s1.fetchWord 0 (s1.thr 0 0) (s1.thr 0 0).pc = .ok 0x98000010 ∧ (s1.thr 0 0).passed = none ∧
     (s none (BitVec.allOnes 64)).nextIssue = some (0, 0, false) ∧ (s none 0x0000000500000001).fetchPaid 0 ((s none 0x0000000500000001).thr 0 0) = false ∧
     (s (some (.fence 1)) (BitVec.allOnes 64)).nextIssue = some (0, 0, false)) ∧
    (let s := (code []).modThr 0 0 (fun t => { t with pc := 0x178 })
     let s1 := s.spent 0 0 false
     s.nextIssue = some (0, 0, false) ∧ (0x178 + 20 ≤ 2 ^ 61) ∧ (0x10178 + 4 * 2) % 128 = 0 ∧ s1.fetchBucket 0 (s1.thr 0 0) 0x178 = some 0 ∧
     s1.fetchBucket 0 (s1.thr 0 0) 0x180 = some 0) := by
  and_intros <;> decide +kernel
/-- A load of root-port space is performed, whatever the device gives. -/
theorem test_rootPort : (match exec (.portAccessPerformed 0 0 1) (paged (0x7 + 2 ^ 46) (.ld 3 10 0 0 6 0)) with
    | .next t => (t.pending r1).any (fun p => match p.phase with | .done _ => true | _ => false)
    | _ => false) = true := by decide
theorem test_meets_DecodeEncodeAgree : (Instr.add 3 1 2).wf = true ∧ (Instr.add 3 1 2).isStep = false ∧ State.reset.mem.wf = true := by decide
end Sys2Proof.Tests
end

namespace Sys2Proof.Numbers
open Sys2Proof.Machine

/-! ## Integer results: from exec to the value written (R99 to R101) -/

/-- An instruction whose meaning writes `f` of its thread to x[d] writes any `v` that `f` gives for the executing thread. -/
theorem writesX_of_exec {i : Instr} {s : State} {d : Reg} {v : Word} {f : Thread → Word}
    (he : exec i s = issue i s (fun t s => writeX d (f t) t s)) (hv : f s.me = v) : WritesX i s d v := by
  intro h
  rw [he, issue_of_issues h, writeX_eq, settle_ok, hv]

/-! ## Shifts, comparisons and divisions as operations on numbers (R28, R99, R100) -/

theorem shiftLeft_eq_ofNat (x : Word) (n : Nat) : x <<< n = BitVec.ofNat 64 (x.toNat * 2 ^ n) := by
  rw [← Nat.shiftLeft_eq]; rfl

theorem ushiftRight_eq_ofNat (x : Word) (n : Nat) : x >>> n = BitVec.ofNat 64 (x.toNat / 2 ^ n) := by
  apply BitVec.eq_of_toNat_eq
  have hlt : x.toNat / 2 ^ n < 2 ^ 64 := Nat.lt_of_le_of_lt (Nat.div_le_self _ _) x.isLt
  rw [BitVec.toNat_ushiftRight, Nat.shiftRight_eq_div_pow, BitVec.toNat_ofNat, Nat.mod_eq_of_lt hlt]

theorem sshiftRight_eq_ofInt (x : Word) (n : Nat) : x.sshiftRight n = BitVec.ofInt 64 (x.toInt / 2 ^ n) := by
  rw [BitVec.sshiftRight, Int.shiftRight_eq_div_pow]; norm_cast

theorem mul_eq_ofNat (x y : Word) : x * y = BitVec.ofNat 64 (x.toNat * y.toNat) := by
  apply BitVec.eq_of_toNat_eq
  rw [BitVec.toNat_mul, BitVec.toNat_ofNat]

theorem flagWord_slt (x y : Word) : flagWord (x.slt y) = if x.toInt < y.toInt then 1 else 0 := by
  simp only [flagWord, BitVec.slt_iff_toInt_lt]

theorem flagWord_ult (x y : Word) : flagWord (x.ult y) = if x.toNat < y.toNat then 1 else 0 := by
  simp only [flagWord, BitVec.ult_iff_toNat_lt]

theorem lesserSigned_eq_ofInt (x y : Word) : (if y.slt x then y else x) = BitVec.ofInt 64 (min x.toInt y.toInt) := by
  simp only [BitVec.slt_iff_toInt_lt]
  split
  · next h => rw [Int.min_eq_right (Int.le_of_lt h), BitVec.ofInt_toInt]
  · next h => rw [Int.min_eq_left (Int.not_lt.mp h), BitVec.ofInt_toInt]

theorem greaterSigned_eq_ofInt (x y : Word) : (if x.slt y then y else x) = BitVec.ofInt 64 (max x.toInt y.toInt) := by
  simp only [BitVec.slt_iff_toInt_lt]
  split
  · next h => rw [Int.max_eq_right (Int.le_of_lt h), BitVec.ofInt_toInt]
  · next h => rw [Int.max_eq_left (Int.not_lt.mp h), BitVec.ofInt_toInt]

theorem lesserUnsigned_eq_ofNat (x y : Word) : (if y.ult x then y else x) = BitVec.ofNat 64 (min x.toNat y.toNat) := by
  simp only [BitVec.ult_iff_toNat_lt]
  split
  · next h => rw [Nat.min_eq_right (Nat.le_of_lt h), BitVec.ofNat_toNat, BitVec.setWidth_eq]
  · next h => rw [Nat.min_eq_left (Nat.not_lt.mp h), BitVec.ofNat_toNat, BitVec.setWidth_eq]

theorem greaterUnsigned_eq_ofNat (x y : Word) : (if x.ult y then y else x) = BitVec.ofNat 64 (max x.toNat y.toNat) := by
  simp only [BitVec.ult_iff_toNat_lt]
  split
  · next h => rw [Nat.max_eq_right (Nat.le_of_lt h), BitVec.ofNat_toNat, BitVec.setWidth_eq]
  · next h => rw [Nat.max_eq_left (Nat.not_lt.mp h), BitVec.ofNat_toNat, BitVec.setWidth_eq]

theorem remS_eq_sub_mul_quotient (x y : Word) :
    remS x y = if y = 0 then x else BitVec.ofInt 64 (x.toInt - y.toInt * x.toInt.tdiv y.toInt) := by
  rw [remS, Int.tmod_def]

theorem remU_eq_sub_mul_quotient (x y : Word) :
    remU x y = if y = 0 then x else BitVec.ofNat 64 (x.toNat - y.toNat * (x.toNat / y.toNat)) := by
  rw [remU, Nat.mod_def]

/-! ## Counts of bits (R101) -/

theorem clzFrom_le (a : Word) (n : Nat) : clzFrom a n ≤ n := by
  induction n with
  | zero => exact Nat.le_refl 0
  | succ n ih => rw [clzFrom]; split <;> omega

/-- The bits that are counted as leading zeros are zero. -/
theorem getLsbD_of_ge_sub_clzFrom (a : Word) (n i : Nat) (hi : n - clzFrom a n ≤ i) (hn : i < n) : a.getLsbD i = false := by
  induction n with
  | zero => omega
  | succ n ih =>
    rw [clzFrom] at hi
    cases hb : a.getLsbD n with
    | true => rw [hb, if_pos rfl] at hi; omega
    | false =>
      rw [hb, if_neg (by decide)] at hi
      by_cases h : i = n
      · rw [h, hb]
      · exact ih (by omega) (by omega)

/-- The bit below the leading zeros is one. -/
theorem getLsbD_below_clzFrom (a : Word) (n : Nat) (h : clzFrom a n < n) : a.getLsbD (n - 1 - clzFrom a n) = true := by
  induction n with
  | zero => omega
  | succ n ih =>
    rw [clzFrom] at h ⊢
    cases hb : a.getLsbD n with
    | true => simpa using hb
    | false =>
      rw [hb, if_neg (by decide)] at h
      have hk : n + 1 - 1 - (1 + clzFrom a n) = n - 1 - clzFrom a n := by omega
      rw [if_neg (by decide), hk]
      exact ih (by omega)

theorem toNat_lt_of_clzFrom (a : Word) : a.toNat < 2 ^ (64 - clzFrom a 64) := by
  apply Nat.lt_pow_two_of_testBit
  intro i hi
  rw [BitVec.testBit_toNat]
  by_cases h : i < 64
  · exact getLsbD_of_ge_sub_clzFrom a 64 i hi h
  · exact BitVec.getLsbD_of_ge a i (Nat.not_lt.mp h)

theorem le_toNat_of_clzFrom (a : Word) (h : clzFrom a 64 < 64) : 2 ^ (63 - clzFrom a 64) ≤ a.toNat :=
  Nat.ge_two_pow_of_testBit ((BitVec.testBit_toNat a).trans (getLsbD_below_clzFrom a 64 h))

theorem ctzFrom_le (a : Word) (n : Nat) : ctzFrom a n ≤ n := by
  induction n with
  | zero => exact Nat.le_refl 0
  | succ n ih => rw [ctzFrom]; split <;> omega

/-- The bits that are counted as trailing zeros are zero. -/
theorem getLsbD_of_lt_ctzFrom (a : Word) (n i : Nat) (hn : n ≤ 64) (hl : 64 - n ≤ i) (hi : i < 64 - n + ctzFrom a n) :
    a.getLsbD i = false := by
  induction n with
  | zero => rw [ctzFrom] at hi; omega
  | succ n ih =>
    rw [ctzFrom] at hi
    cases hb : a.getLsbD (63 - n) with
    | true => rw [hb, if_pos rfl] at hi; omega
    | false =>
      rw [hb, if_neg (by decide)] at hi
      by_cases h : i = 63 - n
      · rw [h, hb]
      · exact ih (by omega) (by omega) (by omega)

/-- The bit above the trailing zeros is one. -/
theorem getLsbD_above_ctzFrom (a : Word) (n : Nat) (hn : n ≤ 64) (h : ctzFrom a n < n) :
    a.getLsbD (64 - n + ctzFrom a n) = true := by
  induction n with
  | zero => omega
  | succ n ih =>
    rw [ctzFrom] at h ⊢
    cases hb : a.getLsbD (63 - n) with
    | true =>
      have hk : 64 - (n + 1) + 0 = 63 - n := by omega
      rw [if_pos rfl, hk, hb]
    | false =>
      rw [hb, if_neg (by decide)] at h
      have hk : 64 - (n + 1) + (1 + ctzFrom a n) = 64 - n + ctzFrom a n := by omega
      rw [if_neg (by decide), hk]
      exact ih (by omega) (by omega)

theorem popFrom_eq_length_filter (a : Word) (n : Nat) :
    popFrom a n = ((List.range n).filter (fun i => a.getLsbD i)).length := by
  induction n with
  | zero => rfl
  | succ n ih =>
    rw [popFrom, ih, List.range_succ, List.filter_append, List.length_append]
    cases hb : a.getLsbD n <;> simp [hb, Nat.add_comm]

/-! ## The integer instructions (R28, R99 to R101) -/

theorem exists_writesX_clz (s : State) (d a : Reg) :
    ∃ n, n ≤ 64 ∧ WritesX (.clz d a) s d (BitVec.ofNat 64 n) ∧ (s.me.rx a).toNat < 2 ^ (64 - n) ∧
      (n < 64 → 2 ^ (63 - n) ≤ (s.me.rx a).toNat) :=
  ⟨clzFrom (s.me.rx a) 64, clzFrom_le _ _, writesX_of_exec (exec_clz d a s) rfl, toNat_lt_of_clzFrom _,
    le_toNat_of_clzFrom _⟩

theorem exists_writesX_ctz (s : State) (d a : Reg) :
    ∃ n, n ≤ 64 ∧ WritesX (.ctz d a) s d (BitVec.ofNat 64 n) ∧ (∀ i, i < n → (s.me.rx a).getLsbD i = false) ∧
      (n < 64 → (s.me.rx a).getLsbD n = true) := by
  refine ⟨ctzFrom (s.me.rx a) 64, ctzFrom_le _ _, writesX_of_exec (exec_ctz d a s) rfl, fun i hi => ?_, fun h => ?_⟩
  · exact getLsbD_of_lt_ctzFrom (s.me.rx a) 64 i (Nat.le_refl 64) (by omega) (by omega)
  · have hbit := getLsbD_above_ctzFrom (s.me.rx a) 64 (Nat.le_refl 64) h
    rwa [Nat.sub_self, Nat.zero_add] at hbit

/-- Settles O1: each meaning writes its value, and each value is the number that the rules give. -/
theorem integerResults : Obligations.IntegerResults := by
  refine ⟨fun s d a b => ⟨?_, ?_, ?_, ?_, ?_, ?_, ?_, ?_, ?_, ?_, ?_, ?_, ?_, ?_⟩,
    fun s d a b => ⟨?_, ?_, ?_, ?_, ?_, ?_, ?_⟩, fun s d a b c => ⟨?_, ?_, ?_, ?_⟩⟩
  · exact writesX_of_exec (exec_add d a b s) rfl
  · exact writesX_of_exec (exec_sub d a b s) rfl
  · exact writesX_of_exec (exec_and d a b s) rfl
  · exact writesX_of_exec (exec_or d a b s) rfl
  · exact writesX_of_exec (exec_xor d a b s) rfl
  · exact writesX_of_exec (exec_sll d a b s) (shiftLeft_eq_ofNat _ _)
  · exact writesX_of_exec (exec_srl d a b s) (ushiftRight_eq_ofNat _ _)
  · exact writesX_of_exec (exec_sra d a b s) (sshiftRight_eq_ofInt _ _)
  · exact writesX_of_exec (exec_slt d a b s) (flagWord_slt _ _)
  · exact writesX_of_exec (exec_sltu d a b s) (flagWord_ult _ _)
  · exact writesX_of_exec (exec_min d a b s) (lesserSigned_eq_ofInt _ _)
  · exact writesX_of_exec (exec_max d a b s) (greaterSigned_eq_ofInt _ _)
  · exact writesX_of_exec (exec_minu d a b s) (lesserUnsigned_eq_ofNat _ _)
  · exact writesX_of_exec (exec_maxu d a b s) (greaterUnsigned_eq_ofNat _ _)
  · exact writesX_of_exec (exec_mul d a b s) (mul_eq_ofNat _ _)
  · exact writesX_of_exec (exec_mulh d a b s) rfl
  · exact writesX_of_exec (exec_mulhu d a b s) rfl
  · exact writesX_of_exec (exec_div d a b s) rfl
  · exact writesX_of_exec (exec_divu d a b s) rfl
  · exact writesX_of_exec (exec_rem d a b s) (remS_eq_sub_mul_quotient _ _)
  · exact writesX_of_exec (exec_remu d a b s) (remU_eq_sub_mul_quotient _ _)
  · exact exists_writesX_clz s d a
  · exact exists_writesX_ctz s d a
  · exact writesX_of_exec (exec_popc d a s) (congrArg (BitVec.ofNat 64) (popFrom_eq_length_filter _ _))
  · exact writesX_of_exec (exec_sel d a b c s) rfl

/-! ## A reserved rounding mode (R35) -/

/-- FCSR.RM of 4 to 7 names no mode. -/
theorem mode_eq_none_of_reserved {t : Thread} (h : 4 ≤ t.fcsr.toNat / 2 ^ 5 % 8) : t.mode 7 = none := by
  have hrm : ¬t.rm < 4 := Nat.not_lt.mpr h
  rw [Thread.mode, if_pos rfl, if_neg hrm]

theorem withMode_of_none {t : Thread} {rm : BitVec 3} (h : t.mode rm = none) (i : Instr) (k : Mode → Act) :
    withMode i rm t k = .illop i := by
  rw [withMode, h]

theorem fpRound_of_none {t : Thread} {rm : BitVec 3} (h : t.mode rm = none) (i : Instr) (d : Reg)
    (f : Mode → List Word → FRes) (s : State) : fpRound i d rm f t s = .illop i :=
  withMode_of_none h i _

theorem sfuIssue_of_none {t : Thread} {rm : BitVec 3} (h : t.mode rm = none) (i : Instr) (s : State) :
    sfuIssue i rm t s = .illop i :=
  withMode_of_none h i _

/-- Every FCVT but the two that widen rounds, and so needs a mode (R112). -/
theorem convert_of_none {t : Thread} {m : BitVec 3} (h : t.mode m = none) (i : Instr) (d a : Reg) (k : BitVec 3)
    (hk : k.toNat < 6) (s : State) : convert i d a m k t s = .illop i := by
  have hsub : k.toNat = 0 ∨ k.toNat = 1 ∨ k.toNat = 2 ∨ k.toNat = 3 ∨ k.toNat = 4 ∨ k.toNat = 5 := by omega
  rcases hsub with hk | hk | hk | hk | hk | hk <;> rw [convert, hk]
  · exact fpRound_of_none h i d _ s
  · exact fpRound_of_none h i d _ s
  · exact withMode_of_none h i _
  · exact withMode_of_none h i _
  · exact fpRound_of_none h i d _ s
  · exact fpRound_of_none h i d _ s

/-- An instruction that issues and whose meaning is ILLOP traps with TVAL the word. -/
theorem exec_traps_of_illop {i : Instr} {s : State} {body : Thread → State → Act} (h : Issues i s)
    (he : exec i s = issue i s body) (hb : body s.me s = .illop i) :
    exec i s = .next (s.trapped cILLOP (i.word.setWidth 64)) := by
  rw [he, issue_of_issues h, hb, Act.illop, settle_fail, wordVal]

theorem roundingInstr_traps_of_reserved (s : State) (d a b c : Reg) (l : BitVec 4) (i : Instr)
    (hi : i ∈ [.fadd d a b 7, .fsub d a b 7, .fmul d a b 7, .fdiv d a b 7, .fsqrt d a 7, .fma d a b c 7, .fms d a b c 7,
      .fnma d a b c 7, .fnms d a b c 7, .fcvt d a 7 0, .fcvt d a 7 1, .fcvt d a 7 2, .fcvt d a 7 3, .fcvt d a 7 4,
      .fcvt d a 7 5, .fexp d a l 7, .flog d a l 7, .frcp d a l 7, .frsq d a l 7, .ftanh d a l 7, .fsigm d a l 7])
    (h : Issues i s) (hrm : 4 ≤ s.me.fcsr.toNat / 2 ^ 5 % 8) :
    exec i s = .next (s.trapped cILLOP (i.word.setWidth 64)) := by
  have hm : s.me.mode 7 = none := mode_eq_none_of_reserved hrm
  simp only [List.mem_cons, List.not_mem_nil, or_false] at hi
  rcases hi with rfl | rfl | rfl | rfl | rfl | rfl | rfl | rfl | rfl | rfl | rfl | rfl | rfl | rfl | rfl | rfl | rfl | rfl |
    rfl | rfl | rfl
  · exact exec_traps_of_illop h (exec_fadd d a b 7 s) (fpRound_of_none hm _ d _ s)
  · exact exec_traps_of_illop h (exec_fsub d a b 7 s) (fpRound_of_none hm _ d _ s)
  · exact exec_traps_of_illop h (exec_fmul d a b 7 s) (fpRound_of_none hm _ d _ s)
  · exact exec_traps_of_illop h (exec_fdiv d a b 7 s) (fpRound_of_none hm _ d _ s)
  · exact exec_traps_of_illop h (exec_fsqrt d a 7 s) (fpRound_of_none hm _ d _ s)
  · exact exec_traps_of_illop h (exec_fma d a b c 7 s) (fpRound_of_none hm _ d _ s)
  · exact exec_traps_of_illop h (exec_fms d a b c 7 s) (fpRound_of_none hm _ d _ s)
  · exact exec_traps_of_illop h (exec_fnma d a b c 7 s) (fpRound_of_none hm _ d _ s)
  · exact exec_traps_of_illop h (exec_fnms d a b c 7 s) (fpRound_of_none hm _ d _ s)
  · exact exec_traps_of_illop h (exec_fcvt d a 7 0 s) (convert_of_none hm _ d a 0 (by decide) s)
  · exact exec_traps_of_illop h (exec_fcvt d a 7 1 s) (convert_of_none hm _ d a 1 (by decide) s)
  · exact exec_traps_of_illop h (exec_fcvt d a 7 2 s) (convert_of_none hm _ d a 2 (by decide) s)
  · exact exec_traps_of_illop h (exec_fcvt d a 7 3 s) (convert_of_none hm _ d a 3 (by decide) s)
  · exact exec_traps_of_illop h (exec_fcvt d a 7 4 s) (convert_of_none hm _ d a 4 (by decide) s)
  · exact exec_traps_of_illop h (exec_fcvt d a 7 5 s) (convert_of_none hm _ d a 5 (by decide) s)
  · exact exec_traps_of_illop h (exec_fexp d a l 7 s) (sfuIssue_of_none hm _ s)
  · exact exec_traps_of_illop h (exec_flog d a l 7 s) (sfuIssue_of_none hm _ s)
  · exact exec_traps_of_illop h (exec_frcp d a l 7 s) (sfuIssue_of_none hm _ s)
  · exact exec_traps_of_illop h (exec_frsq d a l 7 s) (sfuIssue_of_none hm _ s)
  · exact exec_traps_of_illop h (exec_ftanh d a l 7 s) (sfuIssue_of_none hm _ s)
  · exact exec_traps_of_illop h (exec_fsigm d a l 7 s) (sfuIssue_of_none hm _ s)

/-! ## NaNs of FP32 (R31, R32) -/

/-- A NaN has its exponent field all ones and a fraction that is not zero. -/
theorem nan32_iff_fields (w : Word32) : nan32 w ↔ w.toNat / 2 ^ 23 % 2 ^ 8 = 255 ∧ w.toNat % 2 ^ 23 ≠ 0 := by
  unfold nan32; omega

/-- A NaN decodes to its sign and its fraction field. -/
theorem decode_fp32_of_nan {w : Word32} (h : nan32 w) :
    fp32.decode w.toNat = .nan (fp32.signBit w.toNat) (w.toNat % 2 ^ 23) := by
  obtain ⟨hx, hf⟩ := (nan32_iff_fields w).mp h
  have hones : fp32.sp = .ieee ∧ w.toNat / 2 ^ fp32.fb % 2 ^ fp32.eb = 2 ^ fp32.eb - 1 := ⟨rfl, hx⟩
  have hfrac : ¬w.toNat % 2 ^ fp32.fb = 0 := hf
  simp only [Fmt.decode, if_pos hones, if_neg hfrac]
  rfl

/-- Any other word decodes to an infinity or a number. -/
theorem decode_fp32_of_not_nan {w : Word32} (h : ¬nan32 w) :
    (∃ s, fp32.decode w.toNat = .inf s) ∨ ∃ s m e, fp32.decode w.toNat = .num s m e := by
  by_cases hones : fp32.sp = .ieee ∧ w.toNat / 2 ^ fp32.fb % 2 ^ fp32.eb = 2 ^ fp32.eb - 1
  · have hfrac : w.toNat % 2 ^ fp32.fb = 0 :=
      Decidable.byContradiction fun hf => h ((nan32_iff_fields w).mpr ⟨hones.2, hf⟩)
    left
    simp only [Fmt.decode, if_pos hones, if_pos hfrac]
    exact ⟨_, rfl⟩
  · have he4m3 : ¬(fp32.sp = .e4m3 ∧ w.toNat / 2 ^ fp32.fb % 2 ^ fp32.eb = 15 ∧ w.toNat % 2 ^ fp32.fb = 7) :=
      fun hc => absurd hc.1 (by decide)
    right
    simp only [Fmt.decode, if_neg hones, if_neg he4m3]
    split <;> exact ⟨_, _, _, rfl⟩

theorem isNaN32_iff (w : Word32) : isNaN32 w = true ↔ nan32 w := by
  by_cases h : nan32 w
  · simp only [isNaN32, decode_fp32_of_nan h, h]
  · rcases decode_fp32_of_not_nan h with ⟨s, hd⟩ | ⟨s, m, e, hd⟩ <;>
      simp only [isNaN32, hd, h, Bool.false_eq_true]

/-- A NaN is a signalling one when its quiet bit, the highest of its fraction, is clear. -/
theorem isSNaN32_iff (w : Word32) : isSNaN32 w = true ↔ snan32 w := by
  by_cases h : nan32 w
  · have hquiet : w.toNat % 2 ^ 23 < 2 ^ 22 ↔ w.toNat / 2 ^ 22 % 2 = 0 := by omega
    simp only [isSNaN32, decode_fp32_of_nan h, decide_eq_true_eq, hquiet, snan32, h, true_and]
  · rcases decode_fp32_of_not_nan h with ⟨s, hd⟩ | ⟨s, m, e, hd⟩ <;>
      simp only [isSNaN32, hd, snan32, h, false_and, Bool.false_eq_true]

/-- Of two operands with a NaN, the first NaN is the result, with its quiet bit set; NV is for a signalling one. -/
theorem firstNaN_pair_of_nan {a b : Word32} (h : nan32 a ∨ nan32 b) :
    firstNaN [a, b] = some ⟨(if nan32 a then a else b) ||| 0x00400000#32, if snan32 a ∨ snan32 b then fNV else 0⟩ := by
  have hfind : [a, b].find? isNaN32 = some (if nan32 a then a else b) := by
    by_cases ha : nan32 a
    · rw [List.find?_cons_of_pos ((isNaN32_iff a).mpr ha), if_pos ha]
    · have hb : nan32 b := h.resolve_left ha
      rw [List.find?_cons_of_neg (mt (isNaN32_iff a).mp ha), List.find?_cons_of_pos ((isNaN32_iff b).mpr hb), if_neg ha]
  have hany : [a, b].any isSNaN32 = true ↔ snan32 a ∨ snan32 b := by
    simp only [List.any_cons, List.any_nil, Bool.or_false, Bool.or_eq_true, isSNaN32_iff]
  simp only [firstNaN, hfind, hany, quiet32]

/-- Each operation of two operands gives the first NaN of their operands where there is one. -/
theorem arith32_of_firstNaN {a b : Word32} {r : FRes} (h : firstNaN [a, b] = some r) (m : Mode) :
    fAdd m a b = r ∧ fSub m a b = r ∧ fMul m a b = r ∧ fDiv m a b = r := by
  simp only [fAdd, fSub, fMul, fDiv, h, and_self]

/-- Settles O6: a reserved mode makes every rounding meaning ILLOP, and every operation looks for a NaN first. The invalid
operations are evaluations of the model, in every mode. -/
theorem roundingModesAndNaNs : Obligations.RoundingModesAndNaNs :=
  ⟨roundingInstr_traps_of_reserved, fun m _ _ =>
    ⟨fun h => arith32_of_firstNaN (firstNaN_pair_of_nan h) m, rfl, rfl, rfl, rfl, rfl, rfl⟩⟩

end Sys2Proof.Numbers
